-- ==== Sys2Proof/Word.lean ====
section
/-! DEFINITION. The word types of the block and the shape of a sparse table (00_scope.md R2, R3). -/
namespace Sys2Proof

abbrev Byte := BitVec 8
abbrev W16 := BitVec 16
abbrev W32 := BitVec 32
abbrev W48 := BitVec 48
abbrev W64 := BitVec 64

/-- A request table slot, 0 to 131,071 (03 R64). -/
abbrev Slot := BitVec 17

/-- A sparse table: (key, value) pairs, keys strictly rising, no value equal to the table's default.
The operations and the canonical form are in Machine/Table.lean. -/
abbrev Tbl (α : Type) := List (Nat × α)

/-- A calibration scale word UE8M8 (09 R296). -/
abbrev Scale := BitVec 16

end Sys2Proof
end

