-- ==== Sys2Proof/Config.lean ====
section
/-! DEFINITION. What the spec leaves open, as constants with no body: no proof can see a value of one of them.
The published standards that the spec names and does not explain are here too. -/
namespace Sys2Proof.Config

/-- A free bit, one for each value of the state's counter: a crossing accepts a change 2 or 3 cycles later
(18 R519, R527). Log entry 3. -/
opaque freeBit : Nat → Bool

/-- SHA-256 (FIPS 180-4), named in 14 R433 and not explained: the number whose little-endian bytes the digest is
(00 R3). Log entries 4 and 46. -/
opaque sha256 : List Byte → BitVec 256
/-- SHA-384 (FIPS 180-4), named in 19 R546 and R551, in the same form. Log entries 4 and 46. -/
opaque sha384 : List Byte → BitVec 384
/-- HMAC-SHA-384 (key, message), named in 19 R551. Log entry 4. -/
opaque hmacSha384 : BitVec 384 → List Byte → BitVec 384
/-- ECDSA P-384 verification: public key (x then y), digest, signature (r then s) (19 R546). Log entry 4. -/
opaque ecdsaVerify : BitVec 768 → BitVec 384 → BitVec 768 → Bool
/-- The P-384 public key of the private key that 19 R551 derives from an HMAC output. Log entry 4. -/
opaque p384Public : BitVec 384 → BitVec 768
/-- An ECDSA P-384 signature (r then s) by the key derived from an HMAC output, over a digest (19 R552). Log entry 4. -/
opaque p384Sign : BitVec 384 → BitVec 384 → BitVec 768
/-- AES-128 (FIPS 197): key, block (13 R411). Log entry 4. -/
opaque aes128 : BitVec 128 → BitVec 128 → BitVec 128
/-- The bytes of the boot ROM, whose digest enters CDI_0 (19 R551). Log entry 4. -/
opaque bootRom : List Byte

/-- One byte of the byte-rule automata: the plans' byte-rule image, the 16 automaton states and the byte give the
next states and the event codes of the matches that end at the byte. The image format is not in the spec
(08 R257). Log entry 5. -/
opaque ruleStep : List Byte → List W32 → Byte → List W32 × List W32

/-- The order in which a tile adds its products, fixed by the tile plan and the engine and not given by the spec
(09 R304, R320): plan image, tile, engine, reduction length. Log entry 21. -/
opaque accOrder : List Byte → Nat → Nat → Nat → List Nat

/-- Which of the 16 groups of 8 bits of an output block decides an element of a block of 128 (13 R411): the spec gives
16 groups and 128 elements to a block. Log entry 94. -/
opaque dropGroup : Nat → Fin 16

/-- Pages that the training state of a set with so many elements takes (11 R557; 13 R408): its layout is not given.
Log entry 22. -/
opaque trainPages : Nat → Nat
/-- Page number of page i of the training state of a set (11 R376; 13 R408): its place is not given. Log entry 22. -/
opaque trainPage : Nat → Nat → BitVec 22

/-- The 4 KiB fragment that a checkpoint slot holds in host memory (14 R437), by slot and the state's counter, where the
command does not carry it. Log entry 27. -/
opaque hostFragment : Bool → Nat → List Byte

/-- A value that the spec states no result for, by a number that names the place and by the state's counter.
Log entry 6. -/
opaque freeWord : Nat → Nat → W64

end Sys2Proof.Config
end

