-- ==== Sys2Proof/Syntax.lean ====
section
/-! DEFINITION. The commands of the block: one constructor of `Instr` per row of spec/opcode_table.json,
with the data the spec gives the operation or event. -/
namespace Sys2Proof

/-- The two management paths (15_management.md). -/
inductive Path | mailbox | can
deriving DecidableEq, Repr, Inhabited

/-- How an NMT command arrives (15 R451): a CAN frame addressed to a node-ID or to 0, or a write of 0x2001:01. -/
inductive NmtVia | frame (node : BitVec 7) | object (p : Path)
deriving DecidableEq, Repr, Inhabited

/-- One USDO exchange of a transfer (15 R460, R461, R464): the whole value at once, the opening of a segmented
transfer with its total length, or one segment. -/
inductive Xfer | expedited | initiate (total : W32) | segment (last : Bool)
deriving DecidableEq, Repr, Inhabited

/-- The detail codes of 17 R499. -/
inductive ErrCode
  | eccCorrected | eccUncorrected | parity | hbmCorrected | hbmUncorrected | vocabSram | maskCache
  | requestEntry | calibrationSlot | linkRetry | linkDown
  | scaleSkew | nonfinite | culletMissing | culletStray | intEscape | tensorHeader | rescaleRange | wideFull
  | scaleCeiling
  | mortiseEccCorrected | mortiseEcc | mortiseSuspect | cascadeTimeout | cascadeCrc | cascadeRing | actionBad
  | vocabImageBad | grammarImageBad | planImageBad | deltaImageBad | backboneImageBad | deltaDensity | maskSlots
  | tuneFault | stashFull | staleApplied | staleDiscarded | publishDeferred | stateFull | checkpointFailed
  | foreignShard | restoreVersions | startRefused
  | coldFull | coldWrite | coldCorrupt | hostWrite | tickAbsent
  | tickConfig | latencyShare | hbmRegions | versions | tickOverrun | delayTarget | thermalAlert | supplyRange
deriving DecidableEq, Repr, Inhabited

/-- A data-hierarchy place as a report writes it (01 R12, R14): level code and source id. -/
structure Place where
  level : BitVec 3 := 0
  source : BitVec 21 := 0
deriving DecidableEq, Repr, Inhabited

/-- A vector cell (01 R7, R12): dense engines have 256, stream engines 128, pattern engines none (R13). -/
inductive VCell | dense (engine : Fin 32) (cell : Fin 256) | stream (engine : Fin 16) (cell : Fin 128)
deriving DecidableEq, Repr, Inhabited

/-- A unit of the stack with its index (01 R14). The rails have no count in the spec. -/
inductive StackUnit
  | gaffer (core : Fin 16) | marver (group : Fin 256) | mortise (bank : Fin 16) | sram (region : Fin 4)
  | hbm (stack : Fin 4) | ucie (module : Fin 8) | canFd | mailbox | fuses | identity | power (rail : BitVec 14) | joist
  | sensor (n : Fin 76) | globalTime | cascade | tick
deriving DecidableEq, Repr, Inhabited

/-- Where an error is detected (01 R12 to R14): a unit of one of the levels that Bruvar reports. A byte lane of a
pattern engine has no vector cell; level 7 is not produced. -/
inductive ErrAt
  | none
  | lane (cell : VCell) (lane : Fin 64)
  | byteLane (pattern : Fin 8) (lane : Fin 16)
  | cell (c : VCell)
  | engine (e : Fin 56) (sub : Fin 6)
  | bent (b : Fin 8) (sub : Fin 3)
  | stack (u : StackUnit)
  | host (port : Fin 13)
deriving DecidableEq, Repr, Inhabited

/-- An error that a unit detects while a step runs (17 R505, R506): its code, where, and its arguments. -/
structure DetErr where
  code : ErrCode
  place : ErrAt := .none
  argA : W64 := 0
  argB : W64 := 0
deriving DecidableEq, Repr, Inhabited

/-- A descriptor as accepted into the core timing domain (03 R56): the port it arrived on and its 64 bytes less
the type, which the constructor names. Bit 0 of `payload` is bit 0 of byte 12. -/
structure Desc where
  port : Fin 8
  flags : Byte := 0
  portSeq : W16 := 0
  tick : W32 := 0
  handle : W32 := 0
  payload : BitVec 416 := 0
deriving DecidableEq, Repr, Inhabited

/-- Score heads 0 to 3 of one result; `none` is an absent head (07 R224). -/
structure Heads where
  h0 : Option W16 := none
  h1 : Option W16 := none
  h2 : Option W16 := none
  h3 : Option W16 := none
deriving DecidableEq, Repr, Inhabited

/-- One stored group of a narrow tensor (09 R295 to R301): scale word, zero point, element codes (32-bit words for
FP32, else the low bits), cullet entries (index, E8M7) and the side-area elements of a wide group. -/
structure Group where
  scale : W16 := 0
  zp : Byte := 0
  codes : List W32 := []
  cullets : List (Byte × W16) := []
  side : List W16 := []
deriving DecidableEq, Repr, Inhabited

/-- What a tile writes (09 R295, R298, R308, R309): the output format (0xF is FP32), its grouping code and the groups that
its side area can hold. -/
structure TileOut where
  fmt : BitVec 4 := 0xF
  grouping : BitVec 3 := 0
  zp : Byte := 0
  wideCap : Nat := 0
deriving DecidableEq, Repr, Inhabited

/-- What TILE_START finds in the buffers, beside the weights that the tile record names: the stored activation tensor
(09 R298), whether it is a stream state page (10 R324), a second tensor of the block's own in place of the weights
(08 R259), the group-block counters of the weights' scale bursts in the order in which they meet the data blocks
(09 R316, R317; none: aligned), the keep threshold of a dropout tile (13 R411), and what to write. -/
structure TileLoad where
  a : List Byte := []
  aPage : Bool := false
  b : Option (List Byte) := none
  bursts : Option (List Nat) := none
  keep : Option Byte := none
  out : TileOut := {}
deriving DecidableEq, Repr, Inhabited

/-- The work a tile belongs to: the rows of one or more items of screening work by their numbers (08 R264), or a
micro-batch by its sequence number. -/
inductive TileOf | items (ns : List Nat) | batch (seq : W64)
deriving DecidableEq, Repr, Inhabited

/-- The layer kinds of 13 R404. -/
inductive LayerKind | matmul | relu | dropout | smooth | normalise | softmax | residual
deriving DecidableEq, Repr, Inhabited

/-- What one operation of a layer works on: its kind, the elements and the stored bytes of its input. -/
structure StashPart where
  kind : LayerKind
  elems : Nat := 0
  input : Nat := 0
deriving DecidableEq, Repr, Inhabited

/-- A stash write of a forward pass (13 R404 to R406): the layer, its operations, and the bytes of its input at the
layer boundary. -/
structure StashWrite where
  layer : W16
  parts : List StashPart
  boundary : Nat
deriving DecidableEq, Repr, Inhabited

/-- The outcome of the SECDED check of an action word read (07 R229). -/
inductive Ecc | ok | single | double
deriving DecidableEq, Repr, Inhabited

/-- A cascade key frame (07 R243). -/
structure KeyFrame where
  origin : BitVec 2 := 0
  tag : BitVec 10 := 0
  cursor : Bool := false
  start : BitVec 20 := 0
  key : List W32 := []
  tagBase : W32 := 0
  tagLimit : W32 := 0
deriving DecidableEq, Repr, Inhabited

/-- A cascade result frame (07 R243). -/
structure ResultFrame where
  origin : BitVec 2 := 0
  tag : BitVec 10 := 0
  hit : Bool := false
  priority : BitVec 12 := 0
  index : BitVec 20 := 0
  matchCount : BitVec 2 := 0
  tieCount : BitVec 2 := 0
  suspect : Bool := false
  fault : Bool := false
  action : W64 := 0
deriving DecidableEq, Repr, Inhabited

/-- A ring probe (07 R242): its origin's position, and Size and Position of every stack it has passed (its layout is not
given, log 85). -/
structure Probe where
  origin : BitVec 2 := 0
  hops : List (Nat × Nat) := []
deriving DecidableEq, Repr, Inhabited

/-- What fuse sensing finds of entries whose check bits fail (19 R542 step 5). -/
structure FuseCheck where
  udsBad : Bool := false
  keyBad : Bool := false
  lockBad : Bool := false
  serialBad : Bool := false
deriving DecidableEq, Repr, Inhabited

/-- The clocks of 18 R523 that a loss can stop. -/
inductive ClockSrc
  | refclk | arith | gaffer | service
  | hbm (i : Fin 4) | module (p : Fin 8)
deriving DecidableEq, Repr, Inhabited

/-- What a plan declares of its models in the tensor and watcher declarations whose layout the spec does not give
(11 R343, R345, R346, R356; 10 R322). Log entry 7. -/
structure TensorDesc where
  slot : Byte
  fmt : BitVec 4
  init : Scale
  floor : Scale
deriving DecidableEq, Repr, Inhabited

/-- The calibration slots, by local number, of a tile's activations and of what it writes. -/
structure TileSlots where
  tile : W16
  a : Option Byte := none
  out : Option Byte := none
deriving DecidableEq, Repr, Inhabited

structure PlanDecl where
  windowPages : BitVec 4 := 0
  summaryBytes : BitVec 12 := 0
  entryBytes : BitVec 13 := 64
  stateBytes : Nat := 0
  tensors : List TensorDesc := []
  slots : List TileSlots := []
deriving DecidableEq, Repr, Inhabited

/-- What a micro-batch leaves when it completes (13 R397, R402, R408): the head outputs y of its spans (binary32) and the
stored tensor of the gradients of every element of the layout, in layout order. -/
structure BatchResult where
  ys : List W32 := []
  grads : List Byte := []
deriving DecidableEq, Repr, Inhabited

/-- The commands: one constructor per row of spec/opcode_table.json, in the table's order. -/
inductive Instr
  | tickRegistration (level : Bool) (num : W48) (unstable : Bool)
  | consumerIndexReturn (port : Fin 8) (tag : BitVec 15) (value : W32)
  | overrunThreshold
  | intakeClose
  | tickAbsent
  | parkLimitExpiry (slot : Slot)
  | pinLimitExpiry (slot : Slot)
  | coldExpiry (slot : Slot)
  | fillTicksExpiry (set : BitVec 10)
  | autoCut (set : BitVec 10)
  | holdRing (slot : Slot)
  | powerOnReset
  | hostReset
  | resetRelease (stepLevel : Bool)
  | pllLock
  | hbmTrainingDone (failed : BitVec 4)
  | linkTrainingDone (up : BitVec 8) (half : BitVec 8)
  | selfTestDone (failures : List DetErr)
  | deviceIdDerive (ok : Bool)
  | bootBlockRead
  | imageLoad
  | bootRetry
  | evidenceWrite
  | vinRise
  | railsGood
  | supplyLockout (mV : W32)
  | supplySample (mV : W16) (mA : W32)
  | sensorSample (readings : List W16)
  | clockLoss (src : ClockSrc)
  | droop (quadrant : Fin 4)
  | droopOverlimit (quadrant : Fin 4)
  | linkDown (port : Fin 8)
  | linkUp (port : Fin 8) (half : Bool)
  | linkRetry (port : Fin 8)
  | linkRetrain (port : Fin 8)
  | hostWriteStray (port : Fin 8) (addr : W64) (len : BitVec 12)
  | hostRead (port : Fin 8) (tag : W16)
  | completion (port : Fin 8) (tag : W16) (data : List Byte)
  | completionError (port : Fin 8) (tag : W16)
  | readTimeout (port : Fin 8) (tag : BitVec 15)
  | writeTimeout (port : Fin 8) (tag : BitVec 15)
  | openReq (d : Desc)
  | prompt (d : Desc)
  | tokens (d : Desc) (errs : List DetErr)
  | accept (d : Desc)
  | pause (d : Desc)
  | resumeCold (d : Desc)
  | resumeHoldRelease (d : Desc)
  | cancel (d : Desc)
  | close (d : Desc)
  | feedback (d : Desc)
  | publish (d : Desc)
  | descriptorDequeue (slot : Slot)
  | tileStart (engine : Fin 48) (work : TileOf) (load : TileLoad)
  | tileComplete (engine : Fin 48) (heads : List Heads) (stash : Option StashWrite) (errs : List DetErr)
  | mortiseSearchResult (id : Nat) (ecc : Ecc)
  | vocabOverflowRead (slot : Slot) (position : W32)
  | maskWriteComplete (image : Fin 64) (mask : BitVec 20)
  | snapshotRestore (slot : Slot)
  | coldMoveComplete (slot : Slot)
  | coldCopyBack (slot : Slot)
  | copyBeforeWrite (page : BitVec 22)
  | shadowRefresh (entry : BitVec 18)
  | pegRewrite (engine : Fin 48) (screen : W16)
  | microBatchComplete (seq : W64) (result : BatchResult)
  | cutComplete (set : BitVec 10)
  | cascadeKeyFrame (frame : KeyFrame) (crc : W16) (ecc : Ecc)
  | cascadeResultFrame (frame : ResultFrame) (crc : W16)
  | cascadeTimeout (id : Nat)
  | cascadeProbeReturn (probe : Probe)
  | cascadeProbeTimeout
  | scrubVisit (shadowError : Bool)
  | bulkUpdateRun (path : Path)
  | bulkUpdateRecord
  | mortiseInvalidate (path : Path)
  | mortiseWrite (path : Path)
  | mortiseValidate (path : Path)
  | updateWindowEntry (path : Path) (value : W32)
  | cursorFirst (path : Path)
  | cursorNext (path : Path)
  | cursorStepDone (ecc : Ecc)
  | keyCaptureArm (path : Path) (value : Byte)
  | planLoad (path : Path)
  | planUnload (path : Path)
  | planLoadDone (slot : Byte) (decl : PlanDecl)
  | vocabLoad (path : Path) (v : Fin 8)
  | vocabUnload (path : Path) (v : Fin 8)
  | vocabLoadDone (v : Fin 8)
  | grammarLoad (path : Path) (g : Fin 64)
  | grammarUnload (path : Path) (g : Fin 64)
  | grammarLoadDone (g : Fin 64)
  | deltaLoad (path : Path)
  | deltaCut (path : Path)
  | dropStaging (path : Path)
  | deltaDelete (path : Path)
  | deltaLoadDone (set : BitVec 10)
  | backboneLoad (path : Path)
  | dropOther (path : Path)
  | backboneLoadDone (screen : BitVec 10)
  | tuningEnable (path : Path) (value : Byte)
  | functionStart (path : Path) (f : Fin 64)
  | functionStop (path : Path) (f : Fin 64)
  | startRemoteNode (via : NmtVia)
  | stopRemoteNode (via : NmtVia)
  | enterPreOperational (via : NmtVia)
  | resetNode (via : NmtVia)
  | resetCommunication (via : NmtVia)
  | mbxPost (seq : W16) (frame : List Byte)
  | registerWrite (path : Path) (index : W16) (sub : Byte) (xfer : Xfer) (value : List Byte)
  | usdoUpload (path : Path) (index : W16) (sub : Byte) (xfer : Xfer)
  | usdoSegmentTimeout (path : Path)
  | heartbeat
  | tpdoEventTimer (n : Fin 8)
  | emcyTransmit
  | errorListClear (path : Path)
  | rearm (path : Path)
  | acknowledge (path : Path)
  | enginePoolWrite (path : Path) (engine : Fin 56) (value : Byte)
  | tenantValidWrite (path : Path) (value : Byte)
  | gtApply (level : Bool) (lo : W32) (hi : W32)
  | checkpoint (path : Path) (fragA : List Byte) (fragB : List Byte)
  | checkpointWriteDone
  | restore (path : Path)
  | restoreReadDone
  | foreignAcknowledgement (path : Path) (value : W16)
  | tapReset
  | extest
  | samplePreload
  | idcode
  | stackSelect
  | wrapper
  | mbist
  | scanDump
  | debugAccess
  | lockDebug
  | bypass
  | unknownType (d : Desc) (type : Byte)
  | hostMessageReservedOp (port : Fin 8) (op : BitVec 4)
  | fuseSenseDone (check : FuseCheck)
  | internalResetRelease
  | clockReturn (src : ClockSrc)
  | droopRecovery (quadrant : Fin 4)
  | hbm4CatastrophicTemperature (stack : Fin 4)
deriving DecidableEq, Repr, Inhabited

end Sys2Proof
end

