-- ==== Sys2Proof/Decode.lean ====
section
/-! DEFINITION. The command that a word spells. spec/opcode_table.json gives none of its rows any bits, so no word
spells a command: a descriptor, a message or an object write has a layout of its own (03 R56, 18 R509, 15 R457), and
the constructors carry its fields. -/
namespace Sys2Proof

/-- No row of the table gives bits. -/
def decodeTableWord (_nbits _w : Nat) : Option Instr := none

end Sys2Proof
end

