-- ==== Sys2Proof/Machine/State.lean ====
section
/-! DEFINITION. The state of the block: every register, table, queue, counter, mode and pin of the spec, as plain
data, and the state right after reset. A comment behind a field gives its width, the spec file and rule that name
it, and what it is; the default is its reset value. `Tbl` fields hold only the entries that differ from the default
of their type. Fields marked MODEL are the model's own. -/
namespace Sys2Proof.Machine
open Sys2Proof

/-- Reasons a step stops with a fault. -/
inductive Fault
  /-- SUPPLY_LOCKOUT with an input above 60 V: absolute maximum, and the free bit says that damage follows
  (18 R531; log 78). Safe. -/
  | absoluteMaximum
deriving DecidableEq, Repr

/-- Reasons a step is refused. -/
inductive Refusal
  /-- The command of this mnemonic has no meaning yet; raised by its arm of `exec`. Safe. -/
  | notModelled (mnemonic : String)
deriving DecidableEq, Repr

/-! ## Ticks -/

/-- A tick that work belongs to (02 R37): its place in the sequence of registered ticks since reset (0: no tick,
02 R556) and the number its records carry. -/
structure TickRef where
  idx : Nat := 0   -- MODEL | 02 R37 | ordinal of the tick since reset, 0 none
  num : W48 := 0   -- 48 | 02 R30 | number of the tick
deriving DecidableEq, Repr, Inhabited

structure TickState where
  refLevel : Bool := false        -- 1 | 02 R24 R25 | reference STEP level; taken at reset release
  minPeriod : W32 := 200          -- 32 | 02 R38 | 0x2010:01 minimum period, µs
  maxPeriod : W32 := 10000000     -- 32 | 02 R38 | 0x2010:02 maximum period, µs
  intakeClose : W32 := 80000      -- 32 | 02 R38 | 0x2010:03 intake close, ac
  maskDeadline : W32 := 240000    -- 32 | 02 R38 | 0x2010:04 mask deadline, ac
  verdictDeadline : W32 := 360000 -- 32 | 02 R38 | 0x2010:05 verdict deadline, ac
  overrunThreshold : Byte := 8    -- 8 | 02 R38 | 0x2010:06 overrun report threshold
  cur : TickRef := {}             -- 48 | 16 R478 | latest registered tick, 0x2011:01
  at_ : Nat := 0                  -- 64 | 02 R32, 16 R478 | T_n of that tick, 0x2011:02
  registered : W64 := 0           -- 64 | 16 R478 | 0x2011:03 ticks registered
  overrunTicks : W64 := 0         -- 64 | 02 R48 | 0x2011:04
  overrunRun : W32 := 0           -- 32 | 02 R48 | 0x2011:05 consecutive overrun ticks
  overrunSent : Bool := false     -- 1 | 02 R48 | the EMCY of the present run of overruns has been sent
  overrunNum : W48 := 0           -- 48 | 02 R48 | number of the latest tick that overran
  overrunSu : Nat := 0            -- 64 | 02 R48 | su unfinished at its end
  opEntry : Nat := 0              -- 64 | 02 R29 | stamp of the latest entry to Operational
  opTick : Bool := false          -- 1 | 02 R29 | a tick has been registered since that entry
  afterEntry : Bool := false      -- 1 | 02 R37 | Operational was entered after the latest tick
  intakeClosed : Bool := false    -- 1 | 02 R43 | intake of the current tick is closed
  absentCount : Nat := 0          -- 32 | 02 R49 | maximum periods reported absent
  reduce : Nat := 0               -- 64 | 02 R47 | 1/256 su the next plan is reduced by
  bulkPlaced : W32 := 0           -- 32 | 15 R473 | su placed in the latest plan, 0x6006
deriving DecidableEq, Repr, Inhabited

/-- Time bases (02 R31; 18 R517 to R519). -/
structure TimeState where
  now : Nat := 0           -- 64 | 02 R31 | stamp counter, ac
  gtPhase : Nat := 0       -- 11 | 18 R517 | ac since the count last changed
  gt : W64 := 0            -- 64 | 18 R517 | global time in its own domain, µs
  gtAccepted : W64 := 0    -- 64 | 18 R519 | global time accepted in the core timing domain
  gtLag : Nat := 0         -- 2 | 18 R519 | cycles until a change of the count is accepted
  gtLoad : W64 := 0        -- 64 | 18 R516 | GT_LOAD_HI, GT_LOAD_LO (DESIGN CHOICE 0, log 2)
  gtApply : Bool := false  -- 1 | 18 R518 | GT_APPLY[0] as last crossed (DESIGN CHOICE 0, log 2)
  freeIdx : Nat := 0       -- MODEL | - | counter of free values taken (log 3)
  arrivals : Nat := 0      -- MODEL | 02 R33 | descriptors stamped so far
deriving DecidableEq, Repr, Inhabited

/-! ## Records (03_host_exchange.md) and host transfers (18_ports_clocks_power.md) -/

inductive ViolCode
  | tickEarly | tickSkip | tickRegress | tickNumUnstable
  | unknownType | reservedNonzero | badField | wrongPort | portSeq | tickField | notOperational
  | staleHandle | slotBusy | wrongState | tokensAfterClose | acceptBeyond | specUnresolved | specDepth
  | tokensWhilePaused | afterClose | vocabAbsent | resumeNoTarget
  | ringBad | consumerAhead | holdRing | holdOverflow
  | publishPast | feedbackRefused | publishRefused
deriving DecidableEq, Repr, Inhabited

structure VerdictRec where
  position : W32
  stage : BitVec 4
  cls : BitVec 4
  annotation : Byte := 0
  notify : W16 := 0
  tag : W32 := 0xFFFFFFFF
  relAction : BitVec 4 := 0
  speculative : Bool := false
  deltaVersion : W16 := 0
  committed : W32 := 0
  issueStamp : Nat := 0
  heads : Heads := {}
deriving DecidableEq, Repr, Inhabited

structure MaskRec where
  position : W32
  deadEnd : Bool := false
  continues : Bool := false
  ids : List (BitVec 20) := []
  fallback : W32 := 0xFFFFFFFF
deriving DecidableEq, Repr, Inhabited

structure ReleaseRec where
  tokenIndex : W32
  tokenOffset : W16
  answerOffset : W64
  bytes : List Byte
deriving DecidableEq, Repr, Inhabited

structure RetractRec where
  tokenIndex : W32
  tokenOffset : W16
  cls : BitVec 4 := 3
  annotation : Byte
  answerOffset : W64
  tag : W32
  issueStamp : Nat := 0
deriving DecidableEq, Repr, Inhabited

structure ClosedRec where
  cause : Byte
  reason : W16 := 0
  stopIndex : W32 := 0xFFFFFFFF
  stopOffset : W16 := 0
  heldDiscarded : W16 := 0
  verdictsDiscarded : W16 := 0
  committed : W32 := 0
  releasedBytes : W64 := 0
  requestTag : W64 := 0
  nextHandle : W32 := 0
  freeTick : W32 := 0
  tick : TickRef := {}             -- MODEL | 03 R35 | tick of the descriptor that ended the request, as the header carries it
deriving DecidableEq, Repr, Inhabited

structure ScoresRec where
  position : W32
  deltaVersion : W16
  scores : List Heads
deriving DecidableEq, Repr, Inhabited

structure ViolRec where
  code : ViolCode
  port : BitVec 5
  descType : Byte := 0
  descSeq : W16 := 0
  stamp : Nat := 0
  detailA : W64 := 0
  detailB : W64 := 0
deriving DecidableEq, Repr, Inhabited

structure NoticeRec where
  emcyCode : W16
  errReg : Byte
  cls : BitVec 3
  code : ErrCode
  place : Place
  stamp : Nat
  argA : W64
  argB : W64
  argC : W64
deriving DecidableEq, Repr, Inhabited

inductive RecBody
  | verdict (r : VerdictRec) | mask (r : MaskRec) | release (r : ReleaseRec) | retract (r : RetractRec)
  | closed (r : ClosedRec) | scores (r : ScoresRec) | violation (r : ViolRec) | notice (r : NoticeRec)
deriving DecidableEq, Repr, Inhabited

/-- A record (03 R56): qualifier flags, the tick it carries, its handle and its payload. -/
structure Rec where
  flags : Byte := 0
  tick : TickRef := {}
  handle : W32 := 0
  body : RecBody
deriving DecidableEq, Repr, Inhabited

/-- A calibration log entry (10 R338). -/
structure CalEntry where
  tick : W48
  slot : W16
  fmt : BitVec 4
  cause : BitVec 2
  oldScale : Scale
  newScale : Scale
  windowMax : W32
  periodMax : W32
  saturations : W32
deriving DecidableEq, Repr, Inhabited

/-- The automaton record of a request (11 R347), structured. -/
structure Auto where
  broken : Bool := false                      -- 1 | 11 R347 | grammar break has occurred
  deadEnd : Bool := false                     -- 1 | 11 R347 | automaton at a dead end
  gstate : BitVec 18 := 0                     -- 18 | 11 R347 | grammar state
  stack : List (Byte × BitVec 18) := []       -- 64×32 | 11 R347 | stack, top first: symbol and return state
  utf8 : List Byte := []                      -- 32 | 11 R347 | bytes of the incomplete sequence
  held : List Byte := []                      -- 127×8 | 11 R347 | held bytes in answer order
  nextOffset : Nat := 0                       -- 64 | 11 R347 | bytes passed by the scribe
  rules : List W32 := List.replicate 16 0     -- 16×32 | 11 R347 | byte-rule automaton states
  stop : Option (Nat × Nat) := none           -- - | 06 R189 R193 | a completed stop: offset of its first byte, offset of its last byte
deriving DecidableEq, Repr, Inhabited

/-- The contents of a stream's pages as a cold move copies them (11 R345, R346, R363). -/
structure ColdImage where
  requestTag : W64
  pages : List (BitVec 22)
  delta : W32
  tick : W48
  summary : List Byte
  auto : Auto
  released : Nat
  window : Tbl (List Byte)
deriving DecidableEq, Repr, Inhabited

/-- The data of a WRITE. -/
inductive Payload
  | record (r : Rec) (seq : W16)   -- a record with its port_seq
  | index (v : W32)                -- a producer index
  | calEntry (e : CalEntry)
  | bytes (b : List Byte)          -- bitmaps, index entries, shard sections, evidence
  | coldPage (image : ColdImage) (page part : Nat) -- 4 KiB of a page of a cold move
deriving DecidableEq, Repr, Inhabited

/-- What a WRITE belongs to: the destinations of 18 R514, and a cold slot. -/
inductive Dest
  | ring (slot : Slot) | errRing | calLog | mask (g : Fin 64) (m : BitVec 20) | checkpoint | evidence
  | cold (slot : Slot)
deriving DecidableEq, Repr, Inhabited

structure WriteMsg where
  num : BitVec 15 := 0
  dest : Dest
  addr : W64
  data : Payload
  lat : Bool := false              -- 1 | 08 R286 | a record of a latency-class request: level 1 of the outbound arbiter
  issuedAt : Nat := 0              -- 64 | 08 R286 | cycle of its issue
  order : Nat := 0                 -- MODEL | 08 R286 | place in the port's issue order
  sentAt : Nat := 0
  retry : Bool := false            -- 1 | 18 R514 | the retry of a failed WRITE
deriving DecidableEq, Repr, Inhabited

inductive RingRef | req (slot : Slot) (gen : BitVec 15) | err | cal
deriving DecidableEq, Repr, Inhabited

/-- A long read of host memory, by what it is for. -/
inductive JobKey
  | plan (p : Byte) | vocab (v : Fin 8) | grammar (g : Fin 64) | delta (set : BitVec 10)
  | backbone (screen : BitVec 10) | bulk | boot | lilen | tile
  | prompt (slot : Slot) (offset : Nat) | span (seq : W64) (n : Nat) | cold (slot : Slot) | shard (b : Bool)
deriving DecidableEq, Repr, Inhabited

inductive Purpose | consumer (r : RingRef) | job (k : JobKey) (offset : Nat)
deriving DecidableEq, Repr, Inhabited

structure ReadMsg where
  tag : BitVec 15 := 0
  addr : W64
  len : Nat
  purpose : Purpose
  order : Nat := 0                 -- MODEL | 08 R286 | place in the port's issue order
  sentAt : Nat := 0
deriving DecidableEq, Repr, Inhabited

/-- A job of READs: what has come back, how many bytes are still out, and the address of a failed read. -/
structure Job where
  key : JobKey
  port : Fin 8
  len : Nat
  got : List (Nat × List Byte) := []
  left : Nat
  failed : Option W64 := none
deriving DecidableEq, Repr, Inhabited

inductive Link | down | training | up
deriving DecidableEq, Repr, Inhabited

structure Port where
  link : Link := .down                -- 8 | 16 R479 | 0x2300+c:01 Link State
  width : Byte := 0                   -- 8 | 16 R479 | :02 Link Width
  corrected : W32 := 0                -- 32 | 16 R479 | :03
  detected : W32 := 0                 -- 32 | 16 R479, 18 R514 | :04
  descs : W64 := 0                    -- 64 | 16 R479 | :05 descriptors accepted
  bytesOut : W64 := 0                 -- 64 | 16 R479 | :06
  seq : W16 := 0                      -- 16 | 03 R59 R60 | port_seq expected next
  writeNum : BitVec 15 := 0           -- 15 | 18 R510 | number of the next WRITE
  readTag : BitVec 15 := 0            -- 15 | 18 R510 | tag of the next READ
  unacked : List WriteMsg := []       -- - | 18 R513 | unacknowledged WRITEs, oldest first, at most 16,384
  waiting : List WriteMsg := []       -- - | 18 R513 R514 R506 | WRITEs not sent yet
  failedWrites : List WriteMsg := []  -- - | 18 R514 | failed WRITEs that wait for the next T_n
  reads : List ReadMsg := []          -- - | 18 R510 | outstanding READs, at most 1,024
  readsWaiting : List ReadMsg := []   -- - | 18 R510 R514 | READs not sent yet, failed ones for the next T_n among them
  failedReads : List ReadMsg := []    -- - | 18 R514 | failed READs that wait for the next T_n
  nextSlot : Nat := 0                 -- - | 08 R286 | next free slot of the outbound crossing, in half cycles: a 64-byte slot takes one, at half width two
  ptr : Nat := 4                      -- 3 | 08 R285 R286 | pointer of the weight port arbiter: checkpoint writes, last in order
  nextOrder : Nat := 0                -- MODEL | 08 R286 | place of the next WRITE or READ in the issue order
  retries : Nat := 0                  -- - | 17 R499 | link retries in the tick
  answers : List W16 := []            -- - | 18 R511 | tags of host READs answered COMPLETION_ERROR, newest first
deriving DecidableEq, Repr, Inhabited

/-! ## Requests -/

inductive ReqState | free | opened | prompt | streaming | paused | closing
deriving DecidableEq, Repr, Inhabited

/-- A verdict as decided (04 R134 to R137, R148, R153): applied class, action word fields, flags, heads, version. -/
structure Verd where
  cls : BitVec 4
  word : W64
  tag : W32
  flags : Byte
  heads : Heads
  deltaVersion : W32
  headFault : Bool := false        -- 1 | 04 R152 | an error touched the heads
  at_ : Nat := 0                   -- 64 | 03 R106 | cycle in which it was decided
deriving DecidableEq, Repr, Inhabited

/-- Where stage 4 of a position stands. -/
inductive Watch | absent | pending | done (v : Verd) | dropped
deriving DecidableEq, Repr, Inhabited

/-- An answer position (03 R85; 04 R132). -/
structure Pos where
  p : Nat
  id : BitVec 20
  tick : TickRef
  stamp : Nat
  entered : Nat := 0               -- 64 | 05 R163 | cycle in which its TOKENS was processed
  group : Nat := 0                 -- 32 | 05 R164 R169 | first position that its TOKENS committed; itself once an ACCEPT commits it
  waitsRead : Bool := false        -- 1 | 06 R185 | its entry is still to come from the HBM overflow array
  scanned : Bool := false          -- 1 | 06 R187 | its bytes have been scanned
  bytes : List Byte := []
  offset : Nat := 0                -- 64 | 03 R102 | answer offset of its first byte
  free : Nat := 0                  -- 64 | 06 R190 | answer bytes the scribe has passed once it is scanned
  events : List W32 := []          -- - | 06 R174 | event codes attributed to it
  s3 : Option Verd := none
  s4 : Watch := .absent
  applied : Bool := false          -- 1 | 04 R138 | it has passed the release gate
  resumed : Bool := false          -- 1 | 04 R141 | its HOLD has been released
  due : Nat := 0                   -- 64 | 05 R163 R168 R169 | first cycle after the one in which release logic can pass it
  mask : Option (BitVec 20) := none -- 20 | 06 R203 | mask for the position after it, none after a break
deriving DecidableEq, Repr, Inhabited

/-- The descriptor kinds that a request's queue can hold. -/
inductive DKind
  | openReq | prompt | tokens | accept | pause | resumeCold | resumeHold | cancel | close
deriving DecidableEq, Repr, Inhabited

/-- A descriptor in its request's queue (03 R116; 04 R155): parked, with the boundaries it has been parked across,
or waiting. -/
structure QItem where
  kind : DKind
  desc : Desc
  stamp : Nat
  tick : TickRef
  gt : W64 := 0                    -- 64 | 11 R365 | global time sampled at the stamp
  reported : Bool := false         -- 1 | 03 R121 | a row of 03 R120 has been reported for it
  tickBad : Bool := false          -- 1 | 03 R62 | its tick field is out of range
  seq : Nat := 0                   -- MODEL | 02 R33 | place in the order of arrival
  errs : List DetErr := []         -- - | 17 R506 | errors that its processing meets
  parked : Bool := false
  boundaries : Nat := 0            -- - | 04 R158 | tick boundaries it has been parked across
deriving DecidableEq, Repr, Inhabited

/-- Why a request's descriptors wait: a snapshot restore (11 R353), a copy-back (11 R365), or nothing. -/
inductive Wait | none | restore | copyBack
deriving DecidableEq, Repr, Inhabited

/-- Where a paused request's state is (11 R363 to R367). -/
inductive Cold | inHbm | moving (slot : Nat) | moved (slot : Nat) | released | resuming (slot : Nat) | waitPages (slot : Nat)
deriving DecidableEq, Repr, Inhabited

/-- A SCORES group: positions committed by one descriptor (03 R106), from first on, not yet written. -/
structure ScoreGroup where
  first : Nat
  count : Nat
deriving DecidableEq, Repr, Inhabited

/-- A prompt segment whose bytes are not in the prompt yet (03 R75); `data` is there for an inline one. -/
structure PSeg where
  offset : Nat
  len : Nat
  ids : Bool
  last : Bool
  tick : TickRef
  parked : Bool
  data : Option (List Byte)
deriving DecidableEq, Repr, Inhabited

/-- A VERDICT on its way through the release logic (05 R163, R168): the cycle it is issued in, and its fields. -/
structure VDue where
  at_ : Nat
  stage : Nat
  pos : W32
  tick : TickRef
  v : Verd
deriving DecidableEq, Repr, Inhabited

/-- A processed TOKENS whose positions are not all scanned yet (06 R185): its first position, C and S after it, its tick,
and whether it was parked. When the last is scanned, its MASK chain is issued (06 R213) and its stage 4 item is made
(12 R384). -/
structure Chunk where
  first : Nat
  c : Nat
  s : Nat
  tick : TickRef
  parked : Bool
  ending : Bool                    -- 1 | 06 R206 | it carried END
  entered : Nat := 0               -- 64 | 06 R215 | cycle in which it was processed
deriving DecidableEq, Repr, Inhabited

/-- Who asks for a search (08 R286). -/
inductive Asker
  | prompt (slot : Slot) | s3 (slot : Slot) (p : Nat) | s4 (slot : Slot) (p : Nat) | cursor
  | remote (origin : BitVec 2) (tag : BitVec 10) (cursor : Bool) (start : BitVec 20)
deriving DecidableEq, Repr, Inhabited

structure SearchReq where
  asker : Asker
  key : List W32
  tagBase : W32
  tagLimit : W32
  level : Nat                      -- - | 08 R286 | arbiter level 1 to 4
  order : Nat                      -- - | 08 R286 | place in the rotation order of its level
  ready : Nat := 0                 -- 64 | 05 R163 R164 | first cycle in which its unit asks the arbiter
  above : Option (BitVec 20) := none -- 20 | 07 R231 | a cursor step: only indexes above it
  heads : Heads := {}
  fault : Bool := false            -- 1 | 17 R494 | an error already touches the result
  tick : TickRef := {}
  deltaVersion : W32 := 0
  ecc : Ecc := .ok                 -- - | 07 R229 | a cascade key frame's search: what its action word read meets
deriving DecidableEq, Repr, Inhabited

/-- What the array found (07 R228, R243): the winner's global index, priority and action word, the counts (0, 1, 2 or
more), SUSPECT and FAULT. -/
structure Found where
  hit : Bool := false
  index : BitVec 20 := 0
  priority : BitVec 12 := 0
  action : W64 := 0
  matchCount : Nat := 0
  tieCount : Nat := 0
  suspect : Bool := false
  fault : Bool := false
  ecc : Ecc := .ok                 -- - | 07 R229 | error in the winner's action word as it stood in the issue cycle
deriving DecidableEq, Repr, Inhabited

/-- What a policy gives the work of a tick: its delta set, its version and the screens it applies to (12 R380 to R382). -/
structure DeltaUse where
  version : W32 := 0               -- 32 | 12 R380 | :05
  dset : W16 := 0xFFFF             -- 16 | 12 R382 | :04 in force
  screens : W32 := 0xFFFFFFFF      -- 32 | 12 R382 | :03 in force
deriving DecidableEq, Repr, Inhabited

/-- An open request: its table entry (11 R341) and everything it owns. -/
structure Request where
  st : ReqState := .free            -- 3 | 03 R69, 11 R341 | state
  latency : Bool := false           -- 1 | 11 R341 | class
  fn : Fin 64 := 0                  -- 6 | 11 R341 | function slot
  tenant : BitVec 14 := 0           -- 14 | 11 R341 | tenant
  vocab : Fin 8 := 0                -- 3 | 11 R341 | vocabulary
  pattern : Option (Fin 8) := none  -- 3 | 11 R341 | pattern engine (none while the OPEN is parked)
  scores : Bool := false            -- 1 | 11 R341 | scores_enable
  grammarEnable : Bool := false     -- 1 | 11 R341
  policy : BitVec 12 := 0           -- 12 | 11 R341
  grammar : Fin 64 := 0             -- 6 | 11 R341
  stopSet : Byte := 0               -- 8 | 11 R341
  ringLog2 : BitVec 5 := 0          -- 5 | 11 R341
  trussInsert : Bool := false       -- 1 | 11 R341
  home : Fin 8 := 0                 -- 3 | 11 R341 | home port
  endSeen : Bool := false           -- 1 | 11 R341 | TOKENS with END processed
  closeSeen : Bool := false         -- 1 | 11 R341 | CLOSE stamped
  cancelSeen : Bool := false        -- 1 | 11 R341 | CANCEL stamped
  held : Bool := false              -- 1 | 11 R341, 03 R115 | ring hold in force
  cold : Bool := false              -- 1 | 11 R341 | pages are in the cold tier
  c : Nat := 0                      -- 32 | 11 R341 R349 | committed length C
  s : Nat := 0                      -- 32 | 11 R341 R349 | speculative length S
  ringBase : W64 := 0               -- 64 | 11 R341
  doorbell : W64 := 0               -- 64 | 11 R341
  consumerAddr : W64 := 0           -- 64 | 11 R341
  requestTag : W64 := 0             -- 64 | 03 R72, 11 R345 | request_tag
  producer : W32 := 0               -- 32 | 03 R110, 11 R341
  consumer : W32 := 0               -- 32 | 03 R112, 11 R341
  expiry : W64 := 0                 -- 64 | 11 R341 | expiry while PAUSED with cold set
  entryBad : Bool := false          -- 1 | 17 R506 | the entry reads uncorrectable
  entryEnd : Bool := false          -- 1 | 17 R506 | the host has ended such a request
  headPage : Option (BitVec 22) := none  -- 22 | 11 R341 R343 | head page
  windowPages : List (BitVec 22) := []   -- 15×22 | 11 R345 | window page list
  pageCount : BitVec 4 := 0         -- 4 | 11 R343 R345 | P
  summary : List Byte := []         -- 3,072×8 | 11 R345 | current summary vector, Z bytes
  sumSnaps : List (Nat × List Byte) := [] -- 16×3,072×8 | 11 R345 R350 | summary snapshots, slot p mod 16
  window : Tbl (List Byte) := []    -- 15×65,536×8 | 11 R346 | window entries, by page × 65,536 + offset
  headAuto : Auto := {}             -- 640×8 | 11 R345 R348 | automaton record in the head page
  admitTick : TickRef := {}         -- 48 | 11 R345, 13 R428 | tick of admission
  admitted : Bool := false          -- 1 | 11 R343 | pages and pattern engine taken
  pinTicks : Nat := 0               -- 32 | 13 R428 | tick boundaries since admission
  pinned : Bool := false            -- 1 | 13 R428 | PIN mode, limit not reached
  deltaVersion : W32 := 0           -- 32 | 11 R345 | delta version the request runs under
  deltaUse : DeltaUse := {}         -- - | 13 R428 | delta set, version and screens of its admission, while pinned
  promptVersion : W32 := 0          -- 32 | 13 R428 | backbone version of the prompt screen while pinned
  watcherVersion : W32 := 0         -- 32 | 13 R428 | backbone version of the watcher while pinned
  queue : List QItem := []          -- 64 | 03 R116 | queued and parked descriptors, in stamp order
  withheldSent : Bool := false      -- 1 | 04 R158 | a WITHHELD verdict was issued since the STOP
  pendingRecs : List Rec := []      -- 32 | 03 R116 | records that wait behind a hold, oldest first
  pendingClosed : Option ClosedRec := none -- - | 03 R71 | a CLOSED that waits in a place of its own
  holdTicks : Nat := 0              -- 16 | 03 R118 | consecutive ticks held without consumer progress
  holdReported : Bool := false      -- 1 | 03 R118 | HOLD_RING reported for this hold
  -- prompt
  promptBytes : List Byte := []     -- - | 03 R75 | prompt bytes, detokenised
  promptSent : Nat := 0             -- 32 | 03 R76 | total length of accepted segments
  promptLast : Bool := false        -- 1 | 03 R75 | LAST accepted
  promptSegs : List PSeg := []      -- - | 03 R75 | segments still being read, oldest first
  promptPatched : Nat := 0          -- - | 12 R384 | patches already made into items
  promptItems : Nat := 0            -- - | 12 R384 | items of the prompt still unfinished
  promptHeads : Heads := {}         -- - | 04 R132 | prompt-screen heads
  promptDelta : W32 := 0            -- 32 | 03 R100 | delta version the prompt screen used
  promptEvents : List W32 := []     -- - | 06 R174 | events of the prompt
  promptTick : TickRef := {}        -- - | 04 R149 | tick of the PROMPT with LAST
  promptFault : Bool := false       -- 1 | 04 R152 | an error touched the prompt's results
  promptSearched : Bool := false    -- 1 | 04 R132 | the prompt search has been asked for
  promptHeld : Bool := false        -- 1 | 04 R134 | a prompt HOLD is outstanding
  trussHit : Option Nat := none     -- 32 | 11 R359 | node whose state the prompt screen starts from
  walked : List Nat := []           -- - | 11 R358 | nodes that the walk has matched, by depth
  walkOver : Bool := false          -- 1 | 11 R358 | the walk has met a block without a node
  -- answer
  positions : List Pos := []        -- - | 03 R85 | positions 0 to S-1
  auto : Auto := {}                 -- 640×8 | 11 R347 | automaton record
  snaps : List (Nat × Auto) := []   -- 16×640×8 | 11 R350 | automaton snapshots, slot p mod 16
  released : Nat := 0               -- 64 | 03 R102 | answer bytes released
  holds : List (Nat × Bool) := []   -- - | 04 R141, 03 R99 | outstanding HOLDs, oldest first: position release stops before, and whether the HOLD is that position's own
  cutEnd : Option Nat := none       -- 64 | 04 R142 | a CUT or BLOCK governs: answer offset where release ends
  stopEnd : Option Nat := none      -- 64 | 06 R193 | a stop is in force: answer offset where release ends
  stopTail : Option Nat := none     -- 32 | 06 R193 | with INCLUDE, the position after the one the stop string ends in, when it ends at a token's last byte
  flushed : Bool := false           -- 1 | 03 R91 | held-back bytes have been flushed after END
  watchFault : Bool := false        -- 1 | 04 R152 | an error touched work of the request
  verdictsDue : List VDue := []     -- - | 05 R163 R168 | VERDICTs decided and not issued yet, oldest first
  chains : List Chunk := []         -- - | 06 R185 R213 | TOKENS whose positions are not all scanned yet
  groups : List ScoreGroup := []    -- - | 03 R106 | SCORES groups not written yet
  results : List (SearchReq × Found) := [] -- - | 03 R116 | search results that wait for room in the pending buffer
  wait : Wait := .none              -- - | 11 R353 R365 | descriptors wait for a restore or a copy-back
  waitSince : Nat := 0              -- 64 | 11 R353 | stamp of the descriptor that rejected
  coldSt : Cold := .inHbm           -- - | 11 R363 | where a paused request's pages are
  closeTick : Option TickRef := none -- MODEL | 03 R35 | tick of the descriptor that ends the request
deriving DecidableEq, Repr, Inhabited

/-- An item of screening work (12 R384): prompt patches or stage 4 positions. -/
inductive WorkKind | prompt (patches : Nat) (last : Bool) | watch (positions : List Nat)
deriving DecidableEq, Repr, Inhabited

structure WorkItem where
  n : Nat                          -- MODEL | 12 R384 | number of the item
  slot : Slot
  kind : WorkKind
  cost : Nat                       -- 64 | 12 R383 | cost in 1/256 su
  tick : TickRef
  fn : Fin 64
  tenant : BitVec 14
  latency : Bool
  parkedWork : Bool := false       -- 1 | 12 R384 | parked work released at entry to RUNNING
  stamp : Nat := 0                 -- 64 | 05 R172 | stamp of its descriptor
  order : Nat := 0                 -- MODEL | 01 R16, 08 R269 | place in the order in which plans placed work
  placed : Bool := false           -- 1 | 12 R388 | placed in a tick plan
  todo : List Nat := []            -- - | 08 R269 | tiles not started, indexes of the plan's tile table
  running : Nat := 0               -- - | 08 R256 | tiles on engines
  done : List W16 := []            -- - | 08 R269 | tile_ids completed
  heads : List Heads := []         -- - | 04 R131 | heads delivered
  fault : Bool := false            -- 1 | 17 R494
  version : W32 := 0               -- 32 | 13 R428 | delta version it runs under
  use : DeltaUse := {}             -- - | 12 R381 R382 | delta set, version and screens that its tiles merge
  backbone : List (W16 × W32) := [] -- - | 13 R428 | backbone screen it reads and its version
deriving DecidableEq, Repr, Inhabited

structure ReqTables where
  table : Tbl Request := []        -- 131,072 | 03 R64, 11 R341 | request table, entries not FREE
  gens : Tbl (BitVec 15) := []     -- 15 | 03 R66 | generations
  latPtr : Fin 8 := 7              -- 3 | 05 R162 | last pattern engine assigned to a latency request: P7
  bulkPtr : Fin 8 := 7             -- 3 | 08 R258 | last pattern engine assigned to a bulk request: P7
  items : List WorkItem := []      -- - | 12 R388 R389 | items of screening work, in stamp order
  nextItem : Nat := 0              -- MODEL | 12 R384
  nextPlace : Nat := 0             -- MODEL | 01 R16, 08 R269 | place of the next work that a plan places
  wakes : List (Nat × Slot) := []  -- - | 05 R163 R169 | cycles in which release logic has something due, with the request
deriving DecidableEq, Repr, Inhabited

/-! ## Functions, tenants, policies -/

inductive FnState | idle | starting | running | stopping | stopped
deriving DecidableEq, Repr, Inhabited

/-- The settings of a function (04 R122), as written or as in force (R129). -/
structure FnSet where
  plan : Byte := 0                 -- 8 | 16 R486 | F+0x01:01
  mode : Byte := 0                 -- 8 | 04 R138 | F+0x02:01
  lag : Byte := 4                  -- 8 | 04 R139 | F+0x02:02
  defaultAction : W64 := 0         -- 64 | 04 R148 | F+0x02:03
  dp : Byte := 1                   -- 8 | 04 R149 | F+0x03:01
  dw : Byte := 0                   -- 8 | 04 R149 | F+0x03:02
  faultPref : Byte := 0            -- 8 | 04 R153 | F+0x04:01
  parkLimit : W16 := 1000          -- 16 | 04 R158 | F+0x05:01
  share : Byte := 64               -- 8 | 12 R391 | F+0x06:01
  margin : Byte := 56              -- 8 | 12 R391 | F+0x06:02
  estimate : W32 := 0              -- 32 | 12 R391 | F+0x06:03
  latencyLimit : W16 := 4096       -- 16 | 12 R391 | F+0x06:04
  pinMode : Byte := 0              -- 8 | 13 R427 | F+0x08:01
  pinLimit : W16 := 1000           -- 16 | 13 R427 | F+0x08:02
  pinPrompt : W32 := 0             -- 32 | 13 R427 | F+0x08:03
  pinWatcher : W32 := 0            -- 32 | 13 R427 | F+0x08:04
deriving DecidableEq, Repr, Inhabited

structure Fn where
  st : FnState := .idle            -- 8 | 04 R124 R125 | F+0x00:02
  lastStart : Byte := 0            -- 8 | 04 R124 | F+0x00:03
  set : FnSet := {}                -- - | 04 R122 | settings as last written
  act : FnSet := {}                -- - | 04 R129 | settings in force since the latest entry to RUNNING
  stats : Tbl W64 := []            -- 14×64 | 04 R160 | F+0x07:01 to :0E, by subindex
  mark : Bool := false             -- 1 | 15 R453 | marked for restart
  misses : Nat := 0                -- 64 | 04 R150 | delay target misses since the previous tick
  backlog : List (Nat × Nat) := [] -- - | 12 R392 | bulk work unplanned or unfinished at the latest intake close: tick ordinal, 1/256 su
  placedSu : Nat := 0              -- 64 | 12 R388 | 1/256 su placed in the current plan
  ranOn : List (Fin 56) := []      -- - | 01 R17 | engines its tiles ran on within the tick
deriving DecidableEq, Repr, Inhabited

structure Tenant where
  valid : Bool := false                 -- 8 | 12 R377 | :02
  budget : W32 := 0                     -- 32 | 12 R377 | :03 as last written
  burst : W32 := 0                      -- 32 | 12 R377 | :04 as last written
  weight : Byte := 1                    -- 8 | 12 R377 | :05 as last written
  budgetNow : W32 := 0                  -- 32 | 12 R379 | B in force
  burstNow : W32 := 0                   -- 32 | 12 R379 | U in force
  weightNow : Byte := 1                 -- 8 | 12 R379 | weight in force
  classes : Byte := 1                   -- 8 | 12 R377 | :06
  ranges : Tbl W32 := []                -- 4×32 | 12 R377 | :07 to :0A, by subindex
  coldTtl : W32 := 60000                -- 32 | 12 R377 | :0B ms
  coldBase : W64 := 0                   -- 64 | 12 R377 | :0C
  coldSlots : W32 := 0                  -- 32 | 12 R377 | :0D
  bucket : Int := 0                     -- 64 | 12 R383 | bucket in 1/256 su
  deficit : Nat := 0                    -- 32 | 12 R388 | deficit in 1/256 su
  charged : Nat := 0                    -- 64 | 12 R377 | charged, 1/256 su
  waits : W64 := 0                      -- 64 | 12 R389 | :11
deriving DecidableEq, Repr, Inhabited

structure Policy where
  valid : Bool := false                 -- 8 | 12 R380 | :02
  screens : W32 := 0xFFFFFFFF           -- 32 | 12 R380 | :03 as last written
  deltaSet : W16 := 0xFFFF              -- 16 | 12 R380 | :04 as last written
  screensNow : W32 := 0xFFFFFFFF        -- 32 | 12 R382 | :03 in force
  deltaSetNow : W16 := 0xFFFF           -- 16 | 12 R382 | :04 in force
  deltaVersion : W32 := 0               -- 32 | 12 R380 | :05
  past : List (Nat × DeltaUse) := []    -- - | 02 R42 | what earlier ticks whose work is unfinished use: last tick ordinal, version
  tagBase : W32 := 0                    -- 32 | 12 R380 | :06 [31:0]
  tagLimit : W32 := 0                   -- 32 | 12 R380 | :06 [63:32]
  stopSets : BitVec 256 := 0            -- 256 | 12 R380 | :07
  grammars : W64 := 0                   -- 64 | 12 R380 | :08
deriving DecidableEq, Repr, Inhabited

structure Accounts where
  tenants : Tbl Tenant := []       -- 16,384 | 12 R377 | tenant records
  tenantSel : W16 := 0             -- 16 | 12 R377 | 0x3000:01
  policies : Tbl Policy := []      -- 4,096 | 12 R380 | policy slots
  policySel : W16 := 0             -- 16 | 12 R380 | 0x3100:01
  quantum : W32 := 1024            -- 32 | 12 R390 | 0x3010:01
  quantumNow : W32 := 1024         -- 32 | 12 R390 | quantum used from the latest intake close
  capacity : W32 := 262144         -- 32 | 12 R390 | 0x3010:02 K of the latest plan
  lastServed : W16 := 16383        -- 16 | 12 R390 | 0x3010:03
deriving DecidableEq, Repr, Inhabited

/-! ## Mortise array -/

inductive EntrySt | empty | written | valid
deriving DecidableEq, Repr, Inhabited

/-- The 80-byte image of an entry (07 R219). -/
structure MImage where
  lo : List W32 := [0, 0, 0, 0, 0, 0, 0, 0]
  hi : List W32 := [0, 0, 0, 0, 0, 0, 0, 0]
  action : W64 := 0
  priority : BitVec 12 := 0
  enables : Byte := 0
deriving DecidableEq, Repr, Inhabited

structure MEntry where
  image : MImage := {}             -- 640 | 07 R219
  st : EntrySt := .empty           -- 2 | 07 R222
  suspect : Bool := false          -- 1 | 07 R222
  ecc : Ecc := .ok                 -- - | 07 R229 | error in the stored action word
  wroteAt : Nat := 0               -- 64 | 07 R229 | cycle of the step 2 that stored it, plus 1
deriving DecidableEq, Repr, Inhabited

/-- A slot of the shadow copy in HBM (07 R248). -/
structure Shadow where
  image : MImage := {}
  st : EntrySt := .empty
deriving DecidableEq, Repr, Inhabited

/-- A frame sent on MATCH_OUT (07 R242, R243). -/
inductive RingFrame | key (f : KeyFrame) | result (f : ResultFrame) | probe (f : Probe)
deriving DecidableEq, Repr, Inhabited

/-- A Bulk Update replace under way (07 R239): its entry, its image, the step that comes next. -/
structure BulkStep where
  entry : Nat
  image : MImage
  third : Bool := false            -- 1 | 07 R239 | step 2 is done
deriving DecidableEq, Repr, Inhabited

/-- A search in flight: the array as it stood in the issue cycle decides it (07 R227). -/
structure Search where
  id : Nat
  req : SearchReq
  issue : Nat
  found : Found
  tag : BitVec 10 := 0
  sent : Bool := false             -- 1 | 07 R244 | its result frame has left this stack
  back : Bool := false             -- 1 | 07 R245 | its cascade result frame has returned
deriving DecidableEq, Repr, Inhabited

inductive CursorSt | none | valid | endd | busy | fault
deriving DecidableEq, Repr, Inhabited

inductive BulkSt | idle | running | done | failed
deriving DecidableEq, Repr, Inhabited

inductive RingSt | unused | probing | up | failed
deriving DecidableEq, Repr, Inhabited

structure MortiseState where
  entries : Tbl MEntry := []            -- 262,144 | 07 R218 R222 | entries
  shadow : Tbl Shadow := []             -- 262,144×128×8 | 07 R248 | shadow slots in HBM
  refresh : List Nat := []              -- - | 07 R237 | entries whose shadow refresh is pending
  size : Byte := 1                      -- 8 | 07 R240 | 0x2400:01 Cascade Size
  position : Byte := 0                  -- 8 | 07 R240 | 0x2400:02 Cascade Position
  winEntry : W32 := 0                   -- 32 | 07 R234 | 0x2401:01, its width PRESUMED, log 8 (DESIGN CHOICE 0, log 2)
  winImage : MImage := {}               -- 640 | 07 R234 | 0x2401:03 to :0C (DESIGN CHOICE 0, log 2)
  winState : Byte := 0                  -- 8 | 07 R234 | 0x2401:0D as loaded (DESIGN CHOICE 0, log 2)
  bulkAddr : W64 := 0                   -- 64 | 07 R238 | 0x2402:01 (DESIGN CHOICE 0, log 2)
  bulkCount : W32 := 0                  -- 32 | 07 R238 | 0x2402:02 (DESIGN CHOICE 0, log 2)
  bulkSt : BulkSt := .idle              -- 8 | 07 R238 | 0x2402:04
  bulkApplied : W32 := 0                -- 32 | 07 R238 | 0x2402:05
  bulkFailing : W32 := 0                -- 32 | 07 R238 | 0x2402:06
  bulkTotal : Nat := 0                  -- - | 07 R238 | records of the run
  bulkLastAt : Nat := 0                 -- - | 07 R239 | cycle of the last record applied
  curKey : List W32 := [0, 0, 0, 0, 0, 0, 0, 0] -- 8×32 | 07 R230 | 0x2403:01 to :08 (DESIGN CHOICE 0, log 2)
  curTagBase : W32 := 0                 -- 32 | 07 R230 | :09 (DESIGN CHOICE 0, log 2)
  curTagLimit : W32 := 0                -- 32 | 07 R230 | :0A (DESIGN CHOICE 0, log 2)
  curSt : CursorSt := .none             -- 8 | 07 R230 | :0C
  curIndex : BitVec 20 := 0             -- 20 | 07 R230 | :0D (DESIGN CHOICE 0, log 2)
  curPriority : BitVec 12 := 0          -- 12 | 07 R230 | :0E (DESIGN CHOICE 0, log 2)
  curAction : W64 := 0                  -- 64 | 07 R230 | :0F (DESIGN CHOICE 0, log 2)
  curSuspect : Bool := false            -- 1 | 07 R230 | :10 (DESIGN CHOICE 0, log 2)
  capHandle : W32 := 0                  -- 32 | 07 R233 | 0x2404:01 (DESIGN CHOICE 0, log 2)
  capPosition : W32 := 0                -- 32 | 07 R233 | :02 (DESIGN CHOICE 0, log 2)
  capStage : Byte := 0                  -- 8 | 07 R233 | :03 (DESIGN CHOICE 0, log 2)
  capState : Byte := 0                  -- 8 | 07 R233 | :04
  scrubOn : Byte := 1                   -- 8 | 07 R249 | 0x2410:01
  scrubInterval : W16 := 256            -- 16 | 07 R249 | :02
  sweeps : W64 := 0                     -- 64 | 07 R249 | :03
  mismatches : W64 := 0                 -- 64 | 07 R249 | :04
  lastMismatch : W32 := 0               -- 32 | 07 R249 | :06
  scrubAt : Nat := 0                    -- 18 | 07 R250 | entry visited next
  scrubLast : Nat := 0                  -- 64 | 07 R250 | cycle of the last visit
  bulkStep : Option BulkStep := none    -- - | 07 R239 | a replace between its steps
  keyAt : Nat := 0                      -- 64 | 07 R246 | cycle of the last incoming key frame searched, plus 1
  stepped : List (Nat × Nat) := []      -- - | 07 R251 | entries that took a step in the current cycle: cycle, entry
  waiting : List SearchReq := []        -- - | 08 R286 | searches not granted yet
  searches : List Search := []          -- - | 07 R226 | searches in flight
  nextId : Nat := 0                     -- MODEL | 07 R226 | number of the next search
  nextTag : BitVec 10 := 0              -- 10 | 07 R243 | search tag of the next key frame
  ptr2 : Nat := 7                       -- 3 | 08 R285 R286 | level 2 pointer: P7
  ptr3 : Nat := 24                      -- 5 | 08 R285 R286 | level 3 pointer: the gaffer, last in order
  lastOrigin : Nat := 0                 -- 64 | 07 R246 | cycle of the last search originated, plus 1
  outFrames : List RingFrame := []      -- - | 07 R242 R244 | frames sent on MATCH_OUT, newest first
  probe : Option Nat := none            -- 64 | 07 R242, 15 R452 | cycle the ring probe was sent
  ring : RingSt := .unused              -- 8 | 16 R479 | 0x2308:01
  framesDropped : W32 := 0              -- 32 | 16 R479 | 0x2308:02
  timeouts : W32 := 0                   -- 32 | 16 R479 | 0x2308:03
deriving DecidableEq, Repr, Inhabited

/-! ## Text: vocabularies, stop sets, grammars, masks -/

inductive LoadSt | empty | loading | loaded
deriving DecidableEq, Repr, Inhabited

/-- A vocabulary entry (06 R178, R182). -/
structure VEntry where
  present : Bool := false
  special : Bool := false
  pegged : Bool := false
  bytes : List Byte := []
deriving DecidableEq, Repr, Inhabited

structure Vocab where
  st : LoadSt := .empty            -- 8 | 06 R177 | :02
  addr : W64 := 0                  -- 64 | 06 R177 | :03 (DESIGN CHOICE 0, log 2)
  len : W32 := 0                   -- 32 | 06 R177 | :04 (DESIGN CHOICE 0, log 2)
  idCount : W32 := 0               -- 32 | 06 R177 | :05
  last : Byte := 0                 -- 8 | 06 R177 | :08
  entries : Tbl VEntry := []       -- 64 MiB | 06 R183 | HBM overflow array: every present entry
deriving DecidableEq, Repr, Inhabited

structure Grammar where
  st : LoadSt := .empty            -- 8 | 06 R195 | :02
  addr : W64 := 0                  -- 64 | 06 R195 | :03 (DESIGN CHOICE 0, log 2)
  len : W32 := 0                   -- 32 | 06 R195 | :04 (DESIGN CHOICE 0, log 2)
  vocab : Byte := 0                -- 8 | 06 R195 | :05 (DESIGN CHOICE 0, log 2)
  last : Byte := 0                 -- 8 | 06 R195 | :08
  image : List Byte := []          -- - | 06 R196 | the image in the mask tables region
  served : Byte := 0               -- 8 | 06 R199 | vocabulary slot the image was loaded against
deriving DecidableEq, Repr, Inhabited

structure StopSet where
  includeIt : Bool := false        -- 8 | 06 R188 | :02 [0] INCLUDE
  strings : List (List Byte) := [] -- - | 06 R188 | :03 Strings
deriving DecidableEq, Repr, Inhabited

/-- A vocabulary entry's place in the SRAM table (06 R181, R182): vocabulary and token id. -/
abbrev VKey := Nat × Nat

/-- A MASK record that waits for mask writes (06 R211, R216). -/
structure MaskWait where
  slot : Slot
  rc : Rec
  image : Fin 64
  needs : List (BitVec 20)
  due : Nat := 0                   -- 64 | 06 R215 | first cycle after the one in which it enters the outbound crossing
deriving DecidableEq, Repr, Inhabited

structure TextState where
  vocabs : Tbl Vocab := []              -- 8 | 06 R177 | vocabulary slots
  sram : Tbl (List (VKey × Nat)) := []  -- 24 MiB | 06 R181 R182 | buckets (way × 196,608 + bucket): entries packed from slot 0, with the slots each takes
  grammars : Tbl Grammar := []          -- 64 | 06 R195 | grammar image slots
  stopSets : Tbl StopSet := []          -- 255 | 06 R188 | stop sets
  stopSel : Byte := 0                   -- 8 | 06 R188 | 0x2660:01 (DESIGN CHOICE 0, log 2)
  utf8Hold : Byte := 1                  -- 8 | 06 R191 | 0x2670:01
  poolBase : W64 := 0                   -- 64 | 06 R208 | 0x2680:01 (DESIGN CHOICE 0, log 2)
  slotsPerParity : W32 := 0             -- 32 | 06 R208 | :02 (DESIGN CHOICE 0, unset; log 2)
  slotSize : W32 := 0                   -- 32 | 06 R208 | :03 (DESIGN CHOICE 0, unset; log 2)
  indexBase : W64 := 0                  -- 64 | 06 R208 | :04 (DESIGN CHOICE 0, log 2)
  counters : Tbl W64 := []              -- 8×64 | 16 R480 | 0x2600:01 to :08, by subindex
  masksNow : List (Fin 64 × BitVec 20) := [] -- - | 06 R210 | masks written in the current tick
  maskUsed0 : Nat := 0                  -- - | 06 R210 | slots of parity 0 taken in the latest even tick
  maskUsed1 : Nat := 0                  -- - | 06 R210 | slots of parity 1 taken in the latest odd tick
  maskWriting : List (Fin 64 × BitVec 20) := [] -- - | 06 R211 | masks whose writes are not complete
  maskWaits : List MaskWait := []       -- - | 06 R211 | records that wait for mask writes
  maskDeferred : List MaskWait := []    -- - | 06 R216 | records that wait for the next tick's slots
  maskCache : List (Nat × Nat) := []    -- 262,144×64×8 | 06 R206 | mask cache: grammar slot and line of its image, most recently used first
deriving DecidableEq, Repr, Inhabited

/-! ## Engines, plans, numbers -/

/-- A tile record (08 R268). -/
structure Tile where
  id : W16
  engine : BitVec 6
  kind : BitVec 4
  role : BitVec 4
  fmtA : BitVec 4
  fmtB : BitVec 4
  grouping : BitVec 2
  intPath : Bool
  deltaCapable : Bool
  layer : W16
  m : W32
  k : W32
  n : W32
  waitFor : W16
  waitValid : Bool
  screen : W16
  weightOffset : W48
deriving DecidableEq, Repr, Inhabited

/-- A peg record (08 R270). -/
structure Peg where
  screen : W16
  streamMask : W16
  denseMask : W32
  bytes : W32
deriving DecidableEq, Repr, Inhabited

structure Plan where
  st : LoadSt := .empty            -- 8 | 08 R273 | :03
  addr : W64 := 0                  -- 64 | 08 R273 | :04
  len : W32 := 0                   -- 32 | 08 R273 | :05
  last : Byte := 0                 -- 8 | 08 R273 | :06
  format : W16 := 0                -- 16 | 08 R273 | :07
  costPatch : W32 := 0             -- 32 | 08 R273 | :08
  costToken : W32 := 0             -- 32 | 08 R273 | :09
  costTune : W32 := 0              -- 32 | 08 R273 | :0A
  denseMask : W32 := 0             -- 32 | 08 R273 | :0B [31:0]
  streamMask : W16 := 0            -- 16 | 08 R273 | :0B [47:32]
  tileMin : W16 := 0               -- 16 | 08 R267 | lowest tile image version it runs on
  tileMax : W16 := 0               -- 16 | 08 R267 | highest
  promptScreen : Bool := false     -- 1 | 08 R267 | header byte 6 [0]
  watcher : Bool := false          -- 1 | 08 R267 | [1]
  tuning : Bool := false           -- 1 | 08 R267 | [3]
  patchBytes : BitVec 5 := 0       -- 5 | 08 R267 | byte 7
  promptId : W16 := 0xFFFF         -- 16 | 08 R267 | prompt_screen_id (DESIGN CHOICE: none while empty, log 2)
  watcherId : W16 := 0xFFFF        -- 16 | 08 R267 | watcher_screen_id (DESIGN CHOICE: none while empty, log 2)
  tiles : List Tile := []          -- - | 08 R268 | tile table
  pegs : List Peg := []            -- - | 08 R270 | peg table
  rules : List Byte := []          -- - | 08 R257 | byte-rule image
  image : List Byte := []          -- - | 08 R267, 11 R557 | the image in HBM
  decl : PlanDecl := {}            -- - | 11 R343 R345 R346 | what the plan declares of its models
deriving DecidableEq, Repr, Inhabited

/-- A tile on an engine (08 R256). -/
structure RunTile where
  of_ : TileOf
  tile : Tile
  plan : Byte := 0                 -- 8 | 08 R256 | plan of the tile
  start : Nat
  tick : TickRef := {}             -- 48 | 02 R42 | tick of its work
  fn : Option (Fin 64) := none     -- 6 | 04 R126 | function of its work, none for a micro-batch
  lat : Bool := false              -- 1 | 08 R283 R284 | latency-class work
  use : DeltaUse := {}             -- - | 08 R264 | delta set and version of its rows
  aScale : Scale := 0x7F00         -- 16 | 09 R306 | scale of its activations for the tick
  outScale : Scale := 0x7F00       -- 16 | 10 R329 R331 | scale of what it writes
  outSlot : Option (Nat × W16) := none -- 32 | 10 R325 | slot that counts what it writes, and the slot's owner id
  version : W32 := 0               -- 32 | 08 R270 R272 | version of the screen whose weights it reads
  fromSlice : Bool := false        -- 1 | 08 R270 R272 | it reads them from the pegged copy in the slice, else from HBM
  fault : Bool := false
deriving DecidableEq, Repr, Inhabited

/-- One half of an engine's buffers (08 R255): weights, activations, their scales, zero points and cullets with them,
and the accumulators. -/
structure BufHalf where
  load : TileLoad := {}            -- - | 08 R255 | weight and activation buffer, scale and cullet buffer, what to write
  acc : List (List W32) := []      -- - | 08 R255 | accumulators, binary32 or INT32
deriving DecidableEq, Repr, Inhabited

structure Engine where
  pool : Bool := true              -- 8 | 08 R277 | :01 Pool (in the plan pool)
  poolNext : Bool := false         -- 1 | 08 R278 | returns to the pool at the next tick boundary
  share : Byte := 0                -- 8 | 08 R277 | :02 Latency Share (pattern engines reset to 16)
  tilesRun : W64 := 0              -- 64 | 08 R277 | :05
  busy : W64 := 0                  -- 64 | 08 R277 | :06
  overrunBeats : W64 := 0          -- 64 | 08 R284 | :07
  corrected : W32 := 0             -- 32 | 08 R277 | :08
  detected : W32 := 0              -- 32 | 08 R277 | :09
  running : Option RunTile := none -- - | 08 R256 | tile that runs
  stash : List Byte := []          -- - | 08 R255, 09 R298 | the stored tensor that the last tile drained
  latBusy : Nat := 0               -- - | 08 R284 | latency-class busy ac in the tick
  lastLat : Bool := false          -- 1 | 08 R284 | the last tile taken in alternation was latency-class
  store : List Slot := []          -- 4,608×640×8 | 11 R348 | state store of a pattern engine: bulk requests whose record it caches, most recently used first
  rewriting : List (W16 × Nat) := [] -- - | 08 R272 | pegged screens whose rewrite is not complete, and the cycle it began
  copies : Tbl W32 := []           -- - | 08 R270 | pegged copies in the slice: screen, version
  half0 : BufHalf := {}            -- - | 08 R255
  half1 : BufHalf := {}            -- - | 08 R255
  feed : Bool := false             -- 1 | 08 R255 | the half that feeds the array (false 0), or fed it last
  planned : Nat := 0               -- - | 08 R282 | ac of bulk and tuning work planned for the tick
  nextToken : Nat := 0             -- 64 | 05 R172 | first cycle in which a pegged watcher takes another token
  scribe : Nat := 0                -- 64 | 05 R163 R168 | first cycle free for a latency-class beat (pattern engines)
  scribeBulk : Nat := 0            -- 64 | 08 R283 | first cycle free for a bulk beat (pattern engines)
deriving DecidableEq, Repr, Inhabited

structure EngineState where
  engines : Tbl Engine := []       -- 56 | 01 R7, 08 R277 | engines by id
  plans : Tbl Plan := []           -- 256 | 08 R273 | plan slots
  planSel : W16 := 0               -- 16 | 08 R273 | 0x2140:01
  numeric : Tbl W64 := []          -- 12×64 | 09 R319 | 0x2505:01 to :0C, by subindex
  escapeMult : W16 := 0x0400       -- 16 | 09 R315 | 0x2503:01
  culletCap : Byte := 4            -- 8 | 09 R315 | 0x2503:02
deriving DecidableEq, Repr, Inhabited

/-! ## The marver (10_live_calibration.md) -/

/-- Statistics of the values written under a slot (10 R325). -/
structure Stat where
  m : Rat := 0
  a : Rat := 0
  sat : Nat := 0
  any : Bool := false
deriving DecidableEq, Repr, Inhabited

structure CalSlot where
  owner : Byte := 0                -- 8 | 10 R336 | :02 owner: 0 free, 1 plan, 2 tuning
  ownerId : W16 := 0               -- 16 | 14 R432 | plan slot or delta set
  fmt : BitVec 4 := 0              -- 4 | 10 R336 | :03
  floor : Scale := 0               -- 16 | 10 R336 | :04
  scale : Scale := 0               -- 16 | 10 R336 | :05
  hist : List (Nat × Scale) := []  -- - | 10 R329 R331 | scales of earlier ticks whose work is unfinished: tick ordinal, scale
  next : Scale := 0                -- 16 | 10 R336 | :06
  window : List Rat := []          -- 16×32 | 10 R332 | window, oldest first
  sats : W64 := 0                  -- 64 | 10 R336 | :08
  triggers : W32 := 0              -- 32 | 10 R336 | :09
  m : Rat := 0                     -- - | 10 R325 | clipped maximum of the period
  a : Rat := 0                     -- - | 10 R325 | full maximum of the period
  sat : Nat := 0                   -- - | 10 R325 | saturations of the period
  counted : Bool := false          -- 1 | 10 R332 | a value was counted in the period
  ahead : Stat := {}               -- - | 10 R328 R339 | values that left their engines at close_k or later, before the close is computed
deriving DecidableEq, Repr, Inhabited

structure RingCfg where
  base : W64 := 0
  log2 : Byte := 0
  doorbell : W64 := 0
  consumerAddr : W64 := 0
  producer : W32 := 0
  consumer : W32 := 0
deriving DecidableEq, Repr, Inhabited

structure CalState where
  slots : Tbl CalSlot := []        -- 65,536 | 10 R321 | calibration slots
  windowN : Byte := 4              -- 8 | 10 R335 | 0x2501:01
  headroom : W16 := 0x0110         -- 16 | 10 R335 | 0x2502:01
  trigger : W32 := 16              -- 32 | 10 R335 | 0x2504:01
  sel : W16 := 0                   -- 16 | 10 R336 | 0x2520:01
  ring : RingCfg := {}             -- - | 10 R337 | 0x2510:01 to :04 and the log's indices
  dropped : W64 := 0               -- 64 | 10 R337 | 0x2510:05
  written : W64 := 0               -- 64 | 10 R337 | 0x2510:06
  periodOpen : Bool := false       -- 1 | 10 R328 | a calibration period is open
  closed : Bool := false           -- 1 | 10 R329 | the period of the current tick has closed
deriving DecidableEq, Repr, Inhabited

/-! ## HBM, truss, cold tier, copier (11_stream_state.md) -/

structure Region where
  base : W32                       -- 32 | 11 R374 | :01
  pages : W32                      -- 32 | 11 R374 | :02
  copyWaits : W64 := 0             -- 64 | 11 R374 | :04
deriving DecidableEq, Repr, Inhabited

structure Node where
  fingerprint : W64 := 0           -- 64 | 11 R356
  parent : W32 := 0xFFFFFFFF       -- 32 | 11 R356
  plan : Byte := 0                 -- 8 | 11 R356
  hasState : Bool := false         -- 1 | 11 R356
  policy : BitVec 12 := 0          -- 12 | 11 R356
  tenant : BitVec 14 := 0          -- 14 | 11 R356
  depth : W16 := 0                 -- 16 | 11 R356
  hits : W16 := 0                  -- 16 | 11 R356
  pins : W16 := 0                  -- 16 | 11 R356
  backbone : W32 := 0              -- 32 | 11 R356
  delta : W32 := 0                 -- 32 | 11 R356
  lastUse : W48 := 0               -- 48 | 11 R356
  statePage : BitVec 22 := 0       -- 22 | 11 R356 | page of the state held (log 99)
  block : List Byte := []          -- 128×8 | 11 R356
  state : List Byte := []          -- 65536×8 | 11 R356 R360 | the screen's state after the block, in its page
deriving DecidableEq, Repr, Inhabited

structure StreamState where
  regions : List Region :=
    [⟨0, 49152, 0⟩, ⟨49152, 131072, 0⟩, ⟨180224, 262144, 0⟩, ⟨442368, 49152, 0⟩,
     ⟨491520, 8192, 0⟩, ⟨499712, 8192, 0⟩, ⟨507904, 8192, 0⟩, ⟨516096, 128, 0⟩] -- 8 | 11 R374 | HBM regions 0 to 7
  trussOn : Byte := 1              -- 8 | 11 R354 | 0x2210:01
  trussQuota : W32 := 368640       -- 32 | 11 R354 | :02
  trussK : Byte := 2               -- 8 | 11 R354 | :03
  trussScope : Byte := 0           -- 8 | 11 R354 | :04
  nodes : Tbl Node := []           -- - | 11 R356 | node records with valid 1, by node id
  trussHits : W64 := 0             -- 64 | 11 R354 | :07
  trussEvict : W64 := 0            -- 64 | 11 R354 | :08
  trussFalse : W64 := 0            -- 64 | 11 R354 | :09
  trussSkip : W64 := 0             -- 64 | 11 R354 | :0A
  coldMoves : W64 := 0             -- 64 | 11 R367 | 0x2211:01
  coldResumes : W64 := 0           -- 64 | 11 R367 | :02
  coldExpired : W64 := 0           -- 64 | 11 R367 | :03
  coldFull : W64 := 0              -- 64 | 11 R367 | :04
  copySet : List (BitVec 22) := [] -- - | 11 R369 R370 | pages of the copy set whose copied bit is clear
  staged : List (BitVec 22) := []  -- - | 11 R370 | pages copied into checkpoint staging
  freePending : List (BitVec 22) := [] -- - | 11 R372 | pages of the delta sets region freed before they are copied
deriving DecidableEq, Repr, Inhabited

/-! ## Live tuning and versions (13_live_tuning.md) -/

/-- A delta block record (08 R261). -/
structure DBlock where
  row : W16
  col : W16
  scales : List W16
  codes : List (BitVec 4)
deriving DecidableEq, Repr, Inhabited

/-- The blocks of one matrix (13 R416). -/
structure DMatrix where
  screen : W16
  layer : W16
  rows : W32
  cols : W32
  weightOffset : W48
  blocks : List DBlock
deriving DecidableEq, Repr, Inhabited

structure DVersion where
  version : W32
  fromCut : Bool
  matrices : List DMatrix := []
deriving DecidableEq, Repr, Inhabited

/-- A PUBLISH that waits (13 R423). -/
structure Pub where
  version : W32
  tick : W48
  atNext : Bool                    -- 1 | 03 R84 | publishes at the next T_n
  port : Fin 8
  seq : W16
  stamp : Nat
  byAuto : Bool := false           -- 1 | 13 R425 | set by Auto Publish
deriving DecidableEq, Repr, Inhabited

inductive StagingSt | empty | loading | cutting | ready
deriving DecidableEq, Repr, Inhabited

structure DeltaSet where
  addr : W64 := 0                  -- 64 | 13 R413 | :03
  len : W32 := 0                   -- 32 | 13 R413 | :04
  loadVersion : W32 := 0           -- 32 | 13 R413 | :05
  staging : StagingSt := .empty    -- 8 | 13 R413 | :06
  stagingV : Option DVersion := none -- - | 13 R418 | staging version
  stagingNum : W32 := 0            -- 32 | 13 R413 | :07
  current : Option DVersion := none  -- 32 | 13 R413 | :08
  previous : Option DVersion := none -- 32 | 13 R413 | :09
  pending : Option Pub := none     -- 32 | 13 R413 | :0A
  tuning : Byte := 0               -- 8 | 13 R413 | :0B
  tuningPlan : Byte := 0           -- 8 | 13 R413 | :0C
  autoCut : W16 := 0               -- 16 | 13 R413 | :0D
  autoPublish : Byte := 0          -- 8 | 13 R413 | :0E
  last : Byte := 0                 -- 8 | 13 R413 | :0F
  steps : W64 := 0                 -- 64 | 13 R413 | :10
  calBlock : W16 := 0xFFFF         -- 16 | 13 R413 | :11
  highest : W32 := 0               -- 32 | 13 R414 R415 | highest version held since reset
  firstDue : Bool := false         -- 1 | 13 R418 | becomes CURRENT at the next T_n
  master : List W16 := []          -- 16 each | 13 R408 | master deltas, E8M7
  moment1 : List Group := []       -- 8 each | 13 R408 | first moment, INT8
  momentCap : BitVec 4 := 0        -- 4 | 09 R298 | cullet cap that the first moment was written with
  moment2 : List Group := []       -- 8 each | 13 R408 | second moment, U8L
  cutWait : List (W64 × BatchResult) := [] -- - | 13 R417 | steps that wait for the cut to read the master
  cutAt : Nat := 0                 -- 64 | 13 R417 | cycle in which the last cut started
  cutTicks : Nat := 0              -- - | 13 R425 | ticks since the last cut started
  stepsSinceCut : Bool := false    -- 1 | 13 R425
  held : List DVersion := []       -- - | 13 R415 R419 | versions freed by DELETE that a hold still keeps
deriving DecidableEq, Repr, Inhabited

inductive OtherSt | empty | loading | ready | previous
deriving DecidableEq, Repr, Inhabited

structure Screen where
  addr : W64 := 0                  -- 64 | 13 R420 | :03
  len : W32 := 0                   -- 32 | 13 R420 | :04
  loadVersion : W32 := 0           -- 32 | 13 R420 | :05
  other : OtherSt := .empty        -- 8 | 13 R420 | :06
  otherV : W32 := 0                -- 32 | 13 R420 | :07
  current : W32 := 0               -- 32 | 13 R420 | :08
  past : List (Nat × W32) := []    -- - | 02 R42 | versions of earlier ticks whose work is unfinished: last tick ordinal, version
  last : Byte := 0                 -- 8 | 13 R420 | :09
  highest : W32 := 0               -- 32 | 13 R414 R420
  pending : Option Pub := none     -- - | 13 R423
  firstDue : Bool := false         -- 1 | 13 R418
  otherLen : Nat := 0              -- - | 11 R557 | bytes of the OTHER image
  image : List Byte := []          -- - | 13 R421 | the CURRENT image in HBM
  otherImage : List Byte := []     -- - | 13 R421 | the OTHER image in HBM
deriving DecidableEq, Repr, Inhabited

/-- A queued feedback span (13 R394, R395). -/
structure Span where
  length : W32
  addr : W64
  tenant : BitVec 14
  policy : BitVec 12
  head : BitVec 2
  target : W16
  seq : W64
  port : Fin 8
  crossed : Nat := 0               -- - | 13 R398 | tick boundaries crossed
deriving DecidableEq, Repr, Inhabited

/-- A micro-batch (13 R398 to R406). -/
structure Batch where
  seq : W64
  set : BitVec 10
  spans : List Span
  patches : Nat
  cost : Nat                       -- 1/256 su
  plan : Byte
  placed : Bool := false
  order : Nat := 0                 -- MODEL | 01 R16, 08 R269 | place in the order in which plans placed work
  started : Bool := false          -- 1 | 02 R45 | a tile of it has started
  tick : TickRef := {}             -- - | 13 R400 | tick it is tagged with
  deltaTag : W32 := 0              -- 32 | 13 R400
  backboneTags : List (W16 × W32) := [] -- - | 13 R400
  use : DeltaUse := {}             -- - | 12 R381, 13 R400 | delta set, version and screens that its tiles merge
  block : W16 := 0xFFFF            -- 16 | 13 R409 | calibration block when it started
  scales : List Scale := []        -- 64×16 | 10 R331 | scales of that block for the tick in whose plan it started
  todo : List Nat := []
  running : Nat := 0
  done : List W16 := []
  recompute : Option W16 := none   -- 17 | 13 R405 | recompute mode: the layer that was written when it was entered
  stale : Bool := false            -- 1 | 13 R426 | stale when it completed
  drop : Bool := false             -- 1 | 13 R412 | Stale Policy was DISCARD when it completed
  stash : List (W16 × Nat × Nat) := [] -- - | 13 R404 | layer, SRAM bytes, overflow pages
  fault : Bool := false
  doomed : Bool := false           -- 1 | 13 R415 R424 | discarded when it completes
  finished : Bool := false         -- 1 | 13 R401 | all tiles done, waits for its completion
deriving DecidableEq, Repr, Inhabited

structure TuneState where
  enable : Byte := 0               -- 8 | 13 R412 | 0x2700:01
  enableNow : Byte := 0            -- 8 | 13 R412 | Enable used from the latest intake close
  patches : W16 := 512             -- 16 | 13 R412 | :02
  fillTicks : Byte := 4            -- 8 | 13 R412 | :03
  stalePolicy : Byte := 0          -- 8 | 13 R412 | :04
  seed : BitVec 128 := 0           -- 128 | 13 R412 | :05
  position : W64 := 0              -- 64 | 13 R396 R412 | :07 Feedback Position
  nextSeq : W64 := 0               -- 64 | 13 R412 | :08
  lastAccepted : Option W64 := none -- 64 | 13 R394 | feedback_seq of the last accepted span
  queue : List Span := []          -- 65,536 | 13 R395 | feedback queue
  batches : List Batch := []       -- - | 13 R399 | micro-batches formed and not ended
  finishedSeqs : List W64 := []    -- - | 13 R396 | finished feedback_seqs above Feedback Position
  lr : W32 := 0x38D1B717           -- 32 | 13 R412 | 0x2701:01 1.0E-4
  beta1 : W32 := 0x3F666666        -- 32 | 13 R412 | :02 0.9
  beta2 : W32 := 0x3F7FBE77        -- 32 | 13 R412 | :03 0.999
  eps : W32 := 0x322BCC77          -- 32 | 13 R412 | :04 1.0E-8
  decay : W32 := 0                 -- 32 | 13 R412 | :05 0.0
  watermark : W32 := 12582912      -- 32 | 13 R407 | 0x2702:01
  counters : Tbl W64 := []         -- 13×64 | 16 R481 | 0x2703:01 to :0D, by subindex
  sets : Tbl DeltaSet := []        -- 1,024 | 13 R413 | delta sets
  setSel : W16 := 0                -- 16 | 13 R413 | 0x2710:01
  screens : Tbl Screen := []       -- 1,024 | 13 R420 | backbone screens
  screenSel : W16 := 0             -- 16 | 13 R420 | 0x2720:01
deriving DecidableEq, Repr, Inhabited

/-! ## Checkpoint shard (14_checkpoint_shard.md) -/

inductive CkState | idle | snapshotPending | writing | restoring | awaitingAck
deriving DecidableEq, Repr, Inhabited

/-- The writing step a checkpoint waits in (14 R437 steps 3 to 6). -/
inductive CkStep | zeroCommit | sections | fragment | commit
deriving DecidableEq, Repr, Inhabited

structure CkptState where
  st : CkState := .idle            -- 8 | 14 R436 | 0x2800:02
  last : Byte := 0                 -- 8 | 14 R436 | :03
  snapTick : W64 := 0              -- 64 | 14 R436 | :04
  sequence : W64 := 0              -- 64 | 14 R436 | :05
  lastSlot : Byte := 0xFF          -- 8 | 14 R436 | :06
  skipped : W16 := 0               -- 16 | 14 R436 | :07
  baseA : W64 := 0                 -- 64 | 14 R436 | 0x2801:01
  sizeA : W64 := 0                 -- 64 | 14 R436 | 0x2801:02
  baseB : W64 := 0                 -- 64 | 14 R436 | 0x2802:01
  sizeB : W64 := 0                 -- 64 | 14 R436 | 0x2802:02
  foreign : BitVec 384 := 0        -- 384 | 14 R436 | 0x2803:02
  target : Bool := false           -- 1 | 14 R437 | target slot, false A
  newSeq : W64 := 0                -- 64 | 14 R437 | sequence of the checkpoint that runs
  newTick : W48 := 0               -- 48 | 14 R437 | snapshot tick
  step : CkStep := .zeroCommit     -- - | 14 R437
  sections : List (W16 × W16 × List Byte) := [] -- - | 14 R430 | captured sections: kind, set, bytes
  fragment : List Byte := []       -- 4,096×8 | 14 R433 | the fragment written at steps 5 and 6
  applied : Nat := 0               -- 64 | 14 R437 | cycle the CHECKPOINT was applied
  cands : List (Bool × List Byte) := [] -- - | 14 R442 | valid slots that a restore can take, newest first, with their fragments
  tuned : Nat := 0                 -- - | 14 R434 | sets with Tuning 1 at the snapshot
  chosen : Option Bool := none     -- 1 | 14 R442 | slot a restore has chosen
deriving DecidableEq, Repr, Inhabited

/-! ## Errors (17_errors.md) -/

/-- An error record of the cycle, before it is reported (17 R498): `partner` marks the PARTNER form of
CHECKPOINT_FAILED (14 R440), `emcy` is false where the rule that raises it sends none. -/
structure Raised where
  code : ErrCode
  place : Place := {}
  argA : W64 := 0
  argB : W64 := 0
  argC : W64 := 0
  partner : Bool := false
  emcy : Bool := true
deriving DecidableEq, Repr, Inhabited

structure ErrState where
  raised : List Raised := []       -- MODEL | 17 R498 | error records of the command that runs, none between steps
  cycle : List Raised := []        -- - | 17 R498 | error records of the cycle, reported at its end, in ascending order of their details
  byClass : Tbl W64 := []          -- 5×64 | 16 R482 | 0x2900:01 to :05, by subindex
  capCode : W16 := 0               -- 16 | 16 R482 | 0x2901:01
  capClass : Byte := 0             -- 8 | 16 R482 | :02
  capDetail : BitVec 40 := 0       -- 40 | 16 R482 | :03
  capStamp : Nat := 0              -- 64 | 16 R482 | :04
  captured : Bool := false         -- 8 | 16 R482 | :05
  ring : RingCfg := {}             -- - | 16 R482 | 0x2905:01 to :04 and the host error ring's indices
  dropped : W64 := 0               -- 64 | 16 R482 | 0x2905:05
  stallLimit : W16 := 64           -- 16 | 16 R482 | 0x2906:01 as last written
  stallNow : W16 := 64             -- 16 | 16 R482 | Ring Stall Limit in force
  logSel : Byte := 0               -- 8 | 16 R482 | 0x2910:01
  log : List (Rec × W16 × Nat) := [] -- 256×64×8 | 16 R482 R483 | violation log, newest first, with port_seq and the cycle of its entry
  violations : W64 := 0            -- 64 | 16 R482 | 0x2910:04
  corrected : List (ErrCode × BitVec 21) := [] -- - | 17 R502 | CORRECTED codes and sources seen in the tick
  tickErrs : List (List Nat) := [] -- - | 01 R17 | error records of the tick, each as the engines of its unit
  once : List (Nat × Nat × Nat) := [] -- - | 03 R55 R62, 04 R145, 11 R343 | reports limited to one per tick: kind, unit, tick ordinal
  lastReg : Byte := 0              -- 8 | 17 R503 | error register as last formed
deriving DecidableEq, Repr, Inhabited

/-! ## Management (15_management.md, 16_object_map.md) -/

inductive Nmt | initialisation | preOperational | operational | stopped
deriving DecidableEq, Repr, Inhabited

structure Tpdo where
  cobId : Option W32 := none       -- 32 | 15 R446 R471 | :01 as written; none: the default of R446
  kind : Byte := 0xFE              -- 8 | 15 R471 | :02
  inhibit : W16 := 0               -- 16 | 15 R471 | :03
  timer : W16 := 0                 -- 16 | 15 R471 | :05
  count : Byte := 0                -- 8 | 15 R472 | mapping :00
  entries : Tbl W32 := []          -- 16×32 | 15 R472 | mapping entries, by subindex
  lastSent : Option W64 := none    -- - | 15 R471 | global time of the last frame
deriving DecidableEq, Repr, Inhabited

/-- An EMCY that waits (15 R469): code, register, detail. -/
structure Emcy where
  code : W16
  reg : Byte
  detail : BitVec 40
deriving DecidableEq, Repr, Inhabited

/-- A frame handed to the CAN FD controller. -/
inductive CanFrame
  | bootUp (node : Byte) | heartbeat (node : Byte) (code : Byte) | emcy (cob : W32) (e : Emcy)
  | tpdo (cob : W32) (data : List Byte) | response (node : Byte) (abort : W32) (data : List Byte)
deriving DecidableEq, Repr, Inhabited

/-- An open segmented session (15 R460). -/
structure Session where
  index : W16
  sub : Byte
  upload : Bool
  data : List Byte
  total : Nat
  since : W64
deriving DecidableEq, Repr, Inhabited

/-- Abort Detail of one path (15 R467). -/
structure AbortDetail where
  code : W32 := 0                  -- 32 | 15 R467 | :01
  reason : W16 := 0                -- 16 | 15 R467 | :02
  index : W16 := 0                 -- 16 | 15 R467 | :03
  sub : Byte := 0                  -- 8 | 15 R467 | :04
  aborts : W32 := 0                -- 32 | 15 R467 | :05
deriving DecidableEq, Repr, Inhabited

structure MgmtState where
  nmt : Nmt := .initialisation     -- 8 | 15 R450 | 0x2001:02
  nodeId : Byte := 0               -- 8 | 15 R447 | 0x2003:01
  nominal : W16 := 500             -- 16 | 15 R447 | :02
  dataRate : W16 := 2000           -- 16 | 15 R447 | :03
  activeNode : Byte := 0           -- 8 | 15 R447 | :04
  nominalNow : W16 := 500          -- 16 | 15 R447 | nominal bit rate in use
  dataRateNow : W16 := 2000        -- 16 | 15 R447 | data bit rate in use
  collisions : W64 := 0            -- 64 | 15 R465 | 0x2004:01
  mbxRequests : W64 := 0           -- 64 | 15 R465 | :02
  canRequests : W64 := 0           -- 64 | 15 R465 | :03
  emcyLost : W64 := 0              -- 64 | 15 R465 | :04
  abortMbx : AbortDetail := {}     -- - | 15 R467 | 0x2006
  abortCan : AbortDetail := {}     -- - | 15 R467 | 0x2007
  lastWrite : Option (Nat × W16 × Path) := none -- - | 15 R462 | cycle, index and path of the last write applied
  mbxRequest : List Byte := []     -- 512 | 15 R457 | MBX_REQUEST as copied (DESIGN CHOICE empty, log 2)
  mbxResponse : List Byte := []    -- 512 | 15 R457 | MBX_RESPONSE, value or abort code of the last answer (DESIGN CHOICE empty, log 2)
  mbxNode : Byte := 0              -- 8 | 15 R459 | node-ID in MBX_RESPONSE (DESIGN CHOICE 0, log 2)
  mbxSeq : W16 := 0                -- 16 | 15 R457 | MBX_STATUS [31:16]
  mbxPosted : W16 := 0             -- 16 | 15 R458 | sequence of the post being served
  mbxRejected : Bool := false      -- 1 | 15 R457 | REJECTED
  mbxBusy : Bool := false          -- 1 | 15 R457 | BUSY
  mbxValid : Bool := false         -- 1 | 15 R457 | VALID
  sessMbx : Option Session := none -- - | 15 R460 | mailbox session
  sessCan : Option Session := none -- - | 15 R460 | CAN session
  cobEmcy : Option W32 := none     -- 32 | 16 R477 | 0x1014 as written; none: 0x80 + node-ID
  inhibitEmcy : W16 := 0           -- 16 | 15 R469 | 0x1015
  heartbeatMs : W16 := 100         -- 16 | 15 R470 | 0x1017
  lastHeartbeat : W64 := 0         -- 64 | 15 R470 | global time of the last heartbeat
  errorList : List W32 := []       -- 16×32 | 16 R477 | 0x1003:01 to :10, newest first
  emcyQueue : List Emcy := []      -- 16 | 15 R469 | EMCY queue, oldest first
  lastEmcy : Option W64 := none    -- - | 15 R469 | global time of the last EMCY
  tpdos : Tbl Tpdo := []           -- 8 | 15 R471 | TPDOs that differ from their default
  canOut : List CanFrame := []     -- MODEL | 15 R446 | frames sent, newest first
  telemetry : Tbl W64 := []        -- 10×64 | 15 R471 R473 | telemetry values at the latest T_n in Operational, by index - 0x6000
deriving DecidableEq, Repr, Inhabited

/-- A unit of the Zwiup view (16 R488, R489). -/
structure ViewUnit where
  priority : Byte := 0             -- 8 | 16 R488
  corrected : W32 := 0             -- 32 (cells 16) | 16 R488
  detected : W32 := 0              -- 32 (cells 16) | 16 R488
  sawC : Bool := false             -- 1 | 16 R489 | Summary [0]
  sawD : Bool := false             -- 1 | 16 R489 | Summary [1]
deriving DecidableEq, Repr, Inhabited

structure ViewState where
  summaries : Byte := 0            -- 8 | 16 R488 | 0x5000:01
  arbitration : Byte := 0          -- 8 | 16 R488 | 0x5000:02
  chip : ViewUnit := {}            -- - | 16 R488 | 0x5010
  regions : Tbl ViewUnit := []     -- 8 | 16 R488 | 0x5100 to 0x5107
  blocks : Tbl ViewUnit := []      -- 56 | 16 R488 | 0x5200 to 0x5237
  cells : Tbl ViewUnit := []       -- 10,240 | 16 R488 | cells, block × 256 + cell
  cellBlock : Byte := 0            -- 8 | 16 R488 | 0x5300:01
  cellSel : W16 := 0               -- 16 | 16 R488 | :02
deriving DecidableEq, Repr, Inhabited

/-! ## Power, clocks, bring-up, security, test (18, 19) -/

inductive Power | off | ramp | reset | active
deriving DecidableEq, Repr, Inhabited

/-- The start-up step that runs (19 R542); `halted` after a failure that stops bring-up, `running` once step 14 is
done. -/
inductive Boot
  | fuseSense | pll | hbm | links | selfTest | deviceId | bootBlock | lilen | tile | wait | evidence | running | halted
deriving DecidableEq, Repr, Inhabited

structure PowerState where
  power : Power := .reset          -- 2 | 18 R534 | power state (DESIGN CHOICE: right after a reset with the supply in range, log 2)
  porst : Bool := true             -- 1 | 18 R539 | PORST_N asserted
  hrst : Bool := false             -- 1 | 18 R539 | HRST_N asserted
  railsGood : Bool := true         -- 1 | 18 R533 | rails good (DESIGN CHOICE: right after a reset with the supply in range, log 2)
  holdInternal : Bool := false     -- 1 | 18 R533 | released before rails good: internal reset held
  voltage : W16 := 0               -- 16 | 16 R478 | 0x2030:05 Input Voltage, mV
  current : W32 := 0               -- 32 | 18 R531 | input current, mA (DESIGN CHOICE 0, log 2)
  power_mW : W32 := 0              -- 32 | 15 R473 | 0x2030:04 Input Power
  hottest : W16 := 0               -- 16 | 18 R535 | 0x2030:01 Hottest Sensor
  alertAt : W16 := 9500            -- 16 | 18 R535 | 0x2030:02 Alert Threshold
  alert : Bool := false            -- 1 | 18 R535 | ALERT_N asserted
  trip : Bool := false             -- 1 | 18 R536 | THERMTRIP_N latch
  overVolt : Bool := false         -- 1 | 17 R503 | supply outside 40-48 V
  overCurr : Bool := false         -- 1 | 17 R503 | current above 19 A
  stopped : List ClockSrc := []    -- - | 18 R526 | clocks that have stopped
  drooping : List (Fin 4) := []    -- - | 18 R525 | quadrants whose rail droops
deriving DecidableEq, Repr, Inhabited

structure BootState where
  step : Boot := .fuseSense        -- - | 19 R542 | start-up step
  stopAfterPll : Bool := false     -- 1 | 19 R542 | a failed UDS or key hash stops Bruvar after step 6
  lilenAddr : W64 := 0             -- 64 | 19 R545
  lilenLen : W32 := 0              -- 32 | 19 R545
  tileAddr : W64 := 0              -- 64 | 19 R545
  tileLen : W32 := 0               -- 32 | 19 R545
  evidenceAddr : W64 := 0          -- 64 | 19 R545
  nonce : BitVec 256 := 0          -- 256 | 19 R545
  lilenVersion : W32 := 0          -- 32 | 16 R484 | 0x2A00:02
  tileVersion : W16 := 0           -- 16 | 16 R484 | 0x2A00:03
  planMin : W16 := 0               -- 16 | 16 R484 | 0x2A00:04
  planMax : W16 := 0               -- 16 | 16 R484 | 0x2A00:05
  raiseLilen : W32 := 0            -- 32 | 19 R546
  raiseTile : W16 := 0             -- 16 | 19 R546
  pairs : List (Byte × W16) := []  -- - | 19 R547 | tested-pair table
  mLilen : BitVec 384 := 0         -- 384 | 19 R551 | digest signed of the Lilen image
  mTile : BitVec 384 := 0          -- 384 | 19 R551 | digest signed of the tile image
  identity : BitVec 384 := 0       -- 384 | 16 R484 | 0x2A03:01
  devicePub : BitVec 768 := 0      -- 768 | 19 R551 | DeviceID public key
  waitSince : Nat := 0             -- 64 | 19 R544 | cycle the 10 ms wait began
  pair : W16 := 0                  -- 16 | 16 R484 | 0x2A10:01 Reported Pair
  pairId : W16 := 0                -- 16 | 16 R484 | 0x2A10:02 Pair Id
  verState : Byte := 0             -- 8 | 16 R484 | 0x2A10:04
  everOperational : Bool := false  -- 1 | 19 R550 | Operational entered since reset
  raisedL : Bool := false          -- 1 | 19 R550 | that entry has programmed an entry of the Lilen floor
  raisedT : Bool := false          -- 1 | 19 R550 | that entry has programmed an entry of the tile image floor
  raisedAt : Nat := 0              -- 64 | 19 R550 | cycle in which the programming began
deriving DecidableEq, Repr, Inhabited

/-- The fuse block (19 R542, R550, R551, R554): it keeps its contents through every loss of power. A floor entry is
its value and whether its check bits are good. -/
structure FuseState where
  uds : BitVec 384 := 0            -- 384 | 19 R551 (DESIGN CHOICE 0, log 2)
  keyHash : BitVec 384 := 0        -- 384 | 19 R546 (DESIGN CHOICE 0, log 2)
  serial : W32 := 1                -- 32 | 16 R477 (DESIGN CHOICE 1: never 0, log 2)
  dbgLock : Bool := false          -- 1 | 19 R554 | DBG_LOCK as blown (DESIGN CHOICE 0, log 2)
  lilenFloors : List (W32 × Bool) := [] -- 63 | 19 R550 (DESIGN CHOICE none used, log 2)
  tileFloors : List (W16 × Bool) := []  -- 63 | 19 R550 (DESIGN CHOICE none used, log 2)
deriving DecidableEq, Repr, Inhabited

/-- What fuse sensing has read (19 R542 step 5). -/
structure SensedState where
  dbgLock : Bool := false          -- 8 | 16 R484 | 0x2A02:01 as in effect
  serial : W32 := 0                -- 32 | 16 R477 | 0x1018:04
  udsBad : Bool := false           -- 1 | 19 R542
  byPorst : Bool := true           -- MODEL | 19 R554 | the latest reset asserted PORST_N: DBG_LOCK is sensed afresh
deriving DecidableEq, Repr, Inhabited

structure TapState where
  ir : Byte := 0x02                -- 8 | 19 R554 | instruction register (reset value PRESUMED IDCODE, log 9)
  debugged : Bool := false         -- 1 | 19 R554 | DEBUGGED
  halted : Bool := false           -- 1 | 19 R554 | gaffer halted by DEBUG_ACCESS
  register : Byte := 0x02          -- 8 | 19 R554 | data register between TDI and TDO, by the code that acts (0xFF bypass)
  mbistRun : Bool := false         -- 1 | 19 R554 | a memory test has been run
  idcode : W32 := 0                -- 32 | 19 R554 | IDCODE as captured (DESIGN CHOICE 0, log 2)
deriving DecidableEq, Repr, Inhabited

/-- The whole state. -/
structure State where
  pending : List Instr := []       -- MODEL | - | commands that wait, first in, first out
  time : TimeState := {}
  tick : TickState := {}
  ports : Tbl Port := []           -- 8 | 18 R507 | T0 to T5, W0, W1
  jobs : List Job := []            -- - | 18 R510 | long reads of host memory
  req : ReqTables := {}
  fns : Tbl Fn := []               -- 64 | 04 R122 | function slots
  acct : Accounts := {}
  mortise : MortiseState := {}
  text : TextState := {}
  eng : EngineState := {}
  cal : CalState := {}
  stream : StreamState := {}
  tune : TuneState := {}
  ckpt : CkptState := {}
  err : ErrState := {}
  mgmt : MgmtState := {}
  view : ViewState := {}
  pwr : PowerState := {}
  boot : BootState := {}
  fuse : FuseState := {}
  sensed : SensedState := {}
  tap : TapState := {}
deriving DecidableEq, Repr, Inhabited

/-- The machine right after reset (18 R539): power good, PORST_N asserted, every register at its default. -/
def State.reset : State := {}

/-- The state after a stopped clock returns (18 R526: not guaranteed): a free value. Log entry 10. -/
opaque lostState : Nat → State

end Sys2Proof.Machine
end

