-- ==== Sys2Proof/Machine/Table.lean ====
section
/-! DEFINITION. The operations on sparse tables: one canonical form (keys strictly rising, no value equal to the
default), so that equal tables are equal data. -/
namespace Sys2Proof.Tbl
variable {α : Type}

/-- The value listed at a key. -/
def find : Tbl α → Nat → Option α
  | [], _ => none
  | (k', v) :: t, k => if k = k' then some v else find t k

/-- The value at a key: what is listed, else the default. -/
def get (d : α) (t : Tbl α) (k : Nat) : α := (find t k).getD d

/-- The table with a key listed. -/
def ins : Tbl α → Nat → α → Tbl α
  | [], k, v => [(k, v)]
  | (k', v') :: t, k, v =>
    if k < k' then (k, v) :: (k', v') :: t
    else if k = k' then (k, v) :: t
    else (k', v') :: ins t k v

/-- The table with a key not listed. -/
def del : Tbl α → Nat → Tbl α
  | [], _ => []
  | (k', v') :: t, k => if k = k' then del t k else (k', v') :: del t k

/-- The table with the value of one key set; setting the default removes the entry. -/
def put [DecidableEq α] (d : α) (t : Tbl α) (k : Nat) (v : α) : Tbl α :=
  if v = d then del t k else ins t k v

/-- Keys strictly rising. -/
def sorted : Tbl α → Bool
  | [] => true
  | [_] => true
  | (k, _) :: (k', v') :: t => decide (k < k') && sorted ((k', v') :: t)

/-- The canonical form. -/
def wf [DecidableEq α] (d : α) (t : Tbl α) : Bool := sorted t && t.all (fun e => decide (e.2 ≠ d))

/-- Every listed value changed in place; values that become the default are dropped. -/
def mapVals [DecidableEq α] (d : α) (f : Nat → α → α) (t : Tbl α) : Tbl α :=
  (t.map (fun e => (e.1, f e.1 e.2))).filter (fun e => decide (e.2 ≠ d))

end Sys2Proof.Tbl
end

