-- ==== Sys2Proof/Machine/Bits.lean ====
section
/-! DEFINITION. Bit fields, little-endian byte strings (00 R2, R3) and the cyclic redundancy checks the spec uses. -/
namespace Sys2Proof.Machine
open Sys2Proof

/-- The value of little-endian bytes. -/
def leNat : List Byte → Nat
  | [] => 0
  | b :: t => b.toNat + 256 * leNat t

/-- The low `n` bytes of a value, least significant first. -/
def leBytes : Nat → Nat → List Byte
  | 0, _ => []
  | n + 1, v => BitVec.ofNat 8 v :: leBytes n (v / 256)

def zeros (n : Nat) : List Byte := List.replicate n 0
def leW {w : Nat} (n : Nat) (v : BitVec w) : List Byte := leBytes n v.toNat

/-- `n` bytes from offset `o` of an image, as a little-endian value; bytes beyond the end read 0. -/
def leAt (img : List Byte) (o n : Nat) : Nat := leNat ((img.drop o).take n)

/-- Byte `o` of an image. -/
def byteAt (img : List Byte) (o : Nat) : Byte := img.getD o 0

/-- `w` bits of `v` from bit `lo` up. -/
def bitsOf (v lo w : Nat) : Nat := (v >>> lo) % 2 ^ w

/-- A field of a descriptor's payload: `w` bits from bit `lo` of the little-endian value that starts at `byte`
(03 R56, R72 to R83). -/
def pfield (d : Desc) (byte lo w : Nat) : Nat := bitsOf d.payload.toNat (8 * (byte - 12) + lo) w

/-- The slot and the generation that a handle names (03 R64). -/
def handleSlot (h : W32) : Slot := h.extractLsb' 15 17
def handleGen (h : W32) : BitVec 15 := h.extractLsb' 0 15
def mkHandle (slot : Slot) (gen : BitVec 15) : W32 := slot ++ gen

/-- One byte of CRC-32C, bits least significant first (06 R174; the bit order is the Castagnoli code's own,
PRESUMED, log 11). -/
def crc32cByte : Nat → Nat → Nat
  | 0, c => c
  | n + 1, c => crc32cByte n (if c % 2 = 1 then (c / 2) ^^^ 0x82F63B78 else c / 2)

/-- CRC-32C over bytes: initial value and final XOR 0xFFFF_FFFF (06 R174). -/
def crc32c (bs : List Byte) : W32 :=
  BitVec.ofNat 32 ((bs.foldl (fun c b => crc32cByte 8 (c ^^^ b.toNat)) 0xFFFFFFFF) ^^^ 0xFFFFFFFF)

def crc64Byte : Nat → Nat → Nat
  | 0, c => c
  | n + 1, c =>
    crc64Byte n (if c ≥ 2 ^ 63 then ((c * 2) % 2 ^ 64) ^^^ 0x42F0E1EBA9EA3693 else c * 2)

/-- CRC-64/ECMA-182: initial value 0, no reflection, no final XOR (11 R357). -/
def crc64 (bs : List Byte) : W64 :=
  BitVec.ofNat 64 (bs.foldl (fun c b => crc64Byte 8 (c ^^^ (b.toNat <<< 56))) 0)

/-- One step of CRC-16, polynomial 0x1021, most significant bit first (07 R243). -/
def crc16Bit (c : Nat) (b : Bool) : Nat :=
  let top := decide (c ≥ 2 ^ 15) != b
  if top then ((c * 2) % 2 ^ 16) ^^^ 0x1021 else (c * 2) % 2 ^ 16

/-- The bits of a value of a width, most significant first. -/
def msbBits (w v : Nat) : List Bool := (List.range w).reverse.map (fun i => v.testBit i)

def crc16 (bits : List Bool) : W16 := BitVec.ofNat 16 (bits.foldl crc16Bit 0xFFFF)

/-- The CRC of a key frame, over its fields in the order of 07 R243 (the order of the bits is DEDUCED, log 12). -/
def KeyFrame.crc (f : KeyFrame) : W16 :=
  crc16 (msbBits 2 f.origin.toNat ++ msbBits 10 f.tag.toNat ++ [f.cursor] ++ msbBits 20 f.start.toNat
    ++ f.key.flatMap (fun k => msbBits 32 k.toNat) ++ msbBits 32 f.tagBase.toNat ++ msbBits 32 f.tagLimit.toNat)

/-- The CRC of a result frame, over its fields in the order of 07 R243. -/
def ResultFrame.crc (f : ResultFrame) : W16 :=
  crc16 (msbBits 2 f.origin.toNat ++ msbBits 10 f.tag.toNat ++ [f.hit] ++ msbBits 12 f.priority.toNat
    ++ msbBits 20 f.index.toNat ++ msbBits 2 f.matchCount.toNat ++ msbBits 2 f.tieCount.toNat ++ [f.suspect, f.fault]
    ++ msbBits 64 f.action.toNat)

/-- Sorted insertion without repeats. -/
def insertAsc (x : Nat) : List Nat → List Nat
  | [] => [x]
  | y :: t => if x < y then x :: y :: t else if x = y then y :: t else y :: insertAsc x t

/-- Ceiling of a quotient. -/
def ceilDiv (a b : Nat) : Nat := if b = 0 then 0 else (a + b - 1) / b

/-- Pads with the zeros of reserved bytes: to `n` bytes, and to a multiple of 64. -/
def padTo (n : Nat) (b : List Byte) : List Byte := b ++ zeros (n - b.length)
def pad64 (b : List Byte) : List Byte := padTo (64 * ceilDiv b.length 64) b

/-- The value at a key of a table of 64-bit counters, and one added to it (wrapping: 04 R160, 09 R319). -/
def cnt (t : Tbl W64) (k : Nat) : W64 := Tbl.get 0 t k
def cntAdd (t : Tbl W64) (k n : Nat) : Tbl W64 := Tbl.put 0 t k (cnt t k + BitVec.ofNat 64 n)

/-- 32-bit counters saturate only where the spec says so; the others wrap at their width. -/
def satInc32 (c : W32) : W32 := if c = 0xFFFFFFFF then c else c + 1
def satInc16 (c : W32) : W32 := if c.toNat ≥ 0xFFFF then c else c + 1

end Sys2Proof.Machine
end

