-- ==== Sys2Proof/Machine/Ops.lean ====
section
/-! DEFINITION. The shared operations: ticks and deadlines (02), error records (17), the port messages (18 R510 to
R515), the rings (03 R109 to R119, R555) and the records of a request (03 R71, R115, R116). -/
namespace Sys2Proof.Machine
open Sys2Proof

/-! ## Access -/

/-- The core timing domain runs: power is ACTIVE, the PLLs have locked (19 R542 step 6) and no clock it needs has
stopped (18 R526). -/
def coreRuns (s : State) : Bool :=
  s.pwr.power == .active && s.boot.step != .fuseSense && s.boot.step != .pll
    && !s.pwr.stopped.contains .refclk && !s.pwr.stopped.contains .arith

/-- The gaffer runs: its clock has not stopped and DEBUG_ACCESS has not halted it (18 R526; 19 R554). -/
def gafferRuns (s : State) : Bool :=
  coreRuns s && !s.pwr.stopped.contains .gaffer && !s.tap.halted

/-- The node is in Pre-operational, Operational or Stopped. -/
def nodeUp (s : State) : Bool := coreRuns s && s.mgmt.nmt != .initialisation

/-- The node is Operational. -/
def operational (s : State) : Bool := coreRuns s && s.mgmt.nmt == .operational

def portOf (s : State) (p : Fin 8) : Port := Tbl.get {} s.ports p.val
def setPort (s : State) (p : Fin 8) (v : Port) : State := { s with ports := Tbl.put {} s.ports p.val v }
def modPort (s : State) (p : Fin 8) (f : Port → Port) : State := setPort s p (f (portOf s p))
/-- The port's link is UP and its module's clock runs (18 R526). -/
def portUp (s : State) (p : Fin 8) : Bool := (portOf s p).link == .up && !s.pwr.stopped.contains (.module p)

def reqOf (s : State) (slot : Slot) : Request := Tbl.get {} s.req.table slot.toNat
def setReq (s : State) (slot : Slot) (r : Request) : State :=
  { s with req := { s.req with table := Tbl.put {} s.req.table slot.toNat r } }
def modReq (s : State) (slot : Slot) (f : Request → Request) : State := setReq s slot (f (reqOf s slot))
def genOf (s : State) (slot : Slot) : BitVec 15 := Tbl.get 0 s.req.gens slot.toNat
def handleOf (s : State) (slot : Slot) : W32 := mkHandle slot (genOf s slot)

def fnOf (s : State) (f : Fin 64) : Fn := Tbl.get {} s.fns f.val
def setFn (s : State) (f : Fin 64) (v : Fn) : State := { s with fns := Tbl.put {} s.fns f.val v }
def modFn (s : State) (f : Fin 64) (g : Fn → Fn) : State := setFn s f (g (fnOf s f))
/-- One more in a counter of Statistics (04 R160). -/
def fnCount (s : State) (f : Fin 64) (k n : Nat) : State := modFn s f fun v => { v with stats := cntAdd v.stats k n }

/-- The reset value of an engine object: pattern engines have a Latency Share of 16 (08 R277). -/
def engineDefault (e : Nat) : Engine := { share := if e ≥ 48 then 16 else 0 }
def engOf (s : State) (e : Nat) : Engine := Tbl.get (engineDefault e) s.eng.engines e
def setEng (s : State) (e : Nat) (v : Engine) : State :=
  { s with eng := { s.eng with engines := Tbl.put (engineDefault e) s.eng.engines e v } }
def modEng (s : State) (e : Nat) (f : Engine → Engine) : State := setEng s e (f (engOf s e))

def planOf (s : State) (p : Byte) : Plan := Tbl.get {} s.eng.plans p.toNat
def setPlan (s : State) (p : Byte) (v : Plan) : State :=
  { s with eng := { s.eng with plans := Tbl.put {} s.eng.plans p.toNat v } }
def tenantOf (s : State) (t : BitVec 14) : Tenant := Tbl.get {} s.acct.tenants t.toNat
def setTenant (s : State) (t : BitVec 14) (v : Tenant) : State :=
  { s with acct := { s.acct with tenants := Tbl.put {} s.acct.tenants t.toNat v } }
def policyOf (s : State) (p : BitVec 12) : Policy := Tbl.get {} s.acct.policies p.toNat
def setPolicy (s : State) (p : BitVec 12) (v : Policy) : State :=
  { s with acct := { s.acct with policies := Tbl.put {} s.acct.policies p.toNat v } }
def vocabOf (s : State) (v : Fin 8) : Vocab := Tbl.get {} s.text.vocabs v.val
def setVocab (s : State) (v : Fin 8) (x : Vocab) : State :=
  { s with text := { s.text with vocabs := Tbl.put {} s.text.vocabs v.val x } }
def grammarOf (s : State) (g : Fin 64) : Grammar := Tbl.get {} s.text.grammars g.val
def setGrammar (s : State) (g : Fin 64) (x : Grammar) : State :=
  { s with text := { s.text with grammars := Tbl.put {} s.text.grammars g.val x } }
def dsetOf (s : State) (d : BitVec 10) : DeltaSet := Tbl.get {} s.tune.sets d.toNat
def setDset (s : State) (d : BitVec 10) (x : DeltaSet) : State :=
  { s with tune := { s.tune with sets := Tbl.put {} s.tune.sets d.toNat x } }
def screenOf (s : State) (b : BitVec 10) : Screen := Tbl.get {} s.tune.screens b.toNat
def setScreen (s : State) (b : BitVec 10) (x : Screen) : State :=
  { s with tune := { s.tune with screens := Tbl.put {} s.tune.screens b.toNat x } }

/-- A free bit, with the counter moved past it (log 3). -/
def takeBit (s : State) : Bool × State :=
  (Config.freeBit s.time.freeIdx, { s with time := { s.time with freeIdx := s.time.freeIdx + 1 } })

/-- A value the spec does not state, with the counter moved past it (log 6). -/
def takeWord (s : State) (place : Nat) : W64 × State :=
  (Config.freeWord place s.time.freeIdx, { s with time := { s.time with freeIdx := s.time.freeIdx + 1 } })

/-! ## Ticks (02 R35 to R41, R556) -/

/-- The tick that the present cycle's stamp belongs to. -/
def tickOf (s : State) : TickRef :=
  let c := s.tick.cur
  if c.idx = 0 then {}
  else if (s.tick.afterEntry && s.mgmt.nmt == .operational) || s.time.now ≥ s.tick.at_ + s.tick.intakeClose.toNat then
    { idx := c.idx + 1, num := c.num + 1 }
  else c

/-- The present cycle is at or after the effective deadline of a tick, `off` ac after its T_n (02 R40, R41, R556). -/
def isLate (s : State) (t : TickRef) (off : Nat) : Bool :=
  t.idx != 0 && (t.idx < s.tick.cur.idx || (t.idx = s.tick.cur.idx && s.time.now ≥ s.tick.at_ + off))

def stamp64 (n : Nat) : W64 := BitVec.ofNat 64 n

/-- A report limited to one per tick: true the first time, and marked (03 R55, R62; 04 R145; 11 R343). -/
def onceFree (s : State) (kind unit tick : Nat) : Bool := !s.err.once.contains (kind, unit, tick)
def markOnce (s : State) (kind unit tick : Nat) : State :=
  { s with err := { s.err with once := (kind, unit, tick) :: s.err.once } }

/-! ## Places (01 R12 to R14) -/

def hostPlace (port : Nat) : Place := ⟨6, BitVec.ofNat 21 (port <<< 16)⟩
def stackPlace (s : State) (unit index : Nat) : Place :=
  ⟨5, BitVec.ofNat 21 ((s.mortise.position.toNat <<< 19) + (unit <<< 14) + index)⟩
def enginePlace (e sub : Nat) : Place := ⟨3, BitVec.ofNat 21 ((e <<< 15) + (sub <<< 12))⟩
def bentPlace (b sub : Nat) : Place := ⟨4, BitVec.ofNat 21 ((b <<< 18) + (sub <<< 14))⟩

/-- Engine id and cell index of a vector cell (01 R7). -/
def cellIds : VCell → Nat × Nat
  | .dense e c => (e.val, c.val)
  | .stream e c => (32 + e.val, c.val)

/-- Unit code and unit index (01 R14). -/
def unitIds : StackUnit → Nat × Nat
  | .gaffer c => (0, c.val) | .marver g => (1, g.val) | .mortise b => (2, b.val) | .sram r => (3, r.val)
  | .hbm k => (4, k.val) | .ucie m => (5, m.val) | .canFd => (6, 0) | .mailbox => (7, 0) | .fuses => (8, 0)
  | .identity => (9, 0) | .power r => (10, r.toNat) | .joist => (11, 0) | .sensor n => (12, n.val)
  | .globalTime => (13, 0) | .cascade => (14, 0) | .tick => (15, 0)

/-- Lane and vector-cell level source ids (01 R14); a byte lane has cell index 0 (R13). -/
def lanePlace (e cell lane : Nat) : Place := ⟨1, BitVec.ofNat 21 ((e <<< 15) + (cell <<< 7) + (lane <<< 1))⟩
def cellPlace (e cell : Nat) : Place := ⟨2, BitVec.ofNat 21 ((e <<< 15) + (cell <<< 7))⟩

/-- The level code and source id of a place (01 R12 to R14). -/
def placeOf (s : State) : ErrAt → Place
  | .none => {}
  | .lane c l => lanePlace (cellIds c).1 (cellIds c).2 l.val
  | .byteLane n l => lanePlace (48 + n.val) 0 l.val
  | .cell c => cellPlace (cellIds c).1 (cellIds c).2
  | .engine e k => enginePlace e.val k.val
  | .bent b k => bentPlace b.val k.val
  | .stack u => stackPlace s (unitIds u).1 (unitIds u).2
  | .host p => hostPlace p.val

/-- The bent of an engine (01 R8). -/
def bentOf (e : Nat) : Nat := if e < 32 then e / 4 else if e < 48 then (e - 32) / 2 else e - 48
/-- The engines of a bent. -/
def bentEngines (b : Nat) : List Nat := [4 * b, 4 * b + 1, 4 * b + 2, 4 * b + 3, 32 + 2 * b, 33 + 2 * b, 48 + b]

/-! ## Port messages (18 R510 to R515) -/

/-- Bytes of a WRITE's data. -/
def Payload.size : Payload → Nat
  | .record _ _ => 64
  | .index _ => 4
  | .calEntry _ => 32
  | .bytes b => b.length
  | .coldPage _ _ _ => 4096

/-- Later WRITEs of a destination wait while a failed one waits for its retry, and until the retry is acknowledged
(18 R514). -/
def destBlocked (p : Port) (d : Dest) : Bool :=
  p.failedWrites.any (fun m => m.dest == d) || p.unacked.any (fun m => m.retry && m.dest == d)

/-- Distance of a requester from the pointer of a rotating arbiter of `n` requesters: 0 is next (08 R285). -/
def rotDist (n ptr order : Nat) : Nat := (order + n - (ptr + 1) % n) % n

/-- The requester of the weight port arbiter that a READ belongs to (08 R286; log 79): backbone staging, plan loads,
vocabulary and grammar loads, bulk update lists. -/
def readClass (m : ReadMsg) : Nat :=
  match m.purpose with
  | .job (.plan _) _ => 1
  | .job (.vocab _) _ => 2
  | .job (.grammar _) _ => 2
  | .job .bulk _ => 3
  | _ => 0

/-- The READ of the requester that is next in rotation, its oldest. -/
def nextRead (ptr : Nat) : List ReadMsg → Option ReadMsg
  | [] => none
  | m :: t => match nextRead ptr t with
    | none => some m
    | some b => if rotDist 5 ptr (readClass m) ≤ rotDist 5 ptr (readClass b) then some m else some b

/-- The first WRITE that may go: no earlier WRITE of its destination waits, but for a retry (18 R514). -/
def firstWrite (p : Port) : List WriteMsg → List Dest → Option WriteMsg
  | [], _ => none
  | m :: t, kept =>
    if m.retry || !(destBlocked p m.dest || kept.contains m.dest) then some m else firstWrite p t (m.dest :: kept)

/-- The WRITE and the READ that ask for the next slot: fewer than 16,384 WRITEs are unacknowledged (18 R513), fewer
than 1,024 READs are out (18 R510). -/
def askWrite (p : Port) : Option WriteMsg := if p.unacked.length < 16384 then firstWrite p p.waiting [] else none
def askRead (weight : Bool) (p : Port) : Option ReadMsg :=
  if p.reads.length < 1024 then (if weight then nextRead p.ptr p.readsWaiting else p.readsWaiting.head?) else none

/-- The WRITE goes before the READ: latency-class records first, then issue order; in rotation on a weight port
(08 R286). -/
def writeFirst (weight : Bool) (p : Port) (w : WriteMsg) (r : ReadMsg) : Bool :=
  if weight then decide (rotDist 5 p.ptr 4 < rotDist 5 p.ptr (readClass r)) else w.lat || decide (w.order ≤ r.order)

/-- Slots of 64 bytes that a message takes, in half cycles: two slots per ac, one at half width (08 R286; 18 R509). -/
def slotUnits (p : Port) (bytes : Nat) : Nat := max 1 ((bytes + 63) / 64) * (if p.width = 32 then 2 else 1)

def sendW (now : Nat) (p : Port) (m : WriteMsg) : Port :=
  { p with
    waiting := p.waiting.erase m, unacked := p.unacked ++ [{ m with num := p.writeNum, sentAt := now }]
    writeNum := p.writeNum + 1, bytesOut := p.bytesOut + BitVec.ofNat 64 m.data.size
    nextSlot := max p.nextSlot (2 * now) + slotUnits p m.data.size, ptr := 4 }

def sendR (now : Nat) (p : Port) (m : ReadMsg) : Port :=
  { p with
    readsWaiting := p.readsWaiting.erase m, reads := p.reads ++ [{ m with tag := p.readTag, sentAt := now }]
    readTag := p.readTag + 1, nextSlot := max p.nextSlot (2 * now) + slotUnits p 0, ptr := readClass m }

/-- One message enters the outbound crossing, if the link is UP and a slot of the cycle is free. -/
def pumpOne (weight : Bool) (now : Nat) (p : Port) : Port :=
  if p.link ≠ .up ∨ 2 * (now + 1) ≤ p.nextSlot then p
  else match askWrite p, askRead weight p with
    | none, none => p
    | some w, none => sendW now p w
    | none, some r => sendR now p r
    | some w, some r => if writeFirst weight p w r then sendW now p w else sendR now p r

/-- What may go in this cycle goes: two slots (08 R286). -/
def pumpPort (weight : Bool) (now : Nat) (p : Port) : Port := pumpOne weight now (pumpOne weight now p)

/-- An update of a port, after which it sends what may go. -/
def pumpAfter (s : State) (p : Fin 8) (f : Port → Port) : State :=
  modPort s p fun v => pumpPort (decide (6 ≤ p.val)) s.time.now (f v)

/-- A port sends what may go. -/
def pumpAt (s : State) (p : Fin 8) : State := pumpAfter s p id

/-- Order of the outbound port arbiter: records of latency-class requests by cycle of issue, then request slot, then
ring order, and everything else in issue order (08 R286). -/
def writeBefore (a b : WriteMsg) : Bool :=
  let slot (m : WriteMsg) : Nat := match m.dest with
    | .ring s => s.toNat
    | _ => 0
  if a.lat then
    !b.lat || decide (a.issuedAt < b.issuedAt) || (a.issuedAt == b.issuedAt && decide (slot a < slot b))
  else false

def insertWrite (m : WriteMsg) : List WriteMsg → List WriteMsg
  | [] => [m]
  | x :: t => if writeBefore m x then m :: x :: t else x :: insertWrite m t

/-- Adds a WRITE to a port and sends what may go. -/
def sendWrite (s : State) (p : Fin 8) (dest : Dest) (addr : W64) (data : Payload) (lat : Bool := false) : State :=
  pumpAfter s p fun v =>
    { v with
      nextOrder := v.nextOrder + 1
      waiting := insertWrite { dest, addr, data, lat, issuedAt := s.time.now, order := v.nextOrder } v.waiting }

/-- The WRITEs of a run of bytes: none crosses a 4 KiB boundary (18 R510). -/
def writeChunks : Nat → Nat → List Byte → List (Nat × List Byte)
  | 0, _, _ => []
  | fuel + 1, addr, bs =>
    match bs with
    | [] => []
    | _ :: _ =>
      let n := 4096 - addr % 4096
      (addr, bs.take n) :: writeChunks fuel (addr + n) (bs.drop n)

def sendBytes (s : State) (p : Fin 8) (dest : Dest) (addr : W64) (bs : List Byte) : State :=
  (writeChunks (bs.length / 4096 + 2) addr.toNat bs).foldl
    (fun s c => sendWrite s p dest (BitVec.ofNat 64 c.1) (.bytes c.2)) s

/-- Adds a READ to a port and sends what may go. -/
def sendRead (s : State) (p : Fin 8) (addr : W64) (len : Nat) (purpose : Purpose) : State :=
  pumpAfter s p fun v =>
    { v with nextOrder := v.nextOrder + 1
             readsWaiting := v.readsWaiting ++ [{ addr, len, purpose, order := v.nextOrder }] }

/-- The READs of a range: none crosses a 4 KiB boundary (18 R510). `fuel` bounds their number. -/
def chunks : Nat → Nat → Nat → Nat → List (Nat × Nat × Nat)
  | 0, _, _, _ => []
  | fuel + 1, off, addr, len =>
    if len = 0 then []
    else
      let n := min len (4096 - addr % 4096)
      (off, addr, n) :: chunks fuel (off + n) (addr + n) (len - n)

/-- Starts a long read of host memory: a job and its READs. -/
def startJob (s : State) (key : JobKey) (port : Fin 8) (addr : W64) (len : Nat) : State :=
  let s := { s with jobs := s.jobs ++ [{ key, port, len, left := len }] }
  let cs := chunks (len / 4096 + 2) 0 addr.toNat len
  pumpAfter s port fun v =>
    { v with nextOrder := v.nextOrder + 1
             readsWaiting := v.readsWaiting ++ cs.map fun c =>
               { addr := BitVec.ofNat 64 c.2.1, len := c.2.2, purpose := .job key c.1, order := v.nextOrder } }

def jobOf (s : State) (k : JobKey) : Option Job := s.jobs.find? (fun j => j.key == k)
/-- Ends a job: its outstanding and waiting READs are no longer awaited by anything. -/
def dropJob (s : State) (k : JobKey) : State := { s with jobs := s.jobs.filter (fun j => j.key != k) }
/-- A job has all its bytes, or has failed. -/
def Job.over (j : Job) : Bool := j.left == 0 || j.failed.isSome
/-- The bytes of a job, in order. -/
def Job.bytes (j : Job) : List Byte :=
  (j.got.foldl (fun t e => Tbl.ins t e.1 e.2) ([] : Tbl (List Byte))).flatMap (fun e => e.2)

/-- Whether any WRITE of a destination is still to be acknowledged, on any port. -/
def writesLeft (s : State) (d : Dest) : Bool :=
  s.ports.any fun e => e.2.unacked.any (fun m => m.dest == d) || e.2.waiting.any (fun m => m.dest == d)
    || e.2.failedWrites.any (fun m => m.dest == d)

/-- T0 to T5, W0, W1 (18 R507). -/
def allPorts : List (Fin 8) := [0, 1, 2, 3, 4, 5, 6, 7]

/-- The WRITEs of a destination that have not been sent are withdrawn. -/
def dropWrites (s : State) (d : Dest) : State :=
  allPorts.foldl (fun s p => modPort s p fun v =>
    { v with waiting := v.waiting.filter (fun m => m.dest != d),
             failedWrites := v.failedWrites.filter (fun m => m.dest != d) }) s

/-- The weight port that reads run on: W0, or W1 when W0 is not UP (19 R544). -/
def weightPort (s : State) : Fin 8 := if portUp s 6 then 6 else 7

/-- The lowest-numbered traffic port whose link is UP (03 R54); T0 when none is (log 13). -/
def errPort (s : State) : Fin 8 :=
  if portUp s 0 then 0 else if portUp s 1 then 1 else if portUp s 2 then 2 else if portUp s 3 then 3
  else if portUp s 4 then 4 else if portUp s 5 then 5 else 0

/-! ## The host error ring and the calibration log ring (03 R119, R555) -/

/-- The ring counts as absent (03 R555). -/
def RingCfg.absent (r : RingCfg) : Bool :=
  r.log2 == 0 || r.base.toNat % 2 ^ r.log2.toNat != 0 || r.doorbell.toNat % 8 != 0 || r.consumerAddr.toNat % 8 != 0

def RingCfg.capacity (r : RingCfg) : Nat := 2 ^ r.log2.toNat / 64
/-- Free space modulo 2^32 (03 R113); 0 where a consumer value makes it negative (log 80). -/
def RingCfg.free (r : RingCfg) : Nat := r.capacity - (r.producer - r.consumer).toNat
/-- The host address of record `k` (03 R109). -/
def RingCfg.slotAddr (r : RingCfg) : W64 := r.base + BitVec.ofNat 64 (64 * (r.producer.toNat % r.capacity))

/-- Writes a record to the host error ring, or counts it dropped (03 R54, R119, R555). -/
def errRingWrite (s : State) (rc : Rec) : State :=
  let r := s.err.ring
  if r.absent || r.free == 0 then { s with err := { s.err with dropped := s.err.dropped + 1 } }
  else
    let p := errPort s
    let s := sendWrite s p .errRing r.slotAddr (.record rc (r.producer.truncate 16))
    let s := { s with err := { s.err with ring := { s.err.ring with producer := r.producer + 1 } } }
    sendWrite s p .errRing r.doorbell (.index (r.producer + 1))

/-! ## VIOLATION records (03 R107, R120; 16 R483) -/

def ViolCode.num : ViolCode → Nat
  | .tickEarly => 0x0001 | .tickSkip => 0x0002 | .tickRegress => 0x0003 | .tickNumUnstable => 0x0004
  | .unknownType => 0x0010 | .reservedNonzero => 0x0011 | .badField => 0x0012 | .wrongPort => 0x0013
  | .portSeq => 0x0014 | .tickField => 0x0015 | .notOperational => 0x0016
  | .staleHandle => 0x0020 | .slotBusy => 0x0021 | .wrongState => 0x0022 | .tokensAfterClose => 0x0023
  | .acceptBeyond => 0x0024 | .specUnresolved => 0x0025 | .specDepth => 0x0026 | .tokensWhilePaused => 0x0027
  | .afterClose => 0x0028 | .vocabAbsent => 0x0029 | .resumeNoTarget => 0x002A
  | .ringBad => 0x0030 | .consumerAhead => 0x0031 | .holdRing => 0x0032 | .holdOverflow => 0x0033
  | .publishPast => 0x0040 | .feedbackRefused => 0x0041 | .publishRefused => 0x0043

/-- Reports a violation: counted, entered in the log and written to the host error ring; nothing in Initialisation
(03 R55). -/
def violateAt (s : State) (tick : TickRef) (handle : W32) (v : ViolRec) : State :=
  if s.mgmt.nmt = .initialisation then s
  else
    let rc : Rec := { tick, handle, body := .violation v }
    let s := { s with err := { s.err with
      byClass := cntAdd s.err.byClass 3 1
      violations := s.err.violations + 1
      log := ((rc, s.err.ring.producer.truncate 16, s.time.now) :: s.err.log).take 256 } }
    errRingWrite s rc

/-- A violation about the descriptor being judged: its port, type, sequence number and stamp. FEEDBACK and PUBLISH
concern no request: the record's handle is 0 (03 R68, R107). -/
def violate (s : State) (d : Desc) (type : Byte) (stamp : Nat) (tick : TickRef) (code : ViolCode)
    (a : Nat := 0) (b : Nat := 0) : State :=
  violateAt s tick (if type = 9 ∨ type = 10 then 0 else d.handle)
    { code, port := BitVec.ofNat 5 d.port.val, descType := type, descSeq := d.portSeq, stamp := stamp,
      detailA := BitVec.ofNat 64 a, detailB := BitVec.ofNat 64 b }

/-! ## Error records (17 R495 to R505) -/

def errNum : ErrCode → Nat
  | .eccCorrected => 0x0101 | .eccUncorrected => 0x0102 | .parity => 0x0103 | .hbmCorrected => 0x0104
  | .hbmUncorrected => 0x0105 | .vocabSram => 0x0106 | .maskCache => 0x0107 | .requestEntry => 0x0108
  | .calibrationSlot => 0x0109 | .linkRetry => 0x010A | .linkDown => 0x010B
  | .scaleSkew => 0x0201 | .nonfinite => 0x0202 | .culletMissing => 0x0203 | .culletStray => 0x0204
  | .intEscape => 0x0205 | .tensorHeader => 0x0206 | .rescaleRange => 0x0207 | .wideFull => 0x0208
  | .scaleCeiling => 0x0209
  | .mortiseEccCorrected => 0x0301 | .mortiseEcc => 0x0302 | .mortiseSuspect => 0x0303 | .cascadeTimeout => 0x0304
  | .cascadeCrc => 0x0305 | .cascadeRing => 0x0306 | .actionBad => 0x0307
  | .vocabImageBad => 0x0401 | .grammarImageBad => 0x0402 | .planImageBad => 0x0403 | .deltaImageBad => 0x0404
  | .backboneImageBad => 0x0405 | .deltaDensity => 0x0406 | .maskSlots => 0x0407
  | .tuneFault => 0x0501 | .stashFull => 0x0502 | .staleApplied => 0x0503 | .staleDiscarded => 0x0504
  | .publishDeferred => 0x0505 | .stateFull => 0x0506 | .checkpointFailed => 0x0507 | .foreignShard => 0x0508
  | .restoreVersions => 0x0509 | .startRefused => 0x050A
  | .coldFull => 0x0601 | .coldWrite => 0x0602 | .coldCorrupt => 0x0603 | .hostWrite => 0x0604 | .tickAbsent => 0x0605
  | .tickConfig => 0x0701 | .latencyShare => 0x0702 | .hbmRegions => 0x0703 | .versions => 0x0704
  | .tickOverrun => 0x0705 | .delayTarget => 0x0706 | .thermalAlert => 0x0707 | .supplyRange => 0x0708

/-- The class of a code (17 R499); CHECKPOINT_FAILED is CONFIG unless its rule says PARTNER. -/
def errCls : ErrCode → BitVec 3
  | .eccCorrected | .hbmCorrected | .vocabSram | .maskCache | .linkRetry | .mortiseEccCorrected => 0
  | .eccUncorrected | .parity | .hbmUncorrected | .requestEntry | .calibrationSlot | .linkDown | .scaleSkew
  | .nonfinite | .culletMissing | .mortiseEcc | .mortiseSuspect | .cascadeTimeout | .cascadeCrc | .tuneFault => 1
  | .coldFull | .coldWrite | .coldCorrupt | .hostWrite | .tickAbsent => 2
  | .tickOverrun | .delayTarget | .thermalAlert | .supplyRange => 4
  | _ => 3

/-- The row says that an EMCY is sent (17 R499). TICK_OVERRUN sends one under 02 R48 only. -/
def errEmcy : ErrCode → Bool
  | .eccUncorrected | .parity | .hbmUncorrected | .requestEntry | .calibrationSlot | .linkDown | .mortiseEcc
  | .mortiseSuspect | .cascadeRing | .foreignShard | .tickConfig | .latencyShare | .hbmRegions | .versions
  | .thermalAlert | .supplyRange => true
  | _ => false

def Raised.cls (e : Raised) : BitVec 3 := if e.partner then 2 else errCls e.code

/-- The EMCY code (17 R501). -/
def emcyCode (code : ErrCode) (cls : BitVec 3) : W16 :=
  match code with
  | .linkDown => 0x8100
  | .thermalAlert => 0x4200
  | .supplyRange => 0x3100
  | _ => 0xFF00 + 0x10 * (cls.zeroExtend 16 + 1)

/-- The 40-bit detail (03 R108). -/
def detailOf (place : Place) (code : ErrCode) : BitVec 40 :=
  place.level ++ place.source ++ BitVec.ofNat 16 (errNum code)

/-- The error register (17 R503). -/
def errorRegister (s : State) : Byte :=
  let b1 : Byte := if s.pwr.overCurr then 0x02 else 0
  let b2 : Byte := if s.pwr.overVolt then 0x04 else 0
  let b3 : Byte := if s.pwr.alert then 0x08 else 0
  let b4 : Byte := if s.mgmt.nmt == .operational
      && (allPorts.any (fun p => (portOf s p).descs != 0 && (portOf s p).link != .up) || s.mortise.ring == .failed) then 0x10 else 0
  let b7 : Byte := if s.err.captured then 0x80 else 0
  let v := b1 ||| b2 ||| b3 ||| b4 ||| b7
  if v = 0 then 0 else v ||| 1

/-- Calls for an EMCY: queued in Pre-operational and Operational while the queue has room, else counted as not sent
(15 R469). -/
def emcySend (s : State) (code : W16) (reg : Byte) (detail : BitVec 40) : State :=
  match s.mgmt.nmt with
  | .initialisation => s
  | .stopped => { s with mgmt := { s.mgmt with emcyLost := s.mgmt.emcyLost + 1 } }
  | _ =>
    if s.mgmt.emcyQueue.length < 16 then
      { s with mgmt := { s.mgmt with emcyQueue := s.mgmt.emcyQueue ++ [{ code, reg, detail }] } }
    else { s with mgmt := { s.mgmt with emcyLost := s.mgmt.emcyLost + 1 } }

/-- A unit of the Zwiup view counts a record (16 R489); `cap` is its counters' ceiling. -/
def ViewUnit.count (u : ViewUnit) (corrected : Bool) (cap : Nat) : ViewUnit :=
  if corrected then
    { u with corrected := if u.corrected.toNat ≥ cap then u.corrected else u.corrected + 1, sawC := true }
  else { u with detected := if u.detected.toNat ≥ cap then u.detected else u.detected + 1, sawD := true }

/-- The engine a place names, for lane, vector cell and engine levels. -/
def placeEngine (p : Place) : Option Nat :=
  if p.level = 1 ∨ p.level = 2 ∨ p.level = 3 then some (p.source.toNat / 2 ^ 15) else none
/-- The bent a place lies in. -/
def placeBent (p : Place) : Option Nat :=
  match placeEngine p with
  | some e => some (bentOf e)
  | none => if p.level = 4 then some (p.source.toNat / 2 ^ 18) else none
/-- The vector cell a place lies in (01 R19: pattern engines have none). -/
def placeCell (p : Place) : Option (Nat × Nat) :=
  match placeEngine p with
  | some e => if e < 48 ∧ p.level ≠ 3 then some (e, p.source.toNat / 2 ^ 7 % 256) else none
  | none => none

/-- The Zwiup view counts a CORRECTED or DETECTED record at its unit and at every unit above it (16 R489). -/
def viewCount (s : State) (place : Place) (cls : BitVec 3) : State :=
  if s.view.summaries = 0 ∨ 1 < cls.toNat then s
  else
    let c := cls == 0
    let v := s.view
    let v := { v with chip := v.chip.count c (2 ^ 32 - 1) }
    let v := match placeBent place with
      | some b => { v with regions := Tbl.put {} v.regions b ((Tbl.get ({} : ViewUnit) v.regions b).count c (2 ^ 32 - 1)) }
      | none => v
    let v := match placeEngine place with
      | some e => { v with blocks := Tbl.put {} v.blocks e ((Tbl.get ({} : ViewUnit) v.blocks e).count c (2 ^ 32 - 1)) }
      | none => v
    let v := match placeCell place with
      | some (e, k) =>
        { v with cells := Tbl.put {} v.cells (e * 256 + k) ((Tbl.get ({} : ViewUnit) v.cells (e * 256 + k)).count c (2 ^ 16 - 1)) }
      | none => v
    { s with view := v }

/-- The engines of the unit that a place lies in: an engine, or a bent's. -/
def placeUnits (place : Place) : List Nat :=
  match placeEngine place with
  | some e => [e]
  | none => match placeBent place with
    | some b => bentEngines b
    | none => []

/-- The engine object counts a CORRECTED or DETECTED record, and Statistics :0D of the functions whose tiles ran on
the unit within the tick (01 R17; 17 R505). The record is kept for functions whose tiles still come. -/
def unitCount (s : State) (place : Place) (cls : BitVec 3) : State :=
  let s := match placeEngine place with
    | some e =>
      if cls = 0 then modEng s e fun v => { v with corrected := v.corrected + 1 }
      else if cls = 1 then modEng s e fun v => { v with detected := v.detected + 1 }
      else s
    | none => s
  let units := placeUnits place
  if units.isEmpty then s
  else
    { s with
      err := { s.err with tickErrs := units :: s.err.tickErrs }
      fns := Tbl.mapVals {} (fun _ f =>
        if f.ranOn.any (fun e => units.contains e.val) then { f with stats := cntAdd f.stats 0x0D 1 } else f) s.fns }

/-- A function's tile runs on an engine: the error records of the tick that the function has not counted and whose unit
holds the engine are counted (01 R17). -/
def Fn.runsOn (errs : List (List Nat)) (f : Fn) (e : Fin 56) : Fn :=
  let seen := f.ranOn.map (·.val)
  let n := (errs.filter fun u => u.contains e.val && !seen.any fun x => u.contains x).length
  { f with stats := if n = 0 then f.stats else cntAdd f.stats 0x0D n
           ranOn := if f.ranOn.contains e then f.ranOn else e :: f.ranOn }

/-- The request that an error record concerns, as its arguments name it (03 R68; 17 R500); 0 where it concerns none. -/
def Raised.handle (e : Raised) : W32 :=
  match e.code with
  | .requestEntry | .coldFull | .coldWrite | .coldCorrupt => e.argA.truncate 32
  | .mortiseEcc | .cascadeTimeout | .hostWrite => e.argB.truncate 32
  | _ => 0

/-- Reports one error record (17 R501 to R505). -/
def reportOne (s : State) (e : Raised) : State :=
  let cls := e.cls
  let s := { s with err := { s.err with byClass := cntAdd s.err.byClass (cls.toNat + 1) 1 } }
  let s := unitCount (viewCount s e.place cls) e.place cls
  let code := emcyCode e.code cls
  let s := if (cls = 1 ∨ cls = 3 ∨ cls = 4) ∧ ¬ s.err.captured then
      { s with err := { s.err with captured := true, capCode := code, capClass := cls.zeroExtend 8,
                                    capDetail := detailOf e.place e.code, capStamp := s.time.now } }
    else s
  if s.mgmt.nmt = .initialisation then s
  else
    let key := (e.code, e.place.source)
    let quiet := cls = 0 ∧ s.err.corrected.contains key
    let s := if cls = 0 ∧ ¬ quiet then { s with err := { s.err with corrected := key :: s.err.corrected } } else s
    let s := if quiet then s
      else errRingWrite s
        { tick := tickOf s, handle := e.handle
          body := .notice { emcyCode := code, errReg := errorRegister s, cls := cls, code := e.code, place := e.place,
                            stamp := s.time.now, argA := e.argA, argB := e.argB, argC := e.argC } }
    if e.emcy && errEmcy e.code then
      let s := { s with mgmt := { s.mgmt with
        errorList := ((BitVec.ofNat 16 (errNum e.code) ++ code) :: s.mgmt.errorList).take 16 } }
      emcySend s code (errorRegister s) (detailOf e.place e.code)
    else s

/-- An error record is raised; the cycle's records are reported together, at its end. -/
def raise (s : State) (code : ErrCode) (place : Place := {}) (argA : Nat := 0) (argB : Nat := 0) : State :=
  { s with err := { s.err with raised := s.err.raised
      ++ [{ code, place, argA := BitVec.ofNat 64 argA, argB := BitVec.ofNat 64 argB }] } }

def raiseRec (s : State) (e : Raised) : State := { s with err := { s.err with raised := s.err.raised ++ [e] } }

/-- `a` is reported before `b`, or with an equal detail (17 R498). -/
def Raised.before (a b : Raised) : Prop := (detailOf a.place a.code).toNat ≤ (detailOf b.place b.code).toNat

/-- Insertion in ascending order of the 40-bit detail (17 R498). -/
def insertRaised (e : Raised) : List Raised → List Raised
  | [] => [e]
  | x :: t => if (detailOf e.place e.code).toNat < (detailOf x.place x.code).toNat then e :: x :: t
              else x :: insertRaised e t

/-- When the error register becomes 0, the CiA 301 error reset is sent (17 R503). -/
def refreshRegister (s : State) : State :=
  let v := errorRegister s
  if v = s.err.lastReg then s
  else
    let s := if v = 0 then emcySend s 0 0 0 else s
    { s with err := { s.err with lastReg := v } }

/-- The error records of a command join those of its cycle, in the order of R498. -/
def settle (s : State) : State :=
  { s with err := { s.err with
      raised := [], cycle := s.err.raised.foldl (fun l e => insertRaised e l) s.err.cycle } }

/-- The end of a cycle: its error records are reported in their order, and the error register is formed. -/
def report (s : State) : State :=
  refreshRegister (s.err.cycle.foldl reportOne { s with err := { s.err with cycle := [] } })

/-- The end of a command. -/
def done (s : State) : Host.Outcome State Fault Refusal := .next (settle s)

/-! ## Release rings (03 R53, R71, R109 to R119) -/

def Request.capacity (r : Request) : Nat := 2 ^ r.ringLog2.toNat / 64
/-- Free space of a request's ring modulo 2^32 (03 R113); 0 where a consumer value makes it negative (log 80). -/
def Request.free (r : Request) : Nat := r.capacity - (r.producer - r.consumer).toNat

/-- The WRITEs of a ring wait: one has failed and its retry is not acknowledged, or 16,384 are unacknowledged
(18 R513, R514). -/
def ringStuck (p : Port) (slot : Slot) : Bool := destBlocked p (.ring slot) || decide (16384 ≤ p.unacked.length)

/-- The request's records wait: its ring is full (03 R115), its home port is not UP, its entry cannot be read
(17 R506), or its ring's WRITEs wait (18 R513, R514). -/
def isHeld (s : State) (slot : Slot) (r : Request) : Bool :=
  r.held || r.entryBad || !portUp s r.home || ringStuck (portOf s r.home) slot

/-- What a record gets at its issue: LATE, the stamp, C and the speculative bit (02 R41; 03 R100, R103). -/
def finishRec (s : State) (r : Request) (rc : Rec) : Rec :=
  let ev := s.tick.verdictDeadline.toNat
  let late (off : Nat) : Byte := if isLate s rc.tick off then 1 else 0
  match rc.body with
  | .verdict v =>
    { rc with flags := rc.flags ||| late ev,
              body := .verdict { v with issueStamp := s.time.now, committed := BitVec.ofNat 32 r.c,
                                        speculative := v.position != 0xFFFFFFFF && v.position.toNat ≥ r.c } }
  | .retract v => { rc with flags := rc.flags ||| late ev, body := .retract { v with issueStamp := s.time.now } }
  | .scores _ => { rc with flags := rc.flags ||| late ev }
  | .mask _ => { rc with flags := rc.flags ||| late s.tick.maskDeadline.toNat }
  | _ => rc

/-- A verdict of work of a tick misses a target of `d` ticks (04 R150). -/
def missed (s : State) (t : TickRef) (d : Nat) : Bool :=
  t.idx != 0 && isLate s { t with idx := t.idx + d } s.tick.verdictDeadline.toNat

/-- The counts of an issued verdict (04 R150, R160). -/
def countVerdict (s : State) (fn : Fin 64) (stage : Nat) (t : TickRef) (cls : BitVec 4) (fault : Bool) : State :=
  let d := if stage = 0 then (fnOf s fn).act.dp else (fnOf s fn).act.dw
  let miss := missed s t d.toNat
  let s := if stage = 0 then fnCount s fn 1 1 else s
  let s := fnCount s fn (2 + cls.toNat) 1
  let s := if fault then fnCount s fn 7 1 else s
  if miss then modFn (fnCount s fn 0x0C 1) fn fun f => { f with misses := f.misses + 1 } else s

/-- The counts of a record when it is written: a verdict whose record waits behind a hold is issued then (04 R150, R160). -/
def countRecord (s : State) (fn : Fin 64) (rc : Rec) : State :=
  let s := if rc.flags.getLsbD 0 then fnCount s fn 8 1 else s
  match rc.body with
  | .verdict v =>
    if rc.flags.getLsbD 3 then fnCount s fn 9 1 else countVerdict s fn v.stage.toNat rc.tick v.cls (rc.flags.getLsbD 1)
  | .retract _ => fnCount s fn 0x0A 1
  | _ => s

/-- Writes one record to a request's ring and the producer index after it; a ring with no space left is held. -/
def ringWrite (s : State) (slot : Slot) (rc : Rec) : State :=
  let r := reqOf s slot
  let rc := finishRec s r rc
  let addr := r.ringBase + BitVec.ofNat 64 (64 * (r.producer.toNat % r.capacity))
  let s := sendWrite s r.home (.ring slot) addr (.record rc (r.producer.truncate 16)) r.latency
  let s := sendWrite s r.home (.ring slot) r.doorbell (.index (r.producer + 1))
  let s := countRecord s r.fn rc
  modReq s slot fun r =>
    let r := { r with producer := r.producer + 1 }
    if r.free = 0 then { r with held := true, holdTicks := 0, holdReported := false } else r

/-- A record is issued: written, or put behind a hold (03 R116). -/
def issue (s : State) (slot : Slot) (rc : Rec) : State :=
  let r := reqOf s slot
  if isHeld s slot r || !r.pendingRecs.isEmpty then modReq s slot fun r => { r with pendingRecs := r.pendingRecs ++ [rc] }
  else ringWrite s slot rc

/-- Writes CLOSED and enters CLOSING (03 R71, R104). -/
def writeClosed (s : State) (slot : Slot) (c : ClosedRec) : State :=
  let c := { c with nextHandle := mkHandle slot (genOf s slot + 1),
                    freeTick := if s.tick.cur.idx = 0 then 0 else (s.tick.cur.num + 1).truncate 32 }
  let s := ringWrite s slot { tick := c.tick, handle := handleOf s slot, body := .closed c }
  modReq s slot fun r => { r with st := .closing, pendingClosed := none }

/-- A MASK record of the request still waits for its masks (06 R211, R216). -/
def maskWaiting (s : State) (slot : Slot) : Bool :=
  s.text.maskWaits.any (fun w => w.slot == slot) || s.text.maskDeferred.any (fun w => w.slot == slot)

/-- Forms CLOSED: written at once, or in a place of its own behind a hold (03 R71), or behind MASK records that wait. -/
def formClosed (s : State) (slot : Slot) (c : ClosedRec) : State :=
  let r := reqOf s slot
  if isHeld s slot r || !r.pendingRecs.isEmpty || maskWaiting s slot then modReq s slot fun r => { r with pendingClosed := some c }
  else writeClosed s slot c

/-- Writes the records that waited behind a hold, as far as space allows, then the CLOSED. -/
def drainRing : Nat → State → Slot → State
  | 0, s, _ => s
  | fuel + 1, s, slot =>
    let r := reqOf s slot
    if isHeld s slot r then s
    else match r.pendingRecs with
      | rc :: rest => drainRing fuel (ringWrite (modReq s slot fun r => { r with pendingRecs := rest }) slot rc) slot
      | [] => match r.pendingClosed with
        | some c => if maskWaiting s slot then s else writeClosed s slot c
        | none => s

def drain (s : State) (slot : Slot) : State := drainRing ((reqOf s slot).pendingRecs.length + 1) s slot

/-- The pending buffer of 32 records has room for `n` more (03 R116). -/
def roomN (s : State) (slot : Slot) (n : Nat) : Bool := decide ((reqOf s slot).pendingRecs.length + n ≤ 32)
/-- The pending buffer is not full. -/
def roomFor (s : State) (slot : Slot) : Bool := roomN s slot 1

/-- A record of the request still waits to be sent (03 R71). -/
def ringWaits (s : State) (slot : Slot) : Bool :=
  let p := portOf s (reqOf s slot).home
  p.waiting.any (fun m => m.dest == .ring slot) || p.failedWrites.any (fun m => m.dest == .ring slot)

end Sys2Proof.Machine
end

