-- ==== Sys2Proof/Machine/Paths.lean ====
section
/-! DEFINITION. The two management paths: requests, responses, aborts and collisions (15 R457 to R468). -/
namespace Sys2Proof.Machine
open Sys2Proof

/-- What a request does: it is applied, or aborted with a code and a reason. An abort leaves the state it names, which
is the state before but for a refused START (15 R466). -/
inductive WriteRes
  | ok (s : State)
  | abort (code : W32) (reason : W16) (s : State)

def abNoIndex : W32 := 0x06020000
def abNoSub : W32 := 0x06090011
def abWriteOnly : W32 := 0x06010001
def abReadOnly : W32 := 0x06010002
def abLength : W32 := 0x06070010
def abState : W32 := 0x08000022
def abRange : W32 := 0x06090030
def abMap : W32 := 0x06040041
def abMapLen : W32 := 0x06040042
def abSession : W32 := 0x060A0023
def abTimeout : W32 := 0x05040000

/-- The objects served in Initialisation (19 R543). -/
def bringUp (index : W16) (sub : Byte) : Bool :=
  let i := index.toNat
  let b := sub.toNat
  i == 0x1000 || i == 0x1001 || (0x1008 ≤ i && i ≤ 0x100A) || i == 0x1018
    || (i == 0x2001 && b == 2) || i == 0x2003 || i == 0x2020 || (i == 0x2030 && (b == 1 || b == 4 || b == 5))
    || (0x2300 ≤ i && i ≤ 0x2308 && 1 ≤ b && b ≤ 4) || i == 0x2900 || i == 0x2901
    || (0x2A00 ≤ i && i ≤ 0x2A03) || (i == 0x2A10 && (b == 1 || b == 4))

/-- A request on the path reaches the dictionary: the mailbox from step 6 on (19 R542), the CAN path in
Pre-operational and Operational while Active Node-ID is not 0 (15 R448, R450). -/
def pathHeard (s : State) (path : Path) : Bool :=
  coreRuns s && match path with
    | .mailbox => !s.pwr.stopped.contains (.module 0)
    | .can => s.mgmt.activeNode != 0 && !s.pwr.stopped.contains .service
        && (s.mgmt.nmt == .preOperational || s.mgmt.nmt == .operational)

def sessionOf (s : State) : Path → Option Session
  | .mailbox => s.mgmt.sessMbx
  | .can => s.mgmt.sessCan

def setSession (s : State) (path : Path) (x : Option Session) : State :=
  match path with
  | .mailbox => { s with mgmt := { s.mgmt with sessMbx := x } }
  | .can => { s with mgmt := { s.mgmt with sessCan := x } }

/-- The path's request counter (15 R465). -/
def countRequest (s : State) : Path → State
  | .mailbox => { s with mgmt := { s.mgmt with mbxRequests := s.mgmt.mbxRequests + 1 } }
  | .can => { s with mgmt := { s.mgmt with canRequests := s.mgmt.canRequests + 1 } }

/-- The response: in MBX_RESPONSE with VALID set and BUSY clear (15 R458), or in a CAN frame. -/
def respond (s : State) (path : Path) (abort : W32) (data : List Byte) : State :=
  match path with
  | .mailbox =>
    { s with mgmt := { s.mgmt with
        mbxResponse := if abort = 0 then data else leBytes 4 abort.toNat
        mbxNode := s.mgmt.activeNode, mbxSeq := s.mgmt.mbxPosted, mbxValid := true, mbxBusy := false } }
  | .can =>
    if s.mgmt.activeNode = 0 then s
    else { s with mgmt := { s.mgmt with canOut := .response s.mgmt.activeNode abort data :: s.mgmt.canOut } }

/-- Abort Detail of the path (15 R467). -/
def recordAbort (s : State) (path : Path) (code : W32) (reason : W16) (index : W16) (sub : Byte) : State :=
  let upd (d : AbortDetail) : AbortDetail := { code, reason, index, sub, aborts := d.aborts + 1 }
  match path with
  | .mailbox => { s with mgmt := { s.mgmt with abortMbx := upd s.mgmt.abortMbx } }
  | .can => { s with mgmt := { s.mgmt with abortCan := upd s.mgmt.abortCan } }

def abortReq (s : State) (path : Path) (code : W32) (reason : W16) (index : W16) (sub : Byte) : State :=
  respond (recordAbort s path code reason index sub) path code []

/-- Two writes of one cycle on the two paths that name one index (15 R462). -/
def noteWrite (s : State) (path : Path) (index : W16) : State :=
  let hit := match s.mgmt.lastWrite with
    | some (t, i, p) => t == s.time.now && i == index && p != path
    | none => false
  { s with mgmt := { s.mgmt with
      collisions := if hit then s.mgmt.collisions + 1 else s.mgmt.collisions
      lastWrite := some (s.time.now, index, path) } }

/-- The answer to a write that has been judged. -/
def finishWrite (path : Path) (index : W16) (sub : Byte) (r : WriteRes) : State :=
  match r with
  | .ok s' => respond s' path 0 []
  | .abort code reason s' => abortReq s' path code reason index sub

/-- One write request in a single exchange. -/
def mgmtWrite (s : State) (path : Path) (index : W16) (sub : Byte) (act : State → WriteRes) :
    Host.Outcome State Fault Refusal :=
  if ¬ pathHeard s path then .next s
  else
    let s := noteWrite (countRequest s path) path index
    if (sessionOf s path).isSome then done (abortReq s path abSession 0 index sub)
    else if s.mgmt.nmt = .initialisation ∧ ¬ bringUp index sub then done (abortReq s path abState 0 index sub)
    else done (finishWrite path index sub (act s))

/-- A condition of a unit: refused with the abort of a busy or used unit and the reason, or applied. -/
def guardWrite (s : State) (bad : Bool) (reason : W16) (f : State → WriteRes) : WriteRes :=
  if bad then .abort abState reason s else f s

def rsPreop : W16 := 1
def rsActive : W16 := 2
def rsInUse : W16 := 3
def rsBusy : W16 := 4
def rsNotOp : W16 := 5
def rsEntry : W16 := 6
def rsNoBlock : W16 := 7
def rsPath : W16 := 8

end Sys2Proof.Machine
end

