-- ==== Sys2Proof/Machine/Text.lean ====
section
/-! DEFINITION. Bytes, vocabularies, the scribe, the grammar automaton and the masks (06). -/
namespace Sys2Proof.Machine
open Sys2Proof

/-! ## Events (06 R174, R175) -/

def evBreak : W32 := 1
def evIncomplete : W32 := 2
def evUnknown : W32 := 3
def evUtf8 : W32 := 4
def evSpecial : W32 := 5

/-- The distinct event codes, ascending. -/
def distinctCodes (es : List W32) : List Nat := es.foldl (fun l e => insertAsc e.toNat l) []
/-- byte_rule_id (06 R174). -/
def byteRuleId (es : List W32) : W32 := BitVec.ofNat 32 ((distinctCodes es).headD 0)
/-- hit_hash (06 R174). -/
def hitHash (es : List W32) : W32 :=
  match distinctCodes es with
  | [] => 0
  | l => crc32c (l.flatMap (leBytes 4))

/-! ## The SRAM table (06 R181, R182, R184) -/

def keyWord (v id : Nat) : Nat := v * 2 ^ 24 + id
/-- The bucket of an entry in a way, numbered way × 196,608 + bucket (06 R181). -/
def bucketOf (way v id : Nat) : Nat :=
  let w := keyWord v id
  let w := if way = 0 then w else w ^^^ 0x5A5A5A5A
  way * 196608 + (crc32c (leBytes 4 w)).toNat % 196608

/-- Slots an entry takes: 11 string bytes in the head slot and 16 in each other one (06 R182). -/
def slotsOf (len : Nat) : Nat := 1 + ceilDiv (len - 11) 16

abbrev Sram := Tbl (List (VKey × Nat))
def bucketAt (t : Sram) (b : Nat) : List (VKey × Nat) := Tbl.get [] t b
def bucketFree (l : List (VKey × Nat)) : Nat := 4 - l.foldl (fun n e => n + e.2) 0

/-- The entry nearest the end whose removal gives `need` free slots (06 R184). -/
def victim (l : List (VKey × Nat)) (need : Nat) : Option (VKey × Nat) :=
  l.reverse.find? (fun e => bucketFree l + e.2 ≥ need)

/-- place(e) of 06 R184: `fuel` counts the 32 repeats. -/
def place : Nat → Sram → Nat → VKey × Nat → Sram
  | 0, t, _, _ => t
  | fuel + 1, t, first, e =>
    let a := bucketOf first e.1.1 e.1.2
    let b := bucketOf (1 - first) e.1.1 e.1.2
    let la := bucketAt t a
    let lb := bucketAt t b
    if bucketFree la ≥ e.2 then Tbl.put [] t a (la ++ [e])
    else if bucketFree lb ≥ e.2 then Tbl.put [] t b (lb ++ [e])
    else match victim la e.2 with
      | none => t
      | some v =>
        let t := Tbl.put [] t a (la.erase v ++ [e])
        place fuel t (if bucketOf 0 v.1.1 v.1.2 = a then 1 else 0) v

/-- An entry is resident in the SRAM table. -/
def inSram (s : State) (v : Fin 8) (id : Nat) : Bool :=
  (bucketAt s.text.sram (bucketOf 0 v.val id)).any (fun e => e.1 == (v.val, id))
    || (bucketAt s.text.sram (bucketOf 1 v.val id)).any (fun e => e.1 == (v.val, id))

/-- SRAM Entries :06 of a vocabulary (06 R177). -/
def sramEntries (s : State) (v : Fin 8) : Nat :=
  s.text.sram.foldl (fun n b => n + (b.2.filter (fun e => e.1.1 == v.val)).length) 0
/-- Overflow Entries :07: present entries that are not resident. -/
def overflowEntries (s : State) (v : Fin 8) : Nat := (vocabOf s v).entries.length - sramEntries s v

/-! ## Detokenisation (06 R185, R186) -/

/-- What an id resolves to: nothing for an absent id. -/
def resolveId (s : State) (v : Fin 8) (id : Nat) : VEntry :=
  let x := vocabOf s v
  if id < x.idCount.toNat then Tbl.get {} x.entries id else {}

/-- The lookup needs the HBM overflow array: no bucket holds the id and it is below the id count. -/
def needsOverflow (s : State) (v : Fin 8) (id : Nat) : Bool :=
  decide (id < (vocabOf s v).idCount.toNat) && !inSram s v id

def textCount (s : State) (k n : Nat) : State :=
  { s with text := { s.text with counters := cntAdd s.text.counters k n } }

/-- The counts and the event of a resolved id. -/
def countId (s : State) (e : VEntry) : State :=
  let s := textCount s 1 1
  if e.present then s else textCount s 4 1

def idEvents (e : VEntry) : List W32 := if ¬ e.present then [evUnknown] else if e.special then [evSpecial] else []
def idBytes (e : VEntry) : List Byte := if e.present && !e.special then e.bytes else []

/-! ## The automata (06 R189 to R193, R197, R202 to R206) -/

/-- The second byte that may follow a UTF-8 lead byte (RFC 3629). -/
def utf8Second (lead b : Nat) : Bool :=
  if lead = 0xE0 then 0xA0 ≤ b && b ≤ 0xBF
  else if lead = 0xED then 0x80 ≤ b && b ≤ 0x9F
  else if lead = 0xF0 then 0x90 ≤ b && b ≤ 0xBF
  else if lead = 0xF4 then 0x80 ≤ b && b ≤ 0x8F
  else 0x80 ≤ b && b ≤ 0xBF

def utf8Len (lead : Nat) : Nat := if lead < 0xE0 then 2 else if lead < 0xF0 then 3 else 4

/-- The UTF-8 automaton: the incomplete sequence after a byte, and whether the byte shows a sequence invalid
(06 R191). -/
def utf8Step (seq : List Byte) (b : Byte) : List Byte × Bool :=
  let n := b.toNat
  let start : List Byte := if 0xC2 ≤ n ∧ n ≤ 0xF4 then [b] else []
  match seq with
  | [] => (start, decide (0x80 ≤ n) && start.isEmpty)
  | lead :: more =>
    let good := if more.isEmpty then utf8Second lead.toNat n else decide (0x80 ≤ n ∧ n ≤ 0xBF)
    if good then (if seq.length + 1 = utf8Len lead.toNat then [] else seq ++ [b], false)
    else (start, true)

/-- The suffixes of a list, longest first. -/
def suffixes {α : Type} : List α → List (List α)
  | [] => [[]]
  | x :: t => (x :: t) :: suffixes t

/-- The longest suffix that is a proper prefix of a stop string: the bytes under an open partial match (06 R190). -/
def openMatch (strings : List (List Byte)) (w : List Byte) : Nat :=
  (((suffixes w).find? fun t => strings.any fun x => decide (t.length < x.length) && t.isPrefixOf x).getD []).length

/-- The length of the longest stop string that ends at the last byte (06 R189). -/
def stopMatch (strings : List (List Byte)) (w : List Byte) : Option Nat :=
  strings.foldl (fun m x =>
    if x.isSuffixOf w then match m with
      | some n => some (max n x.length)
      | none => some x.length
    else m) none

/-- A byte-rule match is a rule set and a rule number of 1 to 65,535 (06 R175). -/
def ruleCode (c : W32) : Bool := c.toNat / 65536 != 0 && c.toNat % 65536 != 0

/-- One byte through the scribe, the UTF-8 automaton and the byte rules: the record after it and the events. -/
def scanByte (rules : List Byte) (strings : List (List Byte)) (hold : Bool) (a : Auto) (b : Byte) : Auto × List W32 :=
  let w := a.held ++ [b]
  let u := utf8Step a.utf8 b
  let stop := match a.stop with
    | some x => some x
    | none => (stopMatch strings w).map fun n => (a.nextOffset + 1 - n, a.nextOffset)
  let keep := if stop.isSome then 0 else max (openMatch strings w) (if hold then u.1.length else 0)
  let r := if rules.isEmpty then (a.rules, []) else Config.ruleStep rules a.rules b
  let states := (r.1 ++ List.replicate 16 0).take 16
  ({ a with utf8 := u.1, held := w.drop (w.length - keep), nextOffset := a.nextOffset + 1, rules := states, stop := stop },
    (if u.2 then [evUtf8] else []) ++ r.2.filter ruleCode)

def scanBytes (rules : List Byte) (strings : List (List Byte)) (hold : Bool) :
    List Byte → Auto → List W32 → Auto × List W32
  | [], a, es => (a, es)
  | b :: t, a, es =>
    let r := scanByte rules strings hold a b
    scanBytes rules strings hold t r.1 (es ++ r.2)

/-! ### Grammar images (06 R196, R197, R200) -/

def gDepth (img : List Byte) : Nat := leAt img 2 1
def gStates (img : List Byte) : Nat := leAt img 4 4
def gMasks (img : List Byte) : Nat := leAt img 8 4
def gIdCount (img : List Byte) : Nat := leAt img 12 4
def gStart (img : List Byte) : Nat := leAt img 16 4
def gRecovery (img : List Byte) : Nat := leAt img 20 4
/-- The declared fallback mask, 0xFFFFFFFF for none; of another word the low 20 bits, a mask id (06 R196; 03 R57, R101). -/
def gFallback (img : List Byte) : W32 :=
  let w := leAt img 24 4
  if w = 0xFFFFFFFF then 0xFFFFFFFF else BitVec.ofNat 32 (w % 2 ^ 20)
def gTransition (img : List Byte) (state : Nat) (b : Byte) : Nat :=
  leAt img (leAt img 32 8 + 8 * (state * 256 + b.toNat)) 8
def gKey (img : List Byte) (state top : Nat) : Nat := leAt img (leAt img 40 8 + 4 * (state * 256 + top)) 4
def gDirectory (img : List Byte) (m : Nat) : Nat := leAt img (leAt img 48 8 + 8 * m) 8
def gAccepting (img : List Byte) (state : Nat) : Bool :=
  (leAt img (leAt img 56 8 + state / 8) 1).testBit (state % 8)

/-- One byte through the grammar automaton (06 R197); `none` is REJECT. -/
def grammarByte (img : List Byte) (a : Auto) (b : Byte) : Option Auto :=
  let w := gTransition img a.gstate.toNat b
  let next : BitVec 18 := BitVec.ofNat 18 w
  let sym : Byte := BitVec.ofNat 8 (w >>> 54)
  match w >>> 62 with
  | 1 => some { a with gstate := next }
  | 2 =>
    if a.stack.length ≥ gDepth img then none
    else some { a with gstate := next, stack := (sym, BitVec.ofNat 18 (w >>> 36)) :: a.stack }
  | 3 =>
    match a.stack with
    | [] => none
    | top :: rest => if sym = 0xFF ∨ sym = top.1 then some { a with gstate := top.2, stack := rest } else none
  | _ => none

def grammarBytes (img : List Byte) : List Byte → Auto → Option Auto
  | [], a => some a
  | b :: t, a => match grammarByte img a b with
    | some a' => grammarBytes img t a'
    | none => none

/-- The mask of a configuration (06 R203). -/
def maskOf (img : List Byte) (a : Auto) : BitVec 20 :=
  BitVec.ofNat 20 (gKey img a.gstate.toNat (match a.stack with | [] => 0xFF | t :: _ => t.1.toNat))

/-- The words of a RUNS body: first id and length of each run. -/
def runsOf (img : List Byte) (off len : Nat) : List (Nat × Nat) :=
  (List.range (len / 4)).map fun i =>
    let w := leAt img (off + 4 * i) 4
    (w / 4096, w % 4096 + 1)

/-- Whether a mask allows an id (06 R200, R209). -/
def maskAllows (img : List Byte) (m id : Nat) : Bool :=
  let w := gDirectory img m
  let off := 64 * (w % 2 ^ 32)
  decide (id < gIdCount img) && match w >>> 62 with
    | 0 => false
    | 1 => true
    | 2 => (runsOf img off (bitsOf w 32 24)).any fun r => decide (r.1 ≤ id ∧ id < r.1 + r.2)
    | _ => (leAt img (off + id / 8) 1).testBit (id % 8)

/-- Bytes of a mask bitmap (06 R209). -/
def bitmapSize (idCount : Nat) : Nat := 64 * ceilDiv (ceilDiv idCount 8) 64

/-- The bitmap of a mask as written to host memory (06 R209). -/
def bitmapOf (img : List Byte) (m : Nat) : List Byte :=
  (List.range (bitmapSize (gIdCount img))).map fun i =>
    BitVec.ofNat 8 ((List.range 8).foldl (fun v j => if maskAllows img m (8 * i + j) then v + 2 ^ j else v) 0)

/-- One id through the grammar automaton: the record after it and whether the grammar broke (06 R202 to R205). At a
dead end every id is judged, a special or absent one too (log 17). An id outside the issued mask is a break (R217). -/
def grammarToken (img : List Byte) (a : Auto) (id : Nat) (bytes : List Byte) : Auto × Bool :=
  if a.broken then (a, false)
  else if a.deadEnd then
    if gFallback img ≠ 0xFFFFFFFF ∧ maskAllows img ((gFallback img).toNat % 2 ^ 20) id then
      let a := { a with gstate := BitVec.ofNat 18 (gRecovery img), stack := [] }
      ({ a with deadEnd := maskOf img a == 0 }, false)
    else ({ a with broken := true, deadEnd := false }, true)
  else if ¬ maskAllows img (maskOf img a).toNat id then ({ a with broken := true }, true)
  else match grammarBytes img bytes a with
    | some a' => ({ a' with deadEnd := maskOf img a' == 0 }, false)
    | none => ({ a with broken := true }, true)

/-! ### The mask cache (06 R206, R207) -/

/-- The lines of an image that a token's step reads: a transition of each byte, then the key of the mask after it. -/
def stepLines (img : List Byte) : List Byte → Auto → List Nat
  | [], a =>
    let top := match a.stack with | [] => 0xFF | t :: _ => t.1.toNat
    [(leAt img 40 8 + 4 * (a.gstate.toNat * 256 + top)) / 64]
  | b :: t, a =>
    let line := (leAt img 32 8 + 8 * (a.gstate.toNat * 256 + b.toNat)) / 64
    match grammarByte img a b with
    | some a' => line :: stepLines img t a'
    | none => [line]

/-- The lines of a mask's directory entry and body. -/
def maskLines (img : List Byte) (m : Nat) : List Nat :=
  let w := gDirectory img m
  let n := match w >>> 62 with
    | 2 => bitsOf w 32 24
    | 3 => ceilDiv (gIdCount img) 8
    | _ => 0
  (leAt img 48 8 + 8 * m) / 64 :: (List.range (ceilDiv n 64)).map fun i => w % 2 ^ 32 + i

/-- The lines that a token reads: none after a break, the fallback mask's at a dead end. -/
def tokenLines (img : List Byte) (a : Auto) (bytes : List Byte) : List Nat :=
  if a.broken then []
  else if a.deadEnd then (if gFallback img = 0xFFFFFFFF then [] else maskLines img ((gFallback img).toNat % 2 ^ 20))
  else stepLines img bytes a

/-- A line is read through the cache, which evicts the least recently used one; whether it came from HBM. -/
def touchLine (c : List (Nat × Nat)) (l : Nat × Nat) : List (Nat × Nat) × Bool :=
  if c.contains l then (l :: c.erase l, false) else ((l :: c).take 262144, true)

/-- Reads lines of a grammar's image: the cache after it and the lines that came from HBM. -/
def readLines (g : Nat) : List Nat → List (Nat × Nat) → Nat → List (Nat × Nat) × Nat
  | [], c, n => (c, n)
  | l :: t, c, n =>
    let x := touchLine c (g, l)
    readLines g t x.1 (if x.2 then n + 1 else n)

/-- The cache after a read of lines of image `g`, and how many came from HBM. -/
def cacheRead (s : State) (g : Fin 64) (ls : List Nat) : State × Nat :=
  let x := readLines g.val ls s.text.maskCache 0
  ({ s with text := { s.text with maskCache := x.1 } }, x.2)

/-- The record at position 0 (06 R202). -/
def startAuto (img : Option (List Byte)) : Auto :=
  match img with
  | some g =>
    let a : Auto := { gstate := BitVec.ofNat 18 (gStart g) }
    { a with deadEnd := maskOf g a == 0 }
  | none => {}

/-- The stop strings of a request. -/
def stopStrings (s : State) (r : Request) : List (List Byte) :=
  if r.stopSet = 0xFF then [] else (Tbl.get ({} : StopSet) s.text.stopSets r.stopSet.toNat).strings
def stopInclude (s : State) (r : Request) : Bool :=
  (Tbl.get ({} : StopSet) s.text.stopSets r.stopSet.toNat).includeIt

def grammarImage (s : State) (r : Request) : Option (List Byte) :=
  if r.grammarEnable then some (grammarOf s r.grammar).image else none

/-- The byte-rule image of the plan a request's function runs. -/
def ruleImage (s : State) (r : Request) : List Byte := (planOf s (fnOf s r.fn).act.plan).rules

/-- The mask after a record, `none` after a break or without a grammar. -/
def nextMask (img : Option (List Byte)) (a : Auto) : Option (BitVec 20) :=
  match img with
  | some g => if a.broken then none else some (maskOf g a)
  | none => none

/-- Scans one position: its bytes through every automaton, its events (06 R174, R186, R204). The record after it, the
position and whether the grammar broke. -/
def scanPos (s : State) (r : Request) (p : Pos) : Auto × Pos × Bool :=
  let e := resolveId s r.vocab p.id.toNat
  let bytes := idBytes e
  let start := r.auto.nextOffset
  let sc := scanBytes (ruleImage s r) (stopStrings s r) (s.text.utf8Hold == 1) bytes r.auto []
  let g := match grammarImage s r with
    | some img => grammarToken img sc.1 p.id.toNat bytes
    | none => (sc.1, false)
  let free := match g.1.stop with
    | some x => x.1
    | none => g.1.nextOffset - g.1.held.length
  (g.1, { p with scanned := true, waitsRead := false, bytes := bytes, offset := start, free := free,
                 events := idEvents e ++ sc.2 ++ (if g.2 then [evBreak] else []),
                 mask := nextMask (grammarImage s r) g.1 }, g.2)

/-- The events of a prompt, over all its bytes (06 R174, R191): the automata start afresh, and an incomplete sequence
at the end is invalid. -/
def promptEventsOf (s : State) (r : Request) (bytes : List Byte) (idEv : List W32) : List W32 :=
  let sc := scanBytes (ruleImage s r) [] false bytes {} idEv
  sc.2 ++ (if sc.1.utf8.isEmpty then [] else [evUtf8])

/-! ## MASK chains (06 R210 to R216) -/

/-- The masks of a record that Bruvar must write, each once: all but 0 and 1. -/
def maskNeeds (m : MaskRec) : List (BitVec 20) :=
  ((m.ids ++ (if m.fallback = 0xFFFFFFFF then [] else [m.fallback.truncate 20])).filter (fun x => 1 < x.toNat)).eraseDups

/-- The records of a chain: (position, mask) pairs in order, cut at dead ends (06 R213, R214). The record before a dead
end does not set continues, though the dead end's record may stand at its position + 10 (log 83). -/
def chainRecs (fallback : W32) : List (Nat × BitVec 20) → List (BitVec 20) → Nat → List MaskRec
  | [], acc, at_ => if acc.isEmpty then [] else [{ position := BitVec.ofNat 32 at_, ids := acc.reverse }]
  | (q, m) :: rest, acc, at_ =>
    if m = 0 then
      (if acc.isEmpty then [] else [{ position := BitVec.ofNat 32 at_, ids := acc.reverse }])
        ++ { position := BitVec.ofNat 32 q, deadEnd := true, ids := [0], fallback := fallback }
          :: chainRecs fallback rest [] (q + 1)
    else if acc.length = 10 then
      { position := BitVec.ofNat 32 at_, continues := true, ids := acc.reverse } :: chainRecs fallback rest [m] q
    else chainRecs fallback rest (m :: acc) (if acc.isEmpty then q else at_)

/-- The masks of positions `lo` to `hi`, as far as the grammar has one (06 R203, R204). -/
def chainMasks (img : List Byte) (r : Request) : Nat → Nat → List (Nat × BitVec 20)
  | 0, _ => []
  | n + 1, q =>
    let m := if q = 0 then some (maskOf img (startAuto (some img)))
      else (r.positions[q - 1]?).bind (fun p => p.mask)
    match m with
    | some m => (q, m) :: chainMasks img r n (q + 1)
    | none => []

/-- Mask slots of a parity taken so far. -/
def slotsTaken (s : State) (odd : Bool) : Nat := if odd then s.text.maskUsed1 else s.text.maskUsed0

/-- Writes one mask of the current tick through a port: bitmap, then index entry (06 R210). False when no slot of the
parity is free. -/
def writeMask (s : State) (port : Fin 8) (g : Fin 64) (m : BitVec 20) : State × Bool :=
  if s.text.masksNow.contains (g, m) then (s, true)
  else
    let t := s.tick.cur.num.toNat
    let odd := t % 2 == 1
    let k := slotsTaken s odd
    if k ≥ s.text.slotsPerParity.toNat then (s, false)
    else
      let img := (grammarOf s g).image
      let addr := s.text.poolBase.toNat + ((t % 2) * s.text.slotsPerParity.toNat + k) * s.text.slotSize.toNat
      let s := sendBytes s port (.mask g m) (BitVec.ofNat 64 addr) (bitmapOf img m.toNat)
      let ix := s.text.indexBase.toNat + 4 * (g.val * 1048576 + m.toNat)
      let s := sendBytes s port (.mask g m) (BitVec.ofNat 64 ix) (leBytes 4 ((t % 65536) * 65536 + k))
      let s := (cacheRead (textCount s 8 1) g (maskLines img m.toNat)).1
      ({ s with text := { s.text with
          masksNow := (g, m) :: s.text.masksNow, maskWriting := (g, m) :: s.text.maskWriting
          maskUsed0 := if odd then s.text.maskUsed0 else k + 1, maskUsed1 := if odd then k + 1 else s.text.maskUsed1 } },
        true)

/-- Writes the masks a record needs; the masks that found no slot. -/
def writeMasks (port : Fin 8) (g : Fin 64) : List (BitVec 20) → State → List (BitVec 20) → State × List (BitVec 20)
  | [], s, bad => (s, bad)
  | m :: t, s, bad =>
    let r := writeMask s port g m
    writeMasks port g t r.1 (if r.2 then bad else m :: bad)

/-- MASK_SLOTS, once per tick (06 R216). -/
def onceMaskSlots : Nat := 4

/-- A MASK record may not go yet: an earlier one of the request waits, its cycle is not before `t`, one of its masks is
not written, or the pending buffer is full (06 R211, R215; 03 R116). -/
def maskBlocked (s : State) (t : Nat) (kept : List MaskWait) (w : MaskWait) : Bool :=
  kept.any (fun k => k.slot == w.slot) || decide (t < w.due)
    || w.needs.any (fun m => s.text.maskWriting.contains (w.image, m)) || !roomFor s w.slot

/-- Issues the waiting MASK records that may go before cycle `t`. -/
def flushMasks (t : Nat) : List MaskWait → List MaskWait → State → State
  | [], kept, s => { s with text := { s.text with maskWaits := kept.reverse } }
  | w :: ws, kept, s =>
    if maskBlocked s t kept w then flushMasks t ws (w :: kept) s else flushMasks t ws kept (issue s w.slot w.rc)

def flushAll (s : State) (t : Nat) : State :=
  flushMasks t s.text.maskWaits [] { s with text := { s.text with maskWaits := [] } }

/-- A mask that a deferred record of this tick names is counted already. -/
def maskCounted (s : State) (g : Fin 64) (m : BitVec 20) : Bool :=
  s.text.maskDeferred.any fun k => k.image == g && k.needs.contains m

/-- In `cycle`, release logic has something due for a request. -/
def wakeAt (s : State) (slot : Slot) (cycle : Nat) : State :=
  if s.req.wakes.contains (cycle, slot) then s
  else { s with req := { s.req with wakes := s.req.wakes ++ [(cycle, slot)] } }

/-- Issues a MASK record once its masks are written; without a free slot it waits for the next tick (06 R216). -/
def placeMask (s : State) (w : MaskWait) : State :=
  let slot := w.slot
  let r := writeMasks (reqOf s slot).home w.image w.needs s []
  let s := r.1
  if r.2.isEmpty then
    if s.text.maskDeferred.any (fun k => k.slot == slot) then
      { s with text := { s.text with maskDeferred := s.text.maskDeferred ++ [w] } }
    else
      let s := if s.time.now < w.due then wakeAt s slot (w.due - 1) else s
      flushAll { s with text := { s.text with maskWaits := s.text.maskWaits ++ [w] } } s.time.now
  else
    let s := textCount s 7 (r.2.filter fun m => !maskCounted s w.image m).length
    let s := if onceFree s onceMaskSlots 0 s.tick.cur.idx then
        raise (markOnce s onceMaskSlots 0 s.tick.cur.idx) .maskSlots {} r.2.length else s
    { s with text := { s.text with maskDeferred := s.text.maskDeferred ++ [w] } }

/-- A new MASK record of a chain; one with dead_end is counted (06 R213, R214). -/
def queueMask (s : State) (slot : Slot) (g : Fin 64) (tick : TickRef) (due : Nat) (m : MaskRec) : State :=
  let s := if m.deadEnd then textCount s 6 1 else s
  placeMask s
    { slot, image := g, needs := maskNeeds m, rc := { tick, handle := handleOf s slot, body := .mask m }, due }

/-- Issues the MASK chain of positions `lo` to `hi` (06 R213), in the cycle before `due` at the earliest (R215). -/
def issueChain (s : State) (slot : Slot) (lo hi : Nat) (tick : TickRef) (due : Nat) : State :=
  let r := reqOf s slot
  match grammarImage s r with
  | none => s
  | some img =>
    (chainRecs (gFallback img) (chainMasks img r (hi + 1 - lo) lo) [] lo).foldl
      (fun s m => queueMask s slot r.grammar tick due m) s

/-- At a tick boundary the parity's slots are free again, and the records deferred by R216 are written under the new
tick (06 R210, R212, R216). -/
def maskBoundary (s : State) : State :=
  let odd := s.tick.cur.num.toNat % 2 == 1
  let ws := s.text.maskDeferred
  let s := { s with text := { s.text with
    masksNow := [], maskDeferred := []
    maskUsed0 := if odd then s.text.maskUsed0 else 0, maskUsed1 := if odd then 0 else s.text.maskUsed1 } }
  ws.foldl (fun s w => drain (placeMask s w) w.slot) s

/-- The writes of a mask bitmap and its index entry are complete: the records that waited for them are issued
(06 R211). -/
def execMaskWriteComplete (image : Fin 64) (mask : BitVec 20) (s : State) : Host.Outcome State Fault Refusal :=
  if s.text.maskWriting.contains (image, mask) && !writesLeft s (.mask image mask) then
    let ws := s.text.maskWaits
    let s := { s with text := { s.text with
      maskWriting := s.text.maskWriting.filter (fun e => e != (image, mask)) } }
    done (ws.foldl (fun s w => drain s w.slot) (flushAll s s.time.now))
  else .next s

/-! ## Loads (06 R178 to R180, R198) -/

/-- One byte of a job, if it has been read. -/
def jobByte (j : Job) (i : Nat) : Option Byte :=
  (j.got.find? fun c => decide (c.1 ≤ i) && decide (i < c.1 + c.2.length)).bind fun c => c.2[i - c.1]?

/-- The image that a load has read. Where a read has failed, the bytes that did not come are free (log 37). -/
def jobImage (s : State) (j : Job) : List Byte :=
  if j.failed.isNone then j.bytes
  else (List.range j.len).map fun o => (jobByte j o).getD ((Config.freeWord (0x100000000 + o) s.time.freeIdx).truncate 8)

/-- The result of a load: the first check that fails in the order of the codes, READ_FAULT the last (06 R179, R198;
08 R274). -/
def loadCode (j : Job) (code readFault : Nat) : Nat := if code = 1 ∧ j.failed.isSome then readFault else code

/-- The free bytes of a load that failed are taken. -/
def jobTaken (s : State) (j : Job) : State :=
  if j.failed.isNone then s else { s with time := { s.time with freeIdx := s.time.freeIdx + 1 } }

/-- Requests not FREE that a predicate holds of. -/
def anyReq (s : State) (f : Request → Bool) : Bool := s.req.table.any (fun e => f e.2)

/-- Pages of the mask tables region in use (11 R557). -/
def maskPages (s : State) : Nat :=
  1024 * (s.text.vocabs.filter (fun e => e.2.st != .empty)).length
    + s.text.grammars.foldl (fun n e =>
        let loading := ((jobOf s (.grammar (Fin.ofNat 64 e.1))).map (·.len)).getD 0
        n + match e.2.st with
          | .empty => 0
          | .loading => ceilDiv loading 65536
          | .loaded => ceilDiv e.2.image.length 65536) 0

/-- Pages of a region over all halves (11 R374). -/
def regionPages (s : State) (r : Nat) : Nat := 8 * ((s.stream.regions[r]?).map (·.pages.toNat)).getD 0


def vocabLoad (s : State) (v : Fin 8) : WriteRes :=
  guardWrite s ((vocabOf s v).st == .loading) rsBusy fun s =>
    guardWrite s ((vocabOf s v).st == .loaded) rsInUse fun s =>
      let x := vocabOf s v
      let s := setVocab s v { x with st := .loading }
      .ok (startJob s (.vocab v) (weightPort s) x.addr (x.len.toNat))

/-- 0x2610+v:01 ← LOAD (06 R177, R180). -/
def execVocabLoad (path : Path) (v : Fin 8) (s : State) : Host.Outcome State Fault Refusal :=
  mgmtWrite s path (0x2610 + BitVec.ofNat 16 v.val) 1 fun s => vocabLoad s v

/-- Empties a vocabulary slot: its entries leave SRAM and HBM (06 R180). -/
def emptyVocab (s : State) (v : Fin 8) : State :=
  let s := setVocab s v { vocabOf s v with st := .empty, idCount := 0, entries := [] }
  { s with text := { s.text with
      sram := Tbl.mapVals [] (fun _ l => l.filter (fun e => e.1.1 != v.val)) s.text.sram } }

/-- The vocabulary that a grammar slot serves: the one it was loaded against, :05 while it loads (06 R199). -/
def Grammar.against (g : Grammar) : Byte := if g.st = .loaded then g.served else g.vocab

/-- 0x2610+v:01 ← UNLOAD (06 R180). -/
def vocabUnload (s : State) (v : Fin 8) : WriteRes :=
  guardWrite s ((vocabOf s v).st == .loading) rsBusy fun s =>
    guardWrite s (anyReq s (fun r => r.vocab == v)
        || s.text.grammars.any (fun e => e.2.st != .empty && e.2.against == BitVec.ofNat 8 v.val)) rsInUse fun s =>
      .ok (emptyVocab s v)

def execVocabUnload (path : Path) (v : Fin 8) (s : State) : Host.Outcome State Fault Refusal :=
  mgmtWrite s path (0x2610 + BitVec.ofNat 16 v.val) 1 fun s => vocabUnload s v

/-- One index entry of a vocabulary image: offset, length, flags byte (06 R178). -/
def vIndex (img : List Byte) (i : Nat) : Nat × Nat × Nat :=
  (leAt img (64 + 8 * i) 4, leAt img (64 + 8 * i + 4) 1, leAt img (64 + 8 * i + 5) 1)

/-- The checks of a vocabulary LOAD in the order of their codes (06 R179); 1 is loaded. -/
def vocabCheck (s : State) (img : List Byte) : Nat :=
  let n := leAt img 4 4
  let strs := leAt img 8 4
  let present := ((List.range n).map (vIndex img)).filter (fun e => e.2.2.testBit 0)
  if leAt img 0 2 ≠ 1 then 0x10
  else if n = 0 ∨ n > 1048576 ∨ img.length < 64 + 8 * n + strs then 0x11
  else if n + s.text.vocabs.foldl (fun t e => if e.2.st = .loaded then t + e.2.idCount.toNat else t) 0 > 2097152 then
    0x12
  else if present.any (fun e => decide (e.2.1 > 59)) then 0x13
  else if present.any (fun e => e.2.2.testBit 1 && e.2.1 != 0) then 0x14
  else if present.any (fun e => decide (e.1 + e.2.1 > strs)) then 0x15
  else 1

/-- The entry of a present id. -/
def vEntry (img : List Byte) (n i : Nat) : VEntry :=
  let x := vIndex img i
  { present := true, special := x.2.2.testBit 1, pegged := x.2.2.testBit 2
    bytes := (img.drop (64 + 8 * n + x.1)).take x.2.1 }

/-- Fills the HBM array and the SRAM table: pegged entries first, then the rest, in id order (06 R184). -/
def installVocab (s : State) (v : Fin 8) (img : List Byte) : State :=
  let n := leAt img 4 4
  let es := ((List.range n).filter (fun i => (vIndex img i).2.2.testBit 0)).map (fun i => (i, vEntry img n i))
  let order := es.filter (fun e => e.2.pegged) ++ es.filter (fun e => !e.2.pegged)
  let sram := order.foldl (fun t e => place 32 t 0 ((v.val, e.1), slotsOf e.2.bytes.length)) s.text.sram
  let s := { s with text := { s.text with sram := sram } }
  setVocab s v { vocabOf s v with st := .loaded, idCount := BitVec.ofNat 32 n, entries := es, last := 1 }

/-- A vocabulary load has read its image (06 R179). -/
def execVocabLoadDone (v : Fin 8) (s : State) : Host.Outcome State Fault Refusal :=
  match jobOf s (.vocab v) with
  | some j =>
    if ¬ (coreRuns s ∧ j.over ∧ (vocabOf s v).st = .loading) then .next s
    else
      let code := loadCode j (vocabCheck s (jobImage s j)) 0x16
      let s := jobTaken (dropJob s (.vocab v)) j
      if code = 1 then done (installVocab s v j.bytes)
      else
        let s := setVocab s v { vocabOf s v with st := .empty, last := BitVec.ofNat 8 code }
        done (raise s .vocabImageBad {} v.val code)
  | none => .next s

/-- 0x2620+g:01 ← LOAD (06 R195, R180). -/
def grammarLoad (s : State) (g : Fin 64) : WriteRes :=
  guardWrite s ((grammarOf s g).st == .loading) rsBusy fun s =>
    guardWrite s ((grammarOf s g).st == .loaded) rsInUse fun s =>
      let x := grammarOf s g
      let s := setGrammar s g { x with st := .loading }
      .ok (startJob s (.grammar g) (weightPort s) x.addr x.len.toNat)

def execGrammarLoad (path : Path) (g : Fin 64) (s : State) : Host.Outcome State Fault Refusal :=
  mgmtWrite s path (0x2620 + BitVec.ofNat 16 g.val) 1 fun s => grammarLoad s g

/-- 0x2620+g:01 ← UNLOAD (06 R195, R180). -/
def grammarUnload (s : State) (g : Fin 64) : WriteRes :=
  guardWrite s ((grammarOf s g).st == .loading) rsBusy fun s =>
    guardWrite s (anyReq s (fun r => r.grammarEnable && r.grammar == g)) rsInUse fun s =>
      let s := setGrammar s g { grammarOf s g with st := .empty, image := [] }
      .ok { s with text := { s.text with maskCache := s.text.maskCache.filter fun l => l.1 != g.val } }

def execGrammarUnload (path : Path) (g : Fin 64) (s : State) : Host.Outcome State Fault Refusal :=
  mgmtWrite s path (0x2620 + BitVec.ofNat 16 g.val) 1 fun s => grammarUnload s g

/-- A state or mask id of the tables is out of range (06 R198 RANGE). -/
def grammarRange (img : List Byte) : Bool :=
  let n := gStates img
  (List.range (n * 256)).any (fun i =>
      let w := leAt img (leAt img 32 8 + 8 * i) 8
      let op := w >>> 62
      ((op == 1 || op == 2) && decide (w % 2 ^ 18 ≥ n)) || (op == 2 && decide (bitsOf w 36 18 ≥ n)))
    || decide (gRecovery img ≥ n) || decide (gStart img ≥ n)
    || (List.range (n * 256)).any (fun i => decide (leAt img (leAt img 40 8 + 4 * i) 4 % 2 ^ 20 ≥ gMasks img))
    || gDirectory img 0 >>> 62 != 0 || gDirectory img 1 >>> 62 != 1

/-- The checks of a grammar LOAD in the order of their codes (06 R198); 1 is loaded. FORMAT's offsets are the four of
the header (log 81); Mask Area is unset while a count or a size of it is 0 (log 82). -/
def grammarCheck (s : State) (g : Fin 64) (img : List Byte) : Nat :=
  let badOff (o : Nat) : Bool := o % 64 != 0 || decide (o ≥ img.length)
  let x := grammarOf s g
  let voc := Tbl.get ({} : Vocab) s.text.vocabs x.vocab.toNat
  if leAt img 0 2 ≠ 1 ∨ badOff (leAt img 32 8) ∨ badOff (leAt img 40 8) ∨ badOff (leAt img 48 8)
      ∨ badOff (leAt img 56 8) then 0x20
  else if voc.st ≠ .loaded ∨ voc.idCount.toNat ≠ gIdCount img then 0x21
  else if gDepth img = 0 ∨ gDepth img > 64 ∨ gStates img = 0 ∨ gStates img > 262144 ∨ gMasks img < 2
      ∨ gMasks img > 1048576 then 0x22
  else if grammarRange img then 0x23
  else if s.text.slotsPerParity = 0 ∨ s.text.slotSize = 0 ∨ s.text.slotSize.toNat < bitmapSize (gIdCount img) then 0x24
  else if maskPages s > regionPages s 5 then 0x25
  else 1

/-- A grammar load has read its image (06 R198). -/
def execGrammarLoadDone (g : Fin 64) (s : State) : Host.Outcome State Fault Refusal :=
  match jobOf s (.grammar g) with
  | some j =>
    if ¬ (coreRuns s ∧ j.over ∧ (grammarOf s g).st = .loading) then .next s
    else
      let code := loadCode j (grammarCheck s g (jobImage s j)) 0x26
      let s := jobTaken (dropJob s (.grammar g)) j
      if code = 1 then
        let x := grammarOf s g
        done (setGrammar s g { x with st := .loaded, image := j.bytes, last := 1, served := x.vocab })
      else
        let s := setGrammar s g { grammarOf s g with st := .empty, last := BitVec.ofNat 8 code }
        done (raise s .grammarImageBad {} g.val code)
  | none => .next s

end Sys2Proof.Machine
end

