-- ==== Sys2Proof/Machine/Mortise.lean ====
section
/-! DEFINITION. The mortise array: entries, searches and their arbiter, the cursor, updates, the cascade and the
scrubber (07; 08 R285, R286). -/
namespace Sys2Proof.Machine
open Sys2Proof

def entryOf (s : State) (e : Nat) : MEntry := Tbl.get {} s.mortise.entries e
def setEntry (s : State) (e : Nat) (v : MEntry) : State :=
  { s with mortise := { s.mortise with entries := Tbl.put {} s.mortise.entries e v } }

/-- The bank of a local index (07 R218). -/
def bankOf (e : Nat) : Nat := e / 16384
def mortisePlace (s : State) (e : Nat) : Place := stackPlace s 2 (bankOf e)

/-! ## The match (07 R219 to R221, R228) -/

def MImage.tag (m : MImage) : W32 := m.action.truncate 32

/-- Every enabled field lies within its inclusive range (07 R220). -/
def imageMatches (m : MImage) (key : List W32) : Bool :=
  (List.range 8).all fun k =>
    !m.enables.getLsbD k
      || (decide ((m.lo.getD k 0).toNat ≤ (key.getD k 0).toNat) && decide ((key.getD k 0).toNat ≤ (m.hi.getD k 0).toNat))

/-- The rule tag lies in the half-open window (07 R221). -/
def inWindow (m : MImage) (base limit : W32) : Bool :=
  decide (base.toNat ≤ m.tag.toNat) && decide (m.tag.toNat < limit.toNat)

/-- The entries that match, ascending. -/
def matching (s : State) (key : List W32) (base limit : W32) : List (Nat × MEntry) :=
  s.mortise.entries.filter fun e =>
    e.2.st == .valid && inWindow e.2.image base limit && imageMatches e.2.image key

def globalIndex (s : State) (e : Nat) : BitVec 20 := BitVec.ofNat 20 (s.mortise.position.toNat * 2 ^ 18 + e)

/-- The winner among ascending entries: highest priority, then lowest index (07 R228). -/
def winner : List (Nat × MEntry) → Option (Nat × MEntry)
  | [] => none
  | e :: t => match winner t with
    | none => some e
    | some w => if w.2.image.priority.toNat > e.2.image.priority.toNat then some w else some e

/-- What the local array finds in this cycle (07 R227, R228). -/
def findLocal (s : State) (key : List W32) (base limit : W32) : Found :=
  let l := matching s key base limit
  match winner l with
  | none => {}
  | some w =>
    { hit := true, index := globalIndex s w.1, priority := w.2.image.priority, action := w.2.image.action
      matchCount := l.length
      tieCount := (l.filter fun e => e.2.image.priority == w.2.image.priority).length
      suspect := l.any fun e => e.2.suspect, ecc := w.2.ecc }

/-- The lowest matching global index above `above` (07 R231). -/
def findAbove (s : State) (key : List W32) (base limit : W32) (above : Option (BitVec 20)) : Found :=
  let l := (matching s key base limit).filter fun e =>
    match above with
    | some a => decide (a.toNat < (globalIndex s e.1).toNat)
    | none => true
  match l with
  | [] => {}
  | w :: _ =>
    { hit := true, index := globalIndex s w.1, priority := w.2.image.priority, action := w.2.image.action
      matchCount := l.length, tieCount := 1, suspect := w.2.suspect, ecc := w.2.ecc }

/-! ## Keys (07 R224, R225) -/

def headField : Option W16 → W32
  | some h => h.zeroExtend 32
  | none => 0x00010000

/-- K0 to K7. `stage` is 0, 1 or 2. -/
def keyOf (r : Request) (stage position : Nat) (h : Heads) (events : List W32) : List W32 :=
  [ r.fn.val |> (fun f => BitVec.ofNat 32 (f * 2 ^ 26 + r.policy.toNat * 2 ^ 14 + r.tenant.toNat)),
    BitVec.ofNat 32 ((if r.latency then 2 ^ 31 else 0) + stage * 2 ^ 29
      + (if stage = 0 then 0 else min position 0x1FFFFFFF)),
    headField h.h0, headField h.h1, headField h.h2, headField h.h3, hitHash events, byteRuleId events ]

/-- Who asks, as key capture names it: handle, position, stage (07 R233). -/
def askerId (s : State) : Asker → Option (W32 × W32 × Nat)
  | .prompt slot => some (handleOf s slot, 0xFFFFFFFF, 0)
  | .s3 slot p => some (handleOf s slot, BitVec.ofNat 32 p, 1)
  | .s4 slot p => some (handleOf s slot, BitVec.ofNat 32 p, 2)
  | _ => none

def askerSlot : Asker → Option Slot
  | .prompt slot => some slot
  | .s3 slot _ => some slot
  | .s4 slot _ => some slot
  | _ => none

/-- A search is asked for; the arbiter grants it (08 R286). -/
def askSearch (s : State) (q : SearchReq) : State :=
  { s with mortise := { s.mortise with waiting := s.mortise.waiting ++ [q] } }

/-! ## Issue -/

def cascaded (s : State) : Bool := decide (1 < s.mortise.size.toNat)

/-- Latency from issue to delivery (07 R226, R245). -/
def searchDelay (s : State) : Nat := if cascaded s then 20 + 10 * s.mortise.size.toNat else 20

def posBits (s : State) : BitVec 2 := BitVec.ofNat 2 s.mortise.position.toNat

/-- The rule-tag window in force in the issue cycle (07 R221, R227). -/
def windowOf (s : State) (q : SearchReq) : W32 × W32 :=
  match askerSlot q.asker with
  | some slot =>
    let p := policyOf s (reqOf s slot).policy
    (p.tagBase, p.tagLimit)
  | none => (q.tagBase, q.tagLimit)

/-- An armed key capture takes the search's key and window (07 R233). -/
def captureKey (s : State) (q : SearchReq) (w : W32 × W32) : State :=
  let m := s.mortise
  if m.capState = 1 ∧ askerId s q.asker = some (m.capHandle, m.capPosition, m.capStage.toNat) then
    { s with mortise := { m with curKey := q.key, curTagBase := w.1, curTagLimit := w.2, curSt := .none, capState := 2 } }
  else s

/-- A cursor step above the last index of the last stack: no entry lies there, and its key frame would be FIRST's. -/
def pastEnd (q : SearchReq) : Bool := q.asker == .cursor && q.above == some 0xFFFFF

/-- A search is issued: it sees the array as it stands in this cycle (07 R227); in a cascade the key frame leaves in
the same cycle (07 R244). FIRST is sent with start index 0xFFFFF, which is one below index 0 (log 18). -/
def issueSearch (s : State) (q : SearchReq) : State :=
  let w := windowOf s q
  let s := captureKey s q w
  let found := match q.asker with
    | .cursor => findAbove s q.key w.1 w.2 q.above
    | _ => findLocal s q.key w.1 w.2
  let m := s.mortise
  let sends := cascaded s && !pastEnd q
  let sr : Search := { id := m.nextId, req := { q with tagBase := w.1, tagLimit := w.2 }, issue := s.time.now, found,
                       tag := m.nextTag, back := cascaded s && pastEnd q }
  let frame : KeyFrame :=
    { origin := posBits s, tag := m.nextTag, cursor := q.asker == .cursor, start := q.above.getD 0xFFFFF, key := q.key,
      tagBase := w.1, tagLimit := w.2 }
  { s with mortise := { m with
      searches := m.searches ++ [sr], nextId := m.nextId + 1
      nextTag := if sends then m.nextTag + 1 else m.nextTag
      outFrames := if sends then .key frame :: m.outFrames else m.outFrames
      lastOrigin := s.time.now + 1 } }

/-- The requester of a level that is granted: the nearest after the pointer, its oldest search. -/
def pickLevel (level n ptr : Nat) : List SearchReq → Option SearchReq
  | [] => none
  | q :: t =>
    match pickLevel level n ptr t with
    | none => if q.level = level then some q else none
    | some b => if q.level = level ∧ rotDist n ptr q.order ≤ rotDist n ptr b.order then some q else some b

/-- A stack originates at most one search in any Size cycles (07 R246). -/
def slotFree (s : State) : Bool :=
  s.mortise.lastOrigin == 0 || decide (s.mortise.lastOrigin + s.mortise.size.toNat ≤ s.time.now + 1)

/-- The engine of a requester of the arbiter: P0 to P7, S00 to S15; the gaffer is none. -/
def askerEngine (q : SearchReq) : Option Nat :=
  if q.level = 4 then none else if q.order < 8 then some (48 + q.order) else if q.order < 24 then some (24 + q.order) else none

/-- A search asks the arbiter: its unit is ready, in the plan pool (08 R285), and its request's pending buffer is not
full (03 R116). -/
def mayAsk (s : State) (q : SearchReq) : Bool :=
  decide (q.ready ≤ s.time.now) && ((askerEngine q).all fun e => (engOf s e).pool)
    && match askerSlot q.asker with
      | some slot => roomFor s slot
      | none => true

/-! ## Delivery (07 R228, R229, R243 to R247) -/

def worstEcc : Ecc → Ecc → Ecc
  | .double, _ => .double
  | _, .double => .double
  | .single, _ => .single
  | _, .single => .single
  | _, _ => .ok

/-- The action word read of the local winner of a search issued in a cycle: an error stays in the store until a step 2
rewrites the entry, is reported, and a double one means FAULT (07 R229). -/
def readAction (s : State) (f : Found) (issue : Nat) (ecc : Ecc) (handle : W32) : State × Found :=
  let own := f.hit && f.index.toNat / 2 ^ 18 == s.mortise.position.toNat
  if ¬ own then (s, f)
  else
    let e := f.index.toNat % 2 ^ 18
    let cur := entryOf s e
    let same := decide (cur.wroteAt ≤ issue)
    let x := worstEcc ecc (if same then worstEcc f.ecc cur.ecc else f.ecc)
    let s := if same && x != cur.ecc then setEntry s e { cur with ecc := x } else s
    match x with
    | .ok => (s, f)
    | .single => (raise s .mortiseEccCorrected (mortisePlace s e) e, f)
    | .double => (raise s .mortiseEcc (mortisePlace s e) e handle.toNat, { f with fault := true })

/-- A remote search is over: its result frame has gone by, or its origin has given it up (07 R247). -/
def remoteOver (s : State) (origin : BitVec 2) (tag : BitVec 10) (x : Search) : Bool :=
  match x.req.asker with
  | .remote o t _ _ => (o == origin && t == tag) || decide (x.issue + searchDelay s + 256 < s.time.now)
  | _ => false

/-- A cascade key frame's search is granted the slot of this cycle (07 R244, R246). -/
def issueRemote (s : State) (q : SearchReq) : State :=
  match q.asker with
  | .remote origin tag cursor start =>
    let above : Option (BitVec 20) := if start = 0xFFFFF then none else some start
    let found := if cursor then findAbove s q.key q.tagBase q.tagLimit above else findLocal s q.key q.tagBase q.tagLimit
    let r := readAction s found s.time.now q.ecc 0
    let m := r.1.mortise
    let x : Search := { id := m.nextId, issue := s.time.now, found := r.2, tag := tag, req := q }
    { r.1 with mortise := { m with
        nextId := m.nextId + 1, keyAt := s.time.now + 1
        searches := (m.searches.filter fun y => !remoteOver s origin tag y) ++ [x] } }
  | _ => s

/-- The search arbiter grants one search of this cycle: incoming key frames first (08 R286). -/
def grantSearch (s : State) : State :=
  let del (s : State) (q : SearchReq) : State :=
    { s with mortise := { s.mortise with waiting := s.mortise.waiting.erase q } }
  match pickLevel 1 1 0 s.mortise.waiting with
  | some q => issueRemote (del s q) q
  | none =>
    if ¬ slotFree s then s
    else
      let ws := s.mortise.waiting.filter (mayAsk s)
      match pickLevel 2 8 s.mortise.ptr2 ws with
      | some q => issueSearch (del { s with mortise := { s.mortise with ptr2 := q.order } } q) q
      | none =>
        match pickLevel 3 25 s.mortise.ptr3 ws with
        | some q => issueSearch (del { s with mortise := { s.mortise with ptr3 := q.order } } q) q
        | none =>
          match pickLevel 4 1 0 ws with
          | some q => issueSearch (del s q) q
          | none => s

/-- Searches of a request that have not been delivered are no longer awaited. -/
def dropSearches (s : State) (keep : SearchReq → Bool) : State :=
  { s with mortise := { s.mortise with
      waiting := s.mortise.waiting.filter keep
      searches := s.mortise.searches.filter fun x => keep x.req } }

def satCount (n : Nat) : BitVec 2 := BitVec.ofNat 2 (min n 2)

def frameOf (origin : BitVec 2) (tag : BitVec 10) (f : Found) : ResultFrame :=
  { origin, tag, hit := f.hit, priority := f.priority, index := f.index, matchCount := satCount f.matchCount,
    tieCount := satCount f.tieCount, suspect := f.suspect, fault := f.fault, action := f.action }

def foundOf (f : ResultFrame) : Found :=
  { hit := f.hit, index := f.index, priority := f.priority, action := f.action, matchCount := f.matchCount.toNat,
    tieCount := f.tieCount.toNat, suspect := f.suspect, fault := f.fault }

/-- A better winner: higher priority, or equal priority and lower index; a cursor step wants the lower index
(07 R244). -/
def better (cursor : Bool) (a b : Found) : Bool :=
  a.hit && (!b.hit || if cursor then decide (a.index.toNat < b.index.toNat)
    else decide (a.priority.toNat > b.priority.toNat)
      || (a.priority == b.priority && decide (a.index.toNat < b.index.toNat)))

/-- A stack merges its local result into a result frame (07 R244). -/
def mergeFound (cursor : Bool) (f l : Found) : Found :=
  let w := if better cursor l f then l else f
  let ties :=
    if f.hit && l.hit && f.priority == l.priority then min 2 (f.tieCount + l.tieCount) else w.tieCount
  { w with matchCount := min 2 (f.matchCount + l.matchCount), tieCount := ties
           suspect := f.suspect || l.suspect
           fault := f.fault || l.fault }

def searchById (s : State) (id : Nat) : Option Search := s.mortise.searches.find? fun x => x.id == id
def dropSearch (s : State) (id : Nat) : State :=
  { s with mortise := { s.mortise with searches := s.mortise.searches.filter fun x => x.id != id } }
def replaceSearch (s : State) (x : Search) : State :=
  { s with mortise := { s.mortise with searches := s.mortise.searches.map fun y => if y.id = x.id then x else y } }

def searchHandle (s : State) (q : SearchReq) : W32 :=
  match askerId s q.asker with
  | some (h, _, _) => h
  | none => 0

/-- What a result event of a search does: nothing yet, or the result is there with its search. -/
inductive Delivery
  | wait (s : State)
  | result (s : State) (x : Search) (f : Found)

/-- A search's result event: in cycle issue + 20 the local result is ready; in a cascade it leaves in a result frame and
the merged result is delivered in cycle issue + 20 + 10 × Size (07 R226, R245). -/
def takeResult (s : State) (id : Nat) (ecc : Ecc) : Delivery :=
  match searchById s id with
  | none => .wait s
  | some x =>
    if x.back || !(cascaded s || x.sent) then
      if s.time.now < x.issue + searchDelay s then .wait s
      else if x.back then .result (dropSearch s id) x x.found
      else
        let r := readAction s x.found x.issue ecc (searchHandle s x.req)
        .result (dropSearch r.1 id) x r.2
    else if x.sent || s.time.now < x.issue + 20 then .wait s
    else
      let r := readAction s x.found x.issue ecc (searchHandle s x.req)
      let s := replaceSearch r.1 { x with sent := true, found := r.2 }
      .wait { s with mortise := { s.mortise with
        outFrames := .result (frameOf (posBits s) x.tag r.2) :: s.mortise.outFrames } }

/-- An incoming key frame is forwarded until it returns to its origin, and asks for the first free search slot, that of
the next cycle (07 R244, R246; 08 R287). -/
def execCascadeKeyFrame (frame : KeyFrame) (crc : W16) (ecc : Ecc) (s : State) : Host.Outcome State Fault Refusal :=
  if ¬ (nodeUp s ∧ cascaded s) then .next s
  else if crc ≠ KeyFrame.crc frame then
    done (raise { s with mortise := { s.mortise with framesDropped := s.mortise.framesDropped + 1 } }
      .cascadeCrc (hostPlace 10) frame.origin.toNat)
  else if frame.origin = posBits s then .next s
  else
    .next (askSearch { s with mortise := { s.mortise with outFrames := .key frame :: s.mortise.outFrames } }
      { asker := .remote frame.origin frame.tag frame.cursor frame.start, key := frame.key, tagBase := frame.tagBase
        tagLimit := frame.tagLimit, level := 1, order := 0, ecc := ecc })

/-- The search of a cascade at its origin, waiting for its result frame: not after issue + 20 + 10 × Size + 256 (07 R247). -/
def awaited (s : State) (tag : BitVec 10) (x : Search) : Bool :=
  x.sent && !x.back && x.tag == tag && decide (s.time.now ≤ x.issue + searchDelay s + 256)

/-- The search that a result frame of another stack belongs to. -/
def ofFrame (f : ResultFrame) (x : Search) : Bool :=
  match x.req.asker with
  | .remote o t _ _ => o == f.origin && t == f.tag
  | _ => false

/-- An incoming result frame: merged with the local result and forwarded, or kept at its origin until its cycle
(07 R244, R245). A frame whose key frame was dropped here, or whose search has timed out, is discarded (07 R247). -/
def execCascadeResultFrame (frame : ResultFrame) (crc : W16) (s : State) : Host.Outcome State Fault Refusal :=
  if ¬ (nodeUp s ∧ cascaded s) then .next s
  else if crc ≠ ResultFrame.crc frame then
    done (raise { s with mortise := { s.mortise with framesDropped := s.mortise.framesDropped + 1 } }
      .cascadeCrc (hostPlace 10) frame.origin.toNat)
  else if frame.origin = posBits s then
    match s.mortise.searches.find? (awaited s frame.tag) with
    | some x => .next (replaceSearch s { x with back := true, found := foundOf frame })
    | none => .next s
  else
    match s.mortise.searches.find? (ofFrame frame) with
    | some x =>
      let cursor := match x.req.asker with
        | .remote _ _ c _ => c
        | _ => false
      let f := mergeFound cursor (foundOf frame) x.found
      let s := dropSearch s x.id
      .next { s with mortise := { s.mortise with
        outFrames := .result (frameOf frame.origin frame.tag f) :: s.mortise.outFrames } }
    | none => .next s

/-! ## Updates (07 R234 to R239) -/

/-- A step has changed an entry: its shadow refresh is queued (07 R237), and the cycle is kept for the scrubber
(R251). -/
def noteStep (s : State) (e : Nat) : State :=
  { s with mortise := { s.mortise with
      refresh := insertAsc e s.mortise.refresh
      stepped := (s.time.now, e) :: s.mortise.stepped.filter fun x => x.1 == s.time.now } }

/-- An enabled field has lo above hi. -/
def badRange (m : MImage) : Bool :=
  (List.range 8).any fun k => m.enables.getLsbD k && decide ((m.lo.getD k 0).toNat > (m.hi.getD k 0).toNat)

def step1 (s : State) (e : Nat) : State :=
  let v := entryOf s e
  if v.st = .empty then s else noteStep (setEntry s e { v with st := .empty }) e

/-- A management step through 0x2401:02 on the window's entry; none while Bulk Update runs (07 R239). -/
def mgmtStep (f : Nat → State → WriteRes) (s : State) : WriteRes :=
  guardWrite s (s.mortise.bulkSt == .running) rsBusy (f s.mortise.winEntry.toNat)

/-- 0x2401:02 ← 1 (07 R236). -/
def invalidateStep : State → WriteRes := mgmtStep fun e s => .ok (step1 s e)

/-- 0x2401:02 ← 2 (07 R236). -/
def writeStep : State → WriteRes :=
  mgmtStep fun e s =>
    guardWrite s ((entryOf s e).st == .valid) rsEntry fun s =>
      if badRange s.mortise.winImage then .abort abRange 0 s
      else .ok (noteStep (setEntry s e { image := s.mortise.winImage, st := .written, wroteAt := s.time.now + 1 }) e)

/-- 0x2401:02 ← 3 (07 R236). -/
def validateStep : State → WriteRes :=
  mgmtStep fun e s =>
    guardWrite s ((entryOf s e).st != .written) rsEntry fun s =>
      .ok (noteStep (setEntry s e { entryOf s e with st := .valid }) e)

def execMortiseInvalidate (path : Path) (s : State) : Host.Outcome State Fault Refusal :=
  mgmtWrite s path 0x2401 2 invalidateStep
def execMortiseWrite (path : Path) (s : State) : Host.Outcome State Fault Refusal := mgmtWrite s path 0x2401 2 writeStep
def execMortiseValidate (path : Path) (s : State) : Host.Outcome State Fault Refusal :=
  mgmtWrite s path 0x2401 2 validateStep

/-- 0x2401:0D of an entry: its state and SUSPECT (07 R234). -/
def entryState (v : MEntry) : Byte :=
  (match v.st with
    | .empty => 0
    | .written => 1
    | .valid => 2) ||| (if v.suspect then 0x80 else 0)

/-- 0x2401:01: the window shows the entry named (07 R234). -/
def windowEntry (value : W32) (s : State) : WriteRes :=
  if value.toNat > 262143 then .abort abRange 0 s
  else
    let v := entryOf s value.toNat
    .ok { s with mortise := { s.mortise with winEntry := value, winImage := v.image, winState := entryState v } }

def execUpdateWindowEntry (path : Path) (value : W32) (s : State) : Host.Outcome State Fault Refusal :=
  mgmtWrite s path 0x2401 1 (windowEntry value)

/-- 0x2402:03 ← RUN (07 R238, R239). -/
def bulkRun (s : State) : WriteRes :=
  guardWrite s (s.mortise.bulkSt == .running) rsBusy fun s =>
    guardWrite s (s.mortise.bulkCount == 0) 0 fun s =>
      let n := s.mortise.bulkCount.toNat
      let s := { s with mortise := { s.mortise with
        bulkSt := .running, bulkApplied := 0, bulkFailing := 0, bulkTotal := n, bulkLastAt := 0 } }
      .ok (startJob s .bulk (weightPort s) s.mortise.bulkAddr (128 * n))

def execBulkUpdateRun (path : Path) (s : State) : Host.Outcome State Fault Refusal := mgmtWrite s path 0x2402 3 bulkRun

/-- `n` bytes of a job from an offset, if all have been read. -/
def jobSlice (j : Job) : Nat → Nat → Option (List Byte)
  | _, 0 => some []
  | o, n + 1 => match jobByte j o, jobSlice j (o + 1) n with
    | some b, some t => some (b :: t)
    | _, _ => none

/-- A READ of the job that touches a range is still out. -/
def readOut (s : State) (j : Job) (lo hi : Nat) : Bool :=
  let p := portOf s j.port
  (p.reads ++ p.readsWaiting).any fun m => match m.purpose with
    | .job k off => k == j.key && decide (off < hi) && decide (lo < off + m.len)
    | _ => false

/-- The 80-byte image (07 R219). -/
def readImage (b : List Byte) : MImage :=
  { lo := (List.range 8).map fun k => BitVec.ofNat 32 (leAt b (8 * k) 4)
    hi := (List.range 8).map fun k => BitVec.ofNat 32 (leAt b (8 * k + 4) 4)
    action := BitVec.ofNat 64 (leAt b 64 8)
    priority := BitVec.ofNat 12 (leAt b 72 2)
    enables := byteAt b 74 }

/-- The image as 80 bytes. -/
def imageBytes (m : MImage) : List Byte :=
  (List.range 8).flatMap (fun k => leBytes 4 (m.lo.getD k 0).toNat ++ leBytes 4 (m.hi.getD k 0).toNat)
    ++ leBytes 8 m.action.toNat ++ leBytes 2 m.priority.toNat ++ [m.enables] ++ List.replicate 5 0

def bulkFail (s : State) (k : Nat) : State :=
  dropJob { s with mortise := { s.mortise with bulkSt := .failed, bulkFailing := BitVec.ofNat 32 k } } .bulk

/-- A record of the bulk list has been applied: the count, and DONE after the last (07 R238). -/
def bulkRecordDone (s : State) : State :=
  let k := s.mortise.bulkApplied.toNat + 1
  let s := { s with mortise := { s.mortise with bulkApplied := BitVec.ofNat 32 k } }
  if k = s.mortise.bulkTotal then dropJob { s with mortise := { s.mortise with bulkSt := .done } } .bulk else s

/-- One record of a bulk list begins: step 1, and for a replace steps 2 and 3 in the two cycles after it (07 R239). -/
def bulkApply (s : State) (b : List Byte) : State :=
  let e := leAt b 0 4 % 2 ^ 18
  let s := step1 { s with mortise := { s.mortise with bulkLastAt := s.time.now } } e
  if (byteAt b 4).getLsbD 0 then bulkRecordDone s
  else
    let s := noteStep s e
    { s with mortise := { s.mortise with bulkStep := some { entry := e, image := readImage (b.drop 16) } } }

/-- Steps 2 and 3 of a replace, each after the search of its cycle has been issued (07 R227, R239). -/
def bulkCycle (s : State) : State :=
  match s.mortise.bulkStep with
  | none => s
  | some x =>
    if x.third then
      let s := noteStep (setEntry s x.entry { entryOf s x.entry with st := .valid }) x.entry
      bulkRecordDone { s with mortise := { s.mortise with bulkStep := none } }
    else
      let s := noteStep (setEntry s x.entry { image := x.image, st := .written, wroteAt := s.time.now + 1 }) x.entry
      { s with mortise := { s.mortise with bulkStep := some { x with third := true } } }

/-- The next record of the list, at most one every 8 ac (07 R239). -/
def execBulkUpdateRecord (s : State) : Host.Outcome State Fault Refusal :=
  match jobOf s .bulk with
  | some j =>
    let k := s.mortise.bulkApplied.toNat
    if ¬ (coreRuns s ∧ s.mortise.bulkSt = .running ∧ s.mortise.bulkStep = none
        ∧ (k = 0 ∨ s.time.now ≥ s.mortise.bulkLastAt + 8)) then .next s
    else match jobSlice j (128 * k) 128 with
      | some b =>
        if ¬ (byteAt b 4).getLsbD 0 ∧ badRange (readImage (b.drop 16)) then .next (bulkFail s k)
        else .next (bulkApply s b)
      | none =>
        if j.failed.isSome && !readOut s j (128 * k) (128 * k + 128) then
          done (raise (bulkFail s k) .hostWrite (hostPlace j.port.val) (j.failed.getD 0).toNat)
        else .next s
  | none => .next s

/-! ## Cursor and key capture (07 R230 to R233) -/

/-- A cursor step is asked for; a step that a write of the key has abandoned is no longer awaited. -/
def cursorAsk (s : State) (above : Option (BitVec 20)) : State :=
  let s := dropSearches s fun q => q.asker != .cursor
  let m := s.mortise
  askSearch { s with mortise := { m with curSt := .busy } }
    { asker := .cursor, key := m.curKey, tagBase := m.curTagBase, tagLimit := m.curTagLimit, level := 4, order := 0,
      above := above }

/-- 0x2403:0B ← FIRST (07 R231). -/
def cursorFirst (s : State) : WriteRes :=
  guardWrite s (s.mortise.curSt == .busy) rsBusy fun s => .ok (cursorAsk s none)

/-- 0x2403:0B ← NEXT (07 R231). -/
def cursorNext (s : State) : WriteRes :=
  guardWrite s (s.mortise.curSt == .busy) rsBusy fun s =>
    .ok (cursorAsk s (if s.mortise.curSt = .none then none else some s.mortise.curIndex))

def execCursorFirst (path : Path) (s : State) : Host.Outcome State Fault Refusal := mgmtWrite s path 0x2403 0x0B cursorFirst
def execCursorNext (path : Path) (s : State) : Host.Outcome State Fault Refusal := mgmtWrite s path 0x2403 0x0B cursorNext

/-- The result of a cursor step (07 R231): a FAULT of the merged result shows zeros, a double-bit error the entry. -/
def cursorResult (s : State) (merged : Bool) (f : Found) : State :=
  let m := s.mortise
  { s with mortise :=
      if f.fault && merged then { m with curSt := .fault, curIndex := 0, curPriority := 0, curAction := 0 }
      else if f.fault then
        { m with curSt := .fault, curIndex := f.index, curPriority := f.priority, curAction := 0, curSuspect := f.suspect }
      else if f.hit then
        { m with curSt := .valid, curIndex := f.index, curPriority := f.priority, curAction := f.action
                 curSuspect := f.suspect }
      else { m with curSt := .endd } }

/-- The search of a cursor step. -/
def cursorSearch (s : State) : Option Search := s.mortise.searches.find? fun x => x.req.asker == .cursor

/-- A cursor step completes (07 R231). -/
def execCursorStepDone (ecc : Ecc) (s : State) : Host.Outcome State Fault Refusal :=
  match cursorSearch s with
  | none => .next s
  | some x =>
    if ¬ coreRuns s then .next s
    else match takeResult s x.id ecc with
      | .wait s => done s
      | .result s x f => done (if s.mortise.curSt = .busy then cursorResult s x.back f else s)

/-- 0x2404:04: arm or disarm (07 R233). -/
def keyArm (value : Byte) (s : State) : WriteRes :=
  if value.toNat > 1 then .abort abRange 0 s else .ok { s with mortise := { s.mortise with capState := value } }

def execKeyCaptureArm (path : Path) (value : Byte) (s : State) : Host.Outcome State Fault Refusal :=
  mgmtWrite s path 0x2404 4 (keyArm value)

/-! ## Shadow and scrubbing (07 R237, R248 to R252) -/

def shadowOf (e : MEntry) : Shadow := { image := e.image, st := e.st }

/-- Every shadow slot is written to match its entry (07 R248). -/
def rewriteShadow (s : State) : State :=
  { s with mortise := { s.mortise with
      shadow := (s.mortise.entries.map fun e => (e.1, shadowOf e.2)).filter fun e => decide (e.2 ≠ {})
      refresh := [] } }

/-- The background refresh of an entry writes its latest image and state (07 R237). -/
def execShadowRefresh (entry : BitVec 18) (s : State) : Host.Outcome State Fault Refusal :=
  let e := entry.toNat
  if coreRuns s && s.mortise.refresh.contains e then
    .next { s with mortise := { s.mortise with
      shadow := Tbl.put {} s.mortise.shadow e (shadowOf (entryOf s e))
      refresh := s.mortise.refresh.filter fun x => x != e } }
  else .next s

/-- The HBM location of a byte of a linear region (11 R373, R376; 17 R500). -/
def linearLocation (s : State) (region off : Nat) : Nat :=
  let q := off / 65536
  let base := ((s.stream.regions[region]?).map (·.base.toNat)).getD 0
  ((q % 8) * 2 ^ 19 + base + q / 8) * 65536 + off % 65536

/-- An update step uses the update port in this cycle (08 R286). -/
def portStepped (s : State) : Bool := s.mortise.stepped.any fun x => x.1 == s.time.now

/-- The scrubber compares one entry with its shadow slot (07 R250 to R252). A step of the cycle goes first and the visit
follows 1 ac later (08 R287). -/
def execScrubVisit (shadowError : Bool) (s : State) : Host.Outcome State Fault Refusal :=
  let m := s.mortise
  if ¬ (nodeUp s ∧ m.scrubOn = 1 ∧ s.time.now ≥ m.scrubLast + m.scrubInterval.toNat) ∨ portStepped s then .next s
  else
    let e := m.scrubAt
    let last := decide (e + 1 ≥ 262144)
    let s := { s with mortise := { m with
      scrubAt := if last then 0 else e + 1, scrubLast := s.time.now, sweeps := if last then m.sweeps + 1 else m.sweeps } }
    if m.refresh.contains e then .next s
    else if shadowError then
      done (raise s .hbmUncorrected (stackPlace s 4 (e / 512 % 8 / 2)) (linearLocation s 7 (128 * e)))
    else
      let v := entryOf s e
      if shadowOf v = Tbl.get {} m.shadow e then .next s
      else
        let s := setEntry s e { v with suspect := true }
        let s := { s with mortise := { s.mortise with
          mismatches := s.mortise.mismatches + 1, lastMismatch := BitVec.ofNat 32 e } }
        done (if v.suspect then s else raise s .mortiseSuspect (mortisePlace s e) e)

/-- Suspect Entries 0x2410:05. -/
def suspectCount (s : State) : Nat := (s.mortise.entries.filter fun e => e.2.suspect).length

end Sys2Proof.Machine
end

