-- ==== Sys2Proof/Machine/Power.lean ====
section
/-! DEFINITION. Supply, sensors, clocks and the two resets (18 R525, R526, R531 to R541). -/
namespace Sys2Proof.Machine
open Sys2Proof

/-- Every table, register and count at its default (18 R539; 16 R476): what a reset keeps is the queue, the fuses,
the TAP, what has been sensed of DBG_LOCK and the counter of free values. -/
def clearAll (s : State) : State :=
  { ({} : State) with
    pending := s.pending, fuse := s.fuse, tap := s.tap, sensed := s.sensed,
    time := { freeIdx := s.time.freeIdx } }

/-- The error register is formed (17 R503). -/
def formRegister (s : State) : State := { s with err := { s.err with lastReg := errorRegister s } }

/-- PORST_N is asserted (18 R534, R539). -/
def execPowerOnReset (s : State) : Host.Outcome State Fault Refusal :=
  let pins : PowerState :=
    { power := s.pwr.power, porst := true, hrst := s.pwr.hrst, railsGood := s.pwr.railsGood, trip := s.pwr.trip,
      stopped := s.pwr.stopped, drooping := s.pwr.drooping }
  match s.pwr.power with
  | .off | .ramp => .next { s with pwr := { s.pwr with porst := true } }
  | _ =>
    .next { clearAll s with
      pwr := { pins with power := .reset }
      sensed := { dbgLock := s.fuse.dbgLock, byPorst := true } }

/-- HRST_N is asserted: the power controller, the sensors and ALERT_N keep running (18 R539). -/
def execHostReset (s : State) : Host.Outcome State Fault Refusal :=
  match s.pwr.power with
  | .off | .ramp => .next { s with pwr := { s.pwr with hrst := true } }
  | _ =>
    .next (formRegister { clearAll s with
      pwr := { s.pwr with power := .reset, hrst := true, holdInternal := false, alertAt := 9500 }
      sensed := { dbgLock := s.sensed.dbgLock, byPorst := s.sensed.byPorst && s.pwr.porst } })

/-- Both resets are deasserted after their crossing: the reference STEP level is taken (02 R25) and start-up begins at
fuse sense, unless the release came before rails good (18 R533, R534). -/
def execResetRelease (stepLevel : Bool) (s : State) : Host.Outcome State Fault Refusal :=
  if ¬ s.pwr.porst ∧ ¬ s.pwr.hrst then .next s
  else
    let s := { s with tick := { s.tick with refLevel := stepLevel }
                      pwr := { s.pwr with porst := false, hrst := false } }
    if s.pwr.power = .reset ∧ s.pwr.railsGood then .next { s with pwr := { s.pwr with power := .active } }
    else .next s

/-- The internal reset held since rails good ends (18 R533). -/
def execInternalResetRelease (s : State) : Host.Outcome State Fault Refusal :=
  if s.pwr.power = .reset ∧ s.pwr.holdInternal ∧ ¬ s.pwr.porst ∧ ¬ s.pwr.hrst then
    .next { s with pwr := { s.pwr with power := .active, holdInternal := false } }
  else .next s

/-- VIN rises through 40 V (18 R534). -/
def execVinRise (s : State) : Host.Outcome State Fault Refusal :=
  if s.pwr.power = .off then .next { s with pwr := { s.pwr with power := .ramp } } else .next s

/-- The core rails are in regulation; with both resets already released, the internal reset is held (18 R533). -/
def execRailsGood (s : State) : Host.Outcome State Fault Refusal :=
  if s.pwr.power = .ramp then
    .next { s with pwr := { s.pwr with power := .reset, railsGood := true,
                                       holdInternal := !s.pwr.porst && !s.pwr.hrst } }
  else .next s

/-- The newest entry of a floor fails its check bits. -/
def spoilLast {α} (l : List (α × Bool)) : List (α × Bool) :=
  match l.getLast? with
  | some e => l.dropLast ++ [(e.1, false)]
  | none => l

/-- A loss of power within 1 ms of a floor's raise may cut the programming of its entry short: how long the programming
takes is not said, so a free bit says which (19 R550; log 100). -/
def cutRaise (s : State) : State :=
  if (s.boot.raisedL || s.boot.raisedT) && decide (s.time.now < s.boot.raisedAt + 2000000) then
    let a := takeBit s
    let b := takeBit a.2
    let f := s.fuse
    { b.2 with fuse := { f with
        lilenFloors := if s.boot.raisedL && a.1 then spoilLast f.lilenFloors else f.lilenFloors
        tileFloors := if s.boot.raisedT && b.1 then spoilLast f.tileFloors else f.tileFloors } }
  else s

/-- The lockout's effect: everything but the fuses is lost (18 R531, R534). -/
def lockout (s : State) : State :=
  if s.pwr.power = .off then s
  else { clearAll (cutRaise s) with
    tap := {}
    sensed := { dbgLock := s.fuse.dbgLock }
    pwr := { power := .off, porst := s.pwr.porst, hrst := s.pwr.hrst, railsGood := false, stopped := s.pwr.stopped } }

/-- VIN outside the lockout limits (18 R531). Above 60 V damage may follow: a free bit says whether it does, and where it
does not the lockout has its effect (log 78). -/
def execSupplyLockout (mV : W32) (s : State) : Host.Outcome State Fault Refusal :=
  if mV.toNat > 60000 then
    let b := takeBit s
    if b.1 then .fault .absoluteMaximum else .next (lockout b.2)
  else if mV.toNat < 38000 ∨ mV.toNat > 52000 then .next (lockout s)
  else .next s

/-- The power controller and the sensors run: from rails good on, but not while PORST_N is asserted (18 R539). -/
def sensorsRun (s : State) : Bool := (s.pwr.power == .reset || s.pwr.power == .active) && !s.pwr.porst

/-- Raised only where the dictionary is out of reset. -/
def raiseIf (c : Bool) (s : State) (code : ErrCode) (place : Place) (a b : Nat) : State :=
  if c && s.pwr.power == .active then raise s code place a b else s

/-- The 10 µs supply sample, with 0.5 V and 0.5 A of hysteresis (18 R531; 17 R503). -/
def execSupplySample (mV : W16) (mA : W32) (s : State) : Host.Outcome State Fault Refusal :=
  if ¬ sensorsRun s then .next s
  else
    let v := mV.toNat
    let i := mA.toNat
    let ov := if s.pwr.overVolt then decide (v < 40500 ∨ v > 47500) else decide (v < 40000 ∨ v > 48000)
    let oc := if s.pwr.overCurr then decide (i > 18500) else decide (i > 19000)
    let newV := ov && !s.pwr.overVolt
    let newC := oc && !s.pwr.overCurr
    let s := { s with pwr := { s.pwr with voltage := mV, current := mA, power_mW := BitVec.ofNat 32 (v * i / 1000),
                                          overVolt := ov, overCurr := oc } }
    let s := raiseIf newV s .supplyRange (stackPlace s 10 0) v i
    let s := raiseIf newC s .supplyRange (stackPlace s 10 0) v i
    done s

/-- The highest of signed readings and its place, the first of equal ones. -/
def hottestOf : List W16 → Nat → Option (W16 × Nat) → Option (W16 × Nat)
  | [], _, best => best
  | r :: t, i, none => hottestOf t (i + 1) (some (r, i))
  | r :: t, i, some (b, j) => hottestOf t (i + 1) (if r.toInt > b.toInt then some (r, i) else some (b, j))

/-- The 10 µs sensor sample: Hottest Sensor, ALERT_N with 2.00 °C of hysteresis, THERMTRIP_N (18 R535, R536). -/
def execSensorSample (readings : List W16) (s : State) : Host.Outcome State Fault Refusal :=
  if ¬ sensorsRun s then .next s
  else match hottestOf readings 0 none with
    | none => .next s
    | some (h, i) =>
      let al := if s.pwr.alert then decide (h.toInt ≥ s.pwr.alertAt.toInt - 200)
                else decide (h.toInt ≥ s.pwr.alertAt.toInt)
      let trip := s.pwr.trip || (readings.take 72).any (fun r => decide (r.toInt ≥ 11000))
      let new := al && !s.pwr.alert
      let s := { s with pwr := { s.pwr with hottest := h, alert := al, trip := trip } }
      done (raiseIf new s .thermalAlert (stackPlace s 12 i) h.toNat 0)

/-- An HBM4 stack signals its catastrophic temperature condition: THERMTRIP_N asserts and latches (18 R536). -/
def execHbm4CatastrophicTemperature (_stack : Fin 4) (s : State) : Host.Outcome State Fault Refusal :=
  if s.pwr.power = .reset ∨ s.pwr.power = .active then .next { s with pwr := { s.pwr with trip := true } } else .next s

/-- A clock stops, and the work that needs it with it (18 R526). -/
def execClockLoss (src : ClockSrc) (s : State) : Host.Outcome State Fault Refusal :=
  if s.pwr.stopped.contains src then .next s
  else .next { s with pwr := { s.pwr with stopped := src :: s.pwr.stopped } }

/-- A stopped clock returns. The state is not guaranteed (18 R526): a free state, but for what the stopped clocks do
not reach (the queue, the power controller and sensors, the fuses, the TAP). -/
def execClockReturn (src : ClockSrc) (s : State) : Host.Outcome State Fault Refusal :=
  if s.pwr.stopped.contains src then
    let f := lostState s.time.freeIdx
    .next (formRegister { f with
      pending := s.pending, fuse := s.fuse, tap := s.tap,
      pwr := { s.pwr with stopped := s.pwr.stopped.filter (fun c => c != src) }
      time := { f.time with freeIdx := s.time.freeIdx + 1 } })
  else .next s

/-- A dense quadrant's clock is stretched while its rail droops (18 R525). -/
def execDroop (quadrant : Fin 4) (s : State) : Host.Outcome State Fault Refusal :=
  if s.pwr.power = .active ∧ ¬ s.pwr.drooping.contains quadrant then
    .next { s with pwr := { s.pwr with drooping := quadrant :: s.pwr.drooping } }
  else .next s

/-- The rail has recovered (18 R525). -/
def execDroopRecovery (quadrant : Fin 4) (s : State) : Host.Outcome State Fault Refusal :=
  .next { s with pwr := { s.pwr with drooping := s.pwr.drooping.filter (fun q => q != quadrant) } }

/-- A droop beyond 256 ac is reported, and the tiles in flight on the quadrant's engines carry FAULT (18 R525; the
bent is the quadrant's lower one, log 14). -/
def execDroopOverlimit (quadrant : Fin 4) (s : State) : Host.Outcome State Fault Refusal :=
  if coreRuns s && s.pwr.drooping.contains quadrant then
    let q := quadrant.val
    let mark (e : Nat) (v : Engine) : Engine :=
      if 8 * q ≤ e ∧ e < 8 * q + 8 then { v with running := v.running.map fun t => { t with fault := true } } else v
    let s := { s with eng := { s.eng with engines := s.eng.engines.map fun e => (e.1, mark e.1 e.2) } }
    done (raise s .eccUncorrected (bentPlace (2 * q) 2))
  else .next s

end Sys2Proof.Machine
end

