-- ==== Sys2Proof/Machine/Boot.lean ====
section
/-! DEFINITION. The start-up sequence, firmware versions, floors, identity and evidence (19 R542 to R552). -/
namespace Sys2Proof.Machine
open Sys2Proof

/-- Start-up is at a step and its clocks run. -/
def bootAt (s : State) (b : Boot) : Bool := s.pwr.power == .active && s.boot.step == b
def setBoot (s : State) (b : Boot) : State := { s with boot := { s.boot with step := b } }

/-- Step 5: the fuses are sensed. A bad entry is ignored; a bad UDS or key hash is reported and stops Bruvar after
step 6. DBG_LOCK takes effect from a PORST_N only (19 R554). -/
def execFuseSenseDone (check : FuseCheck) (s : State) : Host.Outcome State Fault Refusal :=
  if ¬ bootAt s .fuseSense then .next s
  else
    let lock := if s.sensed.byPorst then s.fuse.dbgLock && !check.lockBad else s.sensed.dbgLock
    let s := { s with
      sensed := { dbgLock := lock, serial := if check.serialBad then 0 else s.fuse.serial, udsBad := check.udsBad,
                  byPorst := false }
      boot := { s.boot with step := .pll, stopAfterPll := check.udsBad || check.keyBad } }
    let s := if check.udsBad then raise s .eccUncorrected (stackPlace s 8 0) else s
    let s := if check.keyBad then raise s .eccUncorrected (stackPlace s 8 0) else s
    done s

/-- Step 6: the PLLs lock and the stamp counter starts at 0 (02 R31). -/
def execPllLock (s : State) : Host.Outcome State Fault Refusal :=
  if bootAt s .pll && !s.pwr.stopped.contains .refclk then
    .next { s with
      time := { s.time with now := 0 }
      pwr := { s.pwr with stopped := [] }
      boot := { s.boot with step := if s.boot.stopAfterPll then .halted else .hbm } }
  else .next s

/-- Step 7: the four stacks train in parallel; each one that fails is reported, and any failure stops bring-up
(01 R5). Bit i of `failed` is stack i. -/
def execHbmTrainingDone (failed : BitVec 4) (s : State) : Host.Outcome State Fault Refusal :=
  if ¬ (coreRuns s ∧ bootAt s .hbm) then .next s
  else if failed = 0 then .next (setBoot s .links)
  else done (([0, 1, 2, 3].filter fun i => failed.getLsbD i).foldl
    (fun s i => raise s .hbmUncorrected (stackPlace s 4 i)) (setBoot s .halted))

/-- One port after training: UP at 64 or 32 lanes, or DOWN and reported (19 R542 step 8). -/
def trainPort (up half : BitVec 8) (s : State) (p : Fin 8) : State :=
  if up.getLsbD p.val then
    modPort s p fun v => { v with link := .up, width := if half.getLsbD p.val then 32 else 64 }
  else
    let s := modPort s p fun v => { v with link := .down, width := 0, detected := v.detected + 1 }
    raise s .linkDown (hostPlace p.val)

def execLinkTrainingDone (up half : BitVec 8) (s : State) : Host.Outcome State Fault Refusal :=
  if ¬ (coreRuns s ∧ bootAt s .links) then .next s
  else done (setBoot (allPorts.foldl (trainPort up half) s) .selfTest)

/-- Step 9: failing units are reported, and stay in the plan pool. -/
def execSelfTestDone (failures : List DetErr) (s : State) : Host.Outcome State Fault Refusal :=
  if ¬ (coreRuns s ∧ bootAt s .selfTest) then .next s
  else
    let bad := failures.filter fun e => e.code == .eccUncorrected || e.code == .parity
    done (setBoot (bad.foldl (fun s e => raiseRec s { code := e.code, place := placeOf s e.place, argA := e.argA, argB := e.argB })
      s) .deviceId)

/-! ## Identity (19 R551) -/

/-- A signature (r in the high half, s in the low) as its two little-endian numbers, r first (19 R552; 00 R3). -/
def sigBytes (v : BitVec 768) : List Byte := leBytes 48 (v.toNat / 2 ^ 384) ++ leBytes 48 v.toNat

/-- The big-endian bytes of a value, for keys and for the signatures of images (19 R546, R552). -/
def beBytes (n v : Nat) : List Byte := (leBytes n v).reverse
def beNat (bs : List Byte) : Nat := leNat bs.reverse

def cdi0 (s : State) : BitVec 384 :=
  Config.hmacSha384 s.fuse.uds (leBytes 48 (Config.sha384 Config.bootRom).toNat)
def deviceKey (s : State) : BitVec 384 := Config.hmacSha384 (cdi0 s) [0x49, 0x44]
/-- The lock byte (19 R552 byte 198). -/
def lockByte (s : State) : Byte := (if s.sensed.dbgLock then 1 else 0) ||| (if s.tap.debugged then 2 else 0)

/-- A floor: the highest value among the good entries (19 R550). -/
def lilenFloor (s : State) : Nat := (s.fuse.lilenFloors.filter (·.2)).foldl (fun m e => max m e.1.toNat) 0
def tileFloor (s : State) : Nat := (s.fuse.tileFloors.filter (·.2)).foldl (fun m e => max m e.1.toNat) 0

def floorBytes (s : State) : List Byte := leBytes 4 (lilenFloor s) ++ leBytes 2 (tileFloor s)

def cdi1 (s : State) : BitVec 384 :=
  Config.hmacSha384 (cdi0 s) (leBytes 48 s.boot.mLilen.toNat ++ leBytes 48 s.boot.mTile.toNat ++ floorBytes s
    ++ [lockByte s])
def aliasKey (s : State) : BitVec 384 := Config.hmacSha384 (cdi1 s) [0x41, 0x4C, 0x49, 0x41, 0x53]

/-- Step 11 begins: the boot block is read (19 R544). -/
def startBootRead (s : State) : State :=
  startJob (setBoot s .bootBlock) .boot (weightPort s) 0x1000 128

/-- Step 10: the DeviceID key is derived, or Bruvar stops. -/
def execDeviceIdDerive (ok : Bool) (s : State) : Host.Outcome State Fault Refusal :=
  if ¬ (coreRuns s ∧ bootAt s .deviceId) then .next s
  else if ok then
    let pub := Config.p384Public (deviceKey s)
    let s := { s with boot := { s.boot with devicePub := pub, identity := Config.sha384 (beBytes 96 pub.toNat) } }
    .next (startBootRead s)
  else done (raise (setBoot s .halted) .eccUncorrected (stackPlace s 9 0))

/-! ## Boot block and images (19 R544 to R546) -/

/-- A failed attempt: the 10 ms wait begins, and step 11 will repeat. -/
def bootFail (s : State) (code : ErrCode) (place : Place) (a : Nat) : State :=
  let s := dropJob (dropJob (dropJob s .boot) .lilen) .tile
  raise { s with boot := { s.boot with step := .wait, waitSince := s.time.now } } code place a

/-- A failed read of a boot job (19 R544: HOST_WRITE). -/
def bootReadFail (s : State) (j : Job) : State :=
  bootFail s .hostWrite (hostPlace j.port.val) (j.failed.getD 0).toNat

/-- The boot block is accepted (19 R545). -/
def bootBlockGood (b : List Byte) : Bool :=
  leAt b 0 2 == 1 && leAt b 124 4 == (crc32c (b.take 124)).toNat && leAt b 8 8 % 64 == 0 && leAt b 24 8 % 64 == 0
    && leAt b 40 8 % 64 == 0

def execBootBlockRead (s : State) : Host.Outcome State Fault Refusal :=
  match jobOf s .boot with
  | some j =>
    if ¬ (coreRuns s ∧ bootAt s .bootBlock ∧ j.over) then .next s
    else if j.failed.isSome then done (bootReadFail s j)
    else
      let b := j.bytes
      if bootBlockGood b then
        let s := { dropJob s .boot with boot := { s.boot with
          lilenAddr := BitVec.ofNat 64 (leAt b 8 8), lilenLen := BitVec.ofNat 32 (leAt b 16 4)
          tileAddr := BitVec.ofNat 64 (leAt b 24 8), tileLen := BitVec.ofNat 32 (leAt b 32 4)
          evidenceAddr := BitVec.ofNat 64 (leAt b 40 8), nonce := BitVec.ofNat 256 (leAt b 48 32)
          step := .lilen } }
        .next (startJob s .lilen (weightPort s) s.boot.lilenAddr s.boot.lilenLen.toNat)
      else done (bootFail s .versions {} 0)
  | none => .next s

/-- The checks of an image, in the order of 19 R546; `maxLen` is the length limit of R545. -/
def imageGood (s : State) (img : List Byte) (kind : Nat) (maxLen floor : Nat) : Bool :=
  let signed := img.take 128 ++ img.drop 512
  let version := if kind = 1 then leAt img 4 4 else leAt img 4 2
  leAt img 0 2 == 1 && leAt img 2 1 == kind && img.length == 512 + leAt img 8 4 && decide (img.length ≤ maxLen)
    && Config.sha384 ((img.drop 128).take 96) == s.fuse.keyHash
    && Config.ecdsaVerify (BitVec.ofNat 768 (beNat ((img.drop 128).take 96))) (Config.sha384 signed)
        (BitVec.ofNat 768 (beNat ((img.drop 224).take 96)))
    && decide (version ≥ floor)

/-- The tested-pair table of a Lilen image (19 R547). -/
def pairTable (img : List Byte) : List (Byte × W16) :=
  (List.range (leAt img 16 2)).map fun i =>
    let o := 512 + leAt img 12 4 + 4 * i
    (byteAt img o, BitVec.ofNat 16 (leAt img (o + 2) 2))

/-- The 1,024 bytes of evidence (19 R552). -/
def evidence (s : State) : List Byte :=
  let aliasPub := Config.p384Public (aliasKey s)
  let head : List Byte := [1, 0, 0xB0, 0] ++ leBytes 4 s.boot.lilenVersion.toNat ++ leBytes 2 s.boot.tileVersion.toNat
    ++ List.replicate 6 0 ++ leBytes 32 s.boot.nonce.toNat ++ leBytes 48 s.boot.identity.toNat
    ++ leBytes 48 s.boot.mLilen.toNat ++ leBytes 48 s.boot.mTile.toNat ++ floorBytes s ++ [lockByte s, 0]
  let pubs := head ++ beBytes 96 s.boot.devicePub.toNat ++ beBytes 96 aliasPub.toNat
  let sig1 := Config.p384Sign (deviceKey s) (Config.sha384 ((head.drop 96).take 104 ++ beBytes 96 aliasPub.toNat))
  let upTo488 := pubs ++ sigBytes sig1
  upTo488 ++ sigBytes (Config.p384Sign (aliasKey s) (Config.sha384 upTo488)) ++ List.replicate 440 0

/-- A Lilen or tile image has been read (19 R546); after the tile image the evidence is written (R552). -/
def execImageLoad (s : State) : Host.Outcome State Fault Refusal :=
  match s.boot.step with
  | .lilen =>
    match jobOf s .lilen with
    | some j =>
      if ¬ (coreRuns s ∧ j.over) then .next s
      else if j.failed.isSome then done (bootReadFail s j)
      else
        let img := j.bytes
        if imageGood s img 1 16777216 (lilenFloor s) then
          let s := { dropJob s .lilen with boot := { s.boot with
            lilenVersion := BitVec.ofNat 32 (leAt img 4 4), planMin := BitVec.ofNat 16 (leAt img 18 2)
            planMax := BitVec.ofNat 16 (leAt img 20 2), raiseLilen := BitVec.ofNat 32 (leAt img 24 4)
            raiseTile := BitVec.ofNat 16 (leAt img 28 2), pairs := pairTable img
            mLilen := Config.sha384 (img.take 128 ++ img.drop 512), step := .tile } }
          .next (startJob s .tile (weightPort s) s.boot.tileAddr s.boot.tileLen.toNat)
        else done (bootFail s .versions {} 0)
    | none => .next s
  | .tile =>
    match jobOf s .tile with
    | some j =>
      if ¬ (coreRuns s ∧ j.over) then .next s
      else if j.failed.isSome then done (bootReadFail s j)
      else
        let img := j.bytes
        if imageGood s img 2 67108864 (tileFloor s) then
          let s := { dropJob s .tile with boot := { s.boot with
            tileVersion := BitVec.ofNat 16 (leAt img 4 2)
            mTile := Config.sha384 (img.take 128 ++ img.drop 512), step := .evidence } }
          .next (sendBytes s (weightPort s) .evidence s.boot.evidenceAddr (evidence s))
        else done (bootFail s .versions {} 0)
    | none => .next s
  | _ => .next s

/-- The 10 ms wait ends and step 11 repeats (19 R544). The versions of the failed attempt no longer show (log 15). -/
def execBootRetry (s : State) : Host.Outcome State Fault Refusal :=
  if coreRuns s ∧ s.boot.step = .wait ∧ s.time.now ≥ s.boot.waitSince + 20000000 then
    .next (startBootRead { s with boot := { s.boot with lilenVersion := 0, tileVersion := 0 } })
  else .next s

/-- The version combination (19 R548): state, reported pair. -/
def decidePair (pairs : List (Byte × W16)) (tile : W16) : Byte × W16 :=
  if pairs.contains (0xB0, tile) then (0, 0)
  else if pairs.any (fun e => e.1 == 0xB0) then (1, 0x8000 ||| (tile &&& 0x3FFF))
  else (1, 0x4000 ||| (tile &&& 0x3FFF))

/-- Boot-up on the CAN path, when Active Node-ID is not 0 (15 R451). -/
def sendBootUp (s : State) : State :=
  if s.mgmt.activeNode = 0 then s
  else { s with mgmt := { s.mgmt with canOut := .bootUp s.mgmt.activeNode :: s.mgmt.canOut } }

/-- The evidence is acknowledged: the version decision, then Pre-operational and boot-up (19 R542 steps 12 to 14). -/
def execEvidenceWrite (s : State) : Host.Outcome State Fault Refusal :=
  if coreRuns s ∧ bootAt s .evidence ∧ ¬ writesLeft s .evidence then
    let d := decidePair s.boot.pairs s.boot.tileVersion
    let s := { s with boot := { s.boot with verState := d.1, pair := d.2, step := .running }
                      mgmt := { s.mgmt with nmt := .preOperational, lastHeartbeat := s.time.gtAccepted } }
    done (sendBootUp (rewriteShadow s))
  else .next s

/-- Adds an entry to a floor that still has one unused of its 63 (19 R550). -/
def raiseFloors (s : State) : State :=
  let l := max (lilenFloor s) (min s.boot.raiseLilen.toNat s.boot.lilenVersion.toNat)
  let t := max (tileFloor s) (min s.boot.raiseTile.toNat s.boot.tileVersion.toNat)
  let upL := l > lilenFloor s ∧ s.fuse.lilenFloors.length < 63
  let upT := t > tileFloor s ∧ s.fuse.tileFloors.length < 63
  let f := s.fuse
  { s with
    fuse := { f with
      lilenFloors := if upL then f.lilenFloors ++ [(BitVec.ofNat 32 l, true)] else f.lilenFloors
      tileFloors := if upT then f.tileFloors ++ [(BitVec.ofNat 16 t, true)] else f.tileFloors }
    boot := { s.boot with raisedL := decide upL, raisedT := decide upT, raisedAt := s.time.now } }

end Sys2Proof.Machine
end

