-- ==== Sys2Proof/Machine/Release.lean ====
section
/-! DEFINITION. Verdicts and release: how an action word is applied, the release gate, HOLD, CUT, RETRACT, stops, the
SCORES records and the end of a request (04 R131 to R154; 03 R90 to R106; 06 R192 to R194). -/
namespace Sys2Proof.Machine
open Sys2Proof

/-! ## Action words (07 R223; 04 R136, R137, R145, R148, R153) -/

def wClass (w : W64) : Nat := bitsOf w.toNat 60 4
def wAction (w : W64) : Nat := bitsOf w.toNat 56 4
def wAnnotation (w : W64) : Byte := w.extractLsb' 48 8
def wNotify (w : W64) : W16 := w.extractLsb' 32 16
def wTag (w : W64) : W32 := w.truncate 32

def flagIf (b : Bool) (v : Byte) : Byte := if b then v else 0

/-- A class of 0x5 to 0xF is applied as HOLD (R145); CUT at the prompt as BLOCK (R134). A BLOCK at an answer position keeps
its class, though it is applied as CUT (log 103). -/
def wordClass (stage : Nat) (w : W64) : Nat :=
  let c := if wClass w > 4 then 2 else wClass w
  if stage = 0 ∧ c = 3 then 4 else c

/-- The word is out of range (R145). -/
def wordBad (w : W64) : Bool := decide (wClass w > 4) || decide (wAction w > 2)

/-- What a search's result means for its request: the applied class, the fields of the VERDICT and its qualifiers. A
search that did not complete gives word 0 (R137), no match the default word (R148). -/
def decideVerd (s : State) (f : FnSet) (stage : Nat) (q : SearchReq) (x : Found) : Verd :=
  let word : W64 := if x.fault then 0 else if x.hit then x.action else f.defaultAction
  let touched := x.fault || q.fault
  let cls := if touched then (if f.faultPref = 1 then 1 else 2) else wordClass stage word
  let hit := x.hit && !x.fault
  { cls := BitVec.ofNat 4 cls
    word := word
    tag := if hit then wTag word else 0xFFFFFFFF
    flags := flagIf touched 2 ||| flagIf (s.boot.verState == 2) 4 ||| flagIf (hit && decide (1 < x.tieCount)) 16
      ||| flagIf (hit && decide (1 < x.matchCount)) 32 ||| flagIf (hit && x.suspect) 64
    heads := q.heads
    deltaVersion := q.deltaVersion
    headFault := q.fault
    at_ := s.time.now }

/-- ACTION_BAD, once per rule tag per tick (R145). -/
def onceActionBad : Nat := 5
def reportBad (s : State) (x : Found) (v : Verd) : State :=
  if !x.fault && wordBad v.word && onceFree s onceActionBad v.tag.toNat s.tick.cur.idx then
    raise (markOnce s onceActionBad v.tag.toNat s.tick.cur.idx) .actionBad {} v.tag.toNat
  else s

/-- A VERDICT is written for every prompt, for every class but PASS, and under REPORT and CUT_AFTER (R145). -/
def needsRecord (stage : Nat) (v : Verd) : Bool := stage == 0 || v.cls != 0 || wAction v.word == 1 || wAction v.word == 2

def verdictRec (s : State) (slot : Slot) (stage : Nat) (pos : W32) (t : TickRef) (v : Verd) : Rec :=
  { flags := v.flags, tick := t, handle := handleOf s slot
    body := .verdict
      { position := pos, stage := BitVec.ofNat 4 stage, cls := v.cls, annotation := wAnnotation v.word
        notify := wNotify v.word, tag := v.tag, relAction := BitVec.ofNat 4 (wAction v.word)
        deltaVersion := v.deltaVersion.truncate 16, heads := v.heads } }

/-- A verdict is issued: as a record where one is due, else counted at once. -/
def issueVerdict (s : State) (slot : Slot) (stage : Nat) (pos : W32) (t : TickRef) (v : Verd) : State :=
  if needsRecord stage v then issue s slot (verdictRec s slot stage pos t v)
  else countVerdict s (reqOf s slot).fn stage t v.cls (v.flags.getLsbD 1)

/-! ## Positions -/

def Pos.past (x : Pos) : Nat := x.offset + x.bytes.length
/-- The prompt verdict permits release (04 R134). -/
def Request.passed (r : Request) : Bool := r.st == .streaming || r.st == .paused

/-- The applied class of a position, and whether a governing word says CUT_AFTER (04 R135, R142). -/
def Pos.verdicts (x : Pos) : List Verd :=
  x.s3.toList ++ match x.s4 with
    | .done v => [v]
    | _ => []
def Pos.cls (x : Pos) : Nat := x.verdicts.foldl (fun m v => max m v.cls.toNat) 0
def Pos.cutAfter (x : Pos) : Bool := x.verdicts.any fun v => v.cls.toNat == x.cls && wAction v.word == 2

def Pos.modAt (ps : List Pos) (p : Nat) (f : Pos → Pos) : List Pos := ps.modify p f

/-- Position and offset within it of an answer byte; past the screened bytes, the first position not screened
(03 R102, 06 R193). -/
def locate (ps : List Pos) (x : Nat) : Nat × Nat :=
  match ps.find? fun q => decide (x < q.past) with
  | some q => (q.p, x - q.offset)
  | none => ((ps.filter (·.scanned)).length, 0)

/-- The answer bytes of [a, b). -/
def answerBytes (ps : List Pos) (a b : Nat) : List Byte := ((ps.flatMap (·.bytes)).drop a).take (b - a)

/-- Every position has been screened, stage 4 included (03 R91, R92). -/
def Request.screened (r : Request) : Bool :=
  r.positions.all fun x => x.scanned && (x.s3.isSome || r.stopEnd.isSome) && x.s4 != .pending

/-- A stage 4 verdict decided before cycle `t - 1`: its SCORES may be written before `t` (03 R106). -/
def scoreDue (t : Nat) (v : Verd) : Bool := v.at_ == 0 || decide (v.at_ + 1 < t)

/-- Nothing of the request is on its way through the release logic at cycle `t` (05 R163; 03 R106). -/
def Request.quiet (t : Nat) (r : Request) : Bool :=
  r.verdictsDue.isEmpty && r.positions.all fun x => decide (x.due ≤ t) && match x.s4 with
    | .done v => !r.scores || scoreDue t v
    | _ => true

/-! ## The gate (04 R135, R138 to R143, R147) -/

inductive GateStep | stop | hold | cut (offset : Nat) (after : Bool) | pass
deriving DecidableEq, Repr

/-- Stage 4 has covered what the mode asks for before a position (R138, R139, R147). -/
def watched (mode lag : Nat) (r : Request) (x : Pos) : Bool :=
  if mode = 0 then x.s4 != .pending
  else r.positions.all fun q => decide (x.p < q.p + lag) || q.s4 != .pending

/-- A HOLD stands before the position. One that stands at it gives way to a CUT or BLOCK of a later stage (R135, R141). -/
def heldAt (r : Request) (x : Pos) : Bool :=
  r.holds.any fun h => decide (h.1 < x.p) || (h.1 == x.p && decide (x.cls < 3))

/-- What the gate does before cycle `t` with the first position it has not passed. -/
def gateStep (t mode lag : Nat) (r : Request) (x : Pos) : GateStep :=
  if x.p ≥ r.c ∨ ¬ x.scanned ∨ r.cutEnd.isSome ∨ (r.stopEnd.any fun e => decide (e ≤ x.offset))
      ∨ heldAt r x ∨ x.s3.isNone ∨ t < x.due then .stop
  else if mode = 2 then .pass
  else if ¬ watched mode lag r x then .stop
  else if x.cls = 2 ∧ ¬ x.resumed then .hold
  else if x.cls ≥ 3 then .cut (if x.cutAfter then x.past else x.offset) x.cutAfter
  else .pass

/-- Passes positions in order until one stops the gate. -/
def gateRun (t mode lag : Nat) : Nat → Nat → Request → Request
  | 0, _, r => r
  | fuel + 1, p, r =>
    match r.positions[p]? with
    | none => r
    | some x =>
      if x.applied then gateRun t mode lag fuel (p + 1) r
      else
        let pass : Request := { r with positions := Pos.modAt r.positions p fun x => { x with applied := true } }
        match gateStep t mode lag r x with
        | .stop => r
        | .hold => { r with holds := r.holds ++ [(p, true)] }
        | .cut e true => { pass with cutEnd := some e }
        | .cut e false => { r with cutEnd := some e }
        | .pass => gateRun t mode lag fuel (p + 1) pass

/-- The answer bytes the scribe has passed, as far as committed positions have their stage 3 verdict (06 R190, R192;
05 R168). -/
def Request.scribeFree (r : Request) : Nat :=
  if r.flushed && r.auto.stop.isNone then r.auto.nextOffset
  else ((r.positions.take r.c).takeWhile (·.s3.isSome)).foldl (fun m x => max m x.free) 0

/-- The end of the positions that have passed the gate. -/
def Request.passedTop (r : Request) : Nat :=
  (r.positions.takeWhile (·.applied)).foldl (fun m x => max m x.past) 0

def minOpt (n : Nat) : Option Nat → Nat
  | some e => min n e
  | none => n

/-- How far release may go. -/
def Request.releasable (r : Request) : Nat :=
  minOpt (minOpt (if r.stopEnd.isSome then r.passedTop else min r.passedTop r.scribeFree) r.stopEnd) r.cutEnd

/-- The position after those that have passed waits for its stage 3 verdict or its release cycle only, and one TOKENS
committed both: its bytes are gathered with theirs (05 R164), also while its overflow read is out (log 42). -/
def Request.gathers (t mode lag : Nat) (r : Request) : Bool :=
  let k := (r.positions.takeWhile (·.applied)).length
  match r.positions[k]? with
  | none => false
  | some x => decide (0 < k) && decide (x.p < r.c) && (x.s3.isNone || decide (t < x.due)) && r.cutEnd.isNone && r.stopEnd.isNone
      && (r.positions[k - 1]?).any (fun y => y.group == x.group) && !r.holds.any (fun h => decide (h.1 ≤ x.p))
      && (mode == 2 || watched mode lag r x)

/-- How far the records that are due go: full ones only while later bytes are gathered (05 R164). -/
def releaseEnd (gather : Bool) (from_ upto : Nat) : Nat := if gather then from_ + 36 * ((upto - from_) / 36) else upto

/-- The RELEASE records of the bytes [a, b), at most 36 each, with the tick of their last position (03 R102). -/
def releaseRecs (h : W32) (ps : List Pos) : Nat → Nat → Nat → List Rec
  | 0, _, _ => []
  | fuel + 1, a, b =>
    if b ≤ a then []
    else
      let n := min 36 (b - a)
      let at_ := locate ps a
      let last := (locate ps (a + n - 1)).1
      { tick := ((ps[last]?).map (·.tick)).getD {}, handle := h
        body := .release { tokenIndex := BitVec.ofNat 32 at_.1, tokenOffset := BitVec.ofNat 16 at_.2
                           answerOffset := BitVec.ofNat 64 a, bytes := answerBytes ps a (a + n) } }
        :: releaseRecs h ps fuel (a + n) b

/-- Answer bytes that a record carries. -/
def Rec.answer (rc : Rec) : Nat := match rc.body with
  | .release x => x.bytes.length
  | _ => 0

/-- Issues RELEASE records as far as the pending buffer has room (03 R116). -/
def emitRecs (slot : Slot) : List Rec → State → State
  | [], s => s
  | rc :: t, s =>
    if roomFor s slot then
      emitRecs slot t (issue (modReq s slot fun r => { r with released := r.released + rc.answer }) slot rc)
    else s

/-- Releases what may go before cycle `t`; while later bytes are gathered, only full records (05 R164). -/
def emitRelease (s : State) (slot : Slot) (t : Nat) : State :=
  let r := reqOf s slot
  let f := (fnOf s r.fn).act
  let b := releaseEnd (r.gathers t f.mode.toNat f.lag.toNat) r.released r.releasable
  if r.passed ∧ r.released < b then
    emitRecs slot (releaseRecs (handleOf s slot) r.positions (b - r.released) r.released b) s
  else s

/-! ## Work that is no longer wanted -/

/-- A watch item without the positions that are not kept; unplaced work is not charged for them. -/
def trimItem (unit : Nat) (keep : Nat → Bool) (i : WorkItem) : WorkItem :=
  match i.kind with
  | .watch ps =>
    let ps := ps.filter keep
    { i with kind := .watch ps, cost := if i.placed then i.cost else unit * ps.length }
  | .prompt _ _ => i

/-- An item of no positions that no engine has begun. -/
def WorkItem.empty (i : WorkItem) : Bool := i.kind == .watch [] && i.running == 0

def watchUnit (s : State) (r : Request) : Nat := (planOf s (fnOf s r.fn).act.plan).costToken.toNat

/-- The searches of stage 4 of positions that are not kept. -/
def staleWatch (slot : Slot) (keep : Nat → Bool) (q : SearchReq) : Bool :=
  match q.asker with
  | .s4 sl p => sl == slot && !keep p
  | _ => false

/-- Results of the request that wait are kept where a predicate holds of their search. -/
def dropResults (s : State) (slot : Slot) (keep : SearchReq → Bool) : State :=
  modReq s slot fun r => { r with results := r.results.filter fun x => keep x.1 }

/-- Stage 4 work of positions is discarded (04 R146; 06 R194; 11 R352). -/
def dropWatch (s : State) (slot : Slot) (keep : Nat → Bool) : State :=
  let unit := watchUnit s (reqOf s slot)
  let s := { s with req := { s.req with
    items := (s.req.items.map fun i => if i.slot = slot then trimItem unit keep i else i).filter fun i => !i.empty } }
  let s := dropResults (dropSearches s fun q => !staleWatch slot keep q) slot fun q => !staleWatch slot keep q
  let drop (x : Pos) : Pos := if x.s4 = .pending ∧ keep x.p = false then { x with s4 := .dropped } else x
  modReq s slot fun r => { r with positions := r.positions.map drop }

/-- All work of a request is discarded; what runs on engines ends without an effect. -/
def dropWork (s : State) (slot : Slot) : State :=
  let s := { s with req := { s.req with
    items := (s.req.items.map fun i =>
        if i.slot = slot then { i with kind := .watch [], todo := [] } else i).filter fun i => !i.empty } }
  let s := dropSearches s fun q => askerSlot q.asker != some slot
  { s with jobs := s.jobs.filter fun j => match j.key with
      | .prompt sl _ => sl != slot
      | _ => true }

/-! ## SCORES (03 R106) -/

/-- The first positions of a group that form one record before cycle `t`: consecutive, with stage 4 heads of one delta
version, up to 5. The verdicts, and whether the record is complete. -/
def scoreRun (t : Nat) (ps : List Pos) : Nat → Nat → List Verd → List Verd × Bool
  | 0, _, acc => (acc.reverse, true)
  | left + 1, p, acc =>
    if acc.length = 5 then (acc.reverse, true)
    else match (ps[p]?).map (·.s4) with
      | some (Watch.done v) =>
        if acc.any (fun a => a.deltaVersion != v.deltaVersion) then (acc.reverse, true)
        else if ¬ scoreDue t v then (acc.reverse, false)
        else scoreRun t ps left (p + 1) (v :: acc)
      | some Watch.pending => (acc.reverse, false)
      | _ => (acc.reverse, true)

def scoresRec (s : State) (slot : Slot) (first : Nat) (tick : TickRef) (vs : List Verd) : Rec :=
  { flags := flagIf (vs.any (·.headFault)) 2, tick := tick, handle := handleOf s slot
    body := .scores { position := BitVec.ofNat 32 first
                      deltaVersion := ((vs.head?).map (·.deltaVersion.truncate 16)).getD 0
                      scores := vs.map (·.heads) } }

/-- Writes the complete records of one group as far as the pending buffer has room; what is left of it. -/
def scoreGroup (slot : Slot) (t : Nat) (ps : List Pos) : Nat → State → ScoreGroup → State × Option ScoreGroup
  | 0, s, _ => (s, none)
  | fuel + 1, s, g =>
    if g.count = 0 then (s, none)
    else
      let x := scoreRun t ps g.count g.first []
      let n := x.1.length
      if ¬ x.2 ∨ ¬ roomFor s slot then (s, some g)
      else if n = 0 then scoreGroup slot t ps fuel s ⟨g.first + 1, g.count - 1⟩
      else
        let tick := ((ps[g.first + n - 1]?).map (·.tick)).getD {}
        scoreGroup slot t ps fuel (issue s slot (scoresRec s slot g.first tick x.1)) ⟨g.first + n, g.count - n⟩

/-- Writes every SCORES record that is due. -/
def scoreGroups (slot : Slot) (t : Nat) (ps : List Pos) : List ScoreGroup → State → List ScoreGroup → State × List ScoreGroup
  | [], s, kept => (s, kept.reverse)
  | g :: gs, s, kept =>
    let x := scoreGroup slot t ps (g.count + 1) s g
    scoreGroups slot t ps gs x.1 (x.2.toList ++ kept)

def flushScores (s : State) (slot : Slot) (t : Nat) : State :=
  let r := reqOf s slot
  let x := scoreGroups slot t r.positions r.groups s []
  modReq x.1 slot fun r => { r with groups := x.2 }

/-! ## The end of a request (03 R71, R91 to R95, R104; 04 R142, R146; 06 R193, R194) -/

/-- A count in a field of 16 bits; the spec states no value for a count that does not fit (log 19). -/
def field16 (s : State) (n : Nat) : W16 × State :=
  if n < 65536 then (BitVec.ofNat 16 n, s) else let w := takeWord s 1; (w.1.truncate 16, w.2)

/-- The causes in force (03 R95, R104). -/
def Request.causes (r : Request) : Byte :=
  flagIf r.endSeen 1 ||| flagIf r.closeSeen 2 ||| flagIf r.cancelSeen 4 ||| flagIf r.stopEnd.isSome 8
    ||| flagIf r.cutEnd.isSome 16

/-- The first unreleased byte (06 R193). -/
def Request.firstUnreleased (r : Request) (front : Nat) : Nat × Nat :=
  match r.stopTail with
  | some p => if r.stopEnd = some front then (p, 0) else locate r.positions front
  | none => locate r.positions front

/-- The end of the released bytes, net of a RETRACT (03 R104). -/
def Request.front (r : Request) : Nat := minOpt r.released r.cutEnd

/-- A position whose stage 4 work is discarded. -/
def Pos.drop4 (x : Pos) : Pos := if x.s4 = .pending then { x with s4 := .dropped } else x

/-- Ends a request: what it still waits for is discarded and counted, the SCORES that end before a discarded position
are written (03 R106), and its CLOSED is formed. `front` is the end of the released bytes, net of a RETRACT. -/
def finishRequest (s : State) (slot : Slot) (front : Nat) (cause : Byte) (tick : TickRef) (reason : W16 := 0) : State :=
  let r := reqOf s slot
  let at_ := r.firstUnreleased front
  let h := field16 s (r.auto.nextOffset - r.released)
  let v := field16 h.2 (r.positions.filter fun x => x.s4 == .pending || x.s4 == .dropped).length
  let c : ClosedRec :=
    { cause := cause, reason := reason
      stopIndex := if cause.getLsbD 3 then BitVec.ofNat 32 at_.1 else 0xFFFFFFFF
      stopOffset := if cause.getLsbD 3 then BitVec.ofNat 16 at_.2 else 0
      heldDiscarded := h.1, verdictsDiscarded := v.1, committed := BitVec.ofNat 32 r.c
      releasedBytes := BitVec.ofNat 64 front, requestTag := r.requestTag, tick := tick }
  let s := dropWork v.2 slot
  let s := modReq s slot fun r => { r with positions := r.positions.map Pos.drop4 }
  let s := flushScores s slot (s.time.now + 2)
  let s := modReq s slot fun r => { r with
    chains := [], groups := [], holds := [], promptHeld := false, promptSegs := [], verdictsDue := [], results := [] }
  formClosed s slot c

/-- The prompt has no work left and no verdict to come. -/
def Request.promptIdle (r : Request) : Bool := r.promptSegs.isEmpty && r.promptItems == 0 && !r.promptLast

/-- The request may be closed now (03 R91, R92; 04 R142; 06 R194). END and CLOSE wait for an outstanding HOLD, which
only the host ends (03 R99; log 20). In PAUSED only a CLOSE ends it (03 R70). A position after a stop whose bytes are not
there yet lies beyond it (06 R194). -/
def Request.mayClose (r : Request) (t mode : Nat) : Bool :=
  if !r.passed then r.st == .prompt && r.closeSeen && r.promptIdle && r.screened
  else if r.st == .paused then r.closeSeen && r.screened && r.quiet t
  else if r.cutEnd.isSome then true
  else match r.stopEnd with
    | some e => decide (e ≤ r.released) && r.quiet t
        && (mode == 2 || r.positions.all fun x => decide (e ≤ x.offset) || !x.scanned || x.s4 != .pending)
    | none =>
      r.screened && r.holds.isEmpty && r.quiet t
        && ((r.endSeen && decide (r.auto.nextOffset ≤ r.released)) || (r.closeSeen && !r.endSeen))

def tryClose (s : State) (slot : Slot) (t : Nat) : State :=
  let r := reqOf s slot
  if r.pendingClosed.isNone ∧ r.st ≠ .closing ∧ r.st ≠ .free ∧ r.mayClose t (fnOf s r.fn).act.mode.toNat then
    finishRequest s slot r.front r.causes (r.closeTick.getD (tickOf s))
  else s

/-! ## Stops (06 R189, R192, R193) -/

/-- The position that holds an answer byte. -/
def posOfByte (ps : List Pos) (x : Nat) : Option Pos := ps.find? fun q => decide (q.offset ≤ x ∧ x < q.past)

/-- A stop that has completed takes effect once its position is committed and its stage 3 verdict is there: release
ends, and stage 4 work of positions that will not be released is discarded. -/
def takeStop (s : State) (slot : Slot) : State :=
  let r := reqOf s slot
  match r.auto.stop with
  | none => s
  | some (lo, hi) =>
    match posOfByte r.positions hi with
    | none => s
    | some x =>
      if r.stopEnd.isSome ∨ x.p ≥ r.c ∨ x.s3.isNone then s
      else
        let incl := stopInclude s r
        let e := if incl then hi + 1 else lo
        let s := modReq s slot fun r => { r with
          stopEnd := some e, closeTick := some (r.closeTick.getD x.tick)
          stopTail := if incl && x.past == hi + 1 then some (x.p + 1) else none }
        let keep (q : SearchReq) : Bool := match q.asker with
          | .s3 sl p => sl != slot || decide (p ≤ x.p)
          | _ => true
        let s := dropResults (dropSearches s keep) slot keep
        dropWatch (textCount s 3 1) slot fun p => ((r.positions[p]?).map fun y => y.scanned && decide (y.offset < e)).getD false

/-- Held-back bytes are flushed once END has been processed and every position is screened (03 R91). -/
def flushEnd (s : State) (slot : Slot) : State :=
  let r := reqOf s slot
  if r.endSeen ∧ ¬ r.flushed ∧ r.screened then modReq s slot fun r => { r with flushed := true } else s

/-- Runs the gate. -/
def runGate (s : State) (slot : Slot) (t : Nat) : State :=
  let r := reqOf s slot
  if r.passed then
    let f := (fnOf s r.fn).act
    modReq s slot fun r =>
      let n := gateRun t f.mode.toNat f.lag.toNat r.positions.length 0 r
      if n.cutEnd.isSome && r.cutEnd.isNone then
        { n with closeTick := some (r.closeTick.getD (((n.positions.find? fun x => !x.applied).map (·.tick)).getD
            (((n.positions.getLast?).map (·.tick)).getD {}))) }
      else n
  else s

/-- The VERDICTs due before cycle `t` are issued, in order (05 R163, R168). -/
def issueDue (slot : Slot) (t : Nat) : Nat → State → State
  | 0, s => s
  | fuel + 1, s =>
    match (reqOf s slot).verdictsDue with
    | [] => s
    | v :: rest =>
      if t ≤ v.at_ ∨ ¬ roomFor s slot then s
      else issueDue slot t fuel
        (issueVerdict (modReq s slot fun r => { r with verdictsDue := rest }) slot v.stage v.pos v.tick v.v)

/-- Everything release can do before cycle `t`: VERDICTs that are due, a stop, the flush after END, the gate, RELEASE and
SCORES records, the CLOSED. A request whose pending buffer is full waits (03 R116). -/
def pumpTo (s : State) (slot : Slot) (t : Nat) : State :=
  let r := reqOf s slot
  if r.st = .free ∨ r.st = .closing ∨ r.pendingClosed.isSome ∨ ¬ roomFor s slot then s
  else
    let s := flushEnd (takeStop (issueDue slot t r.verdictsDue.length s) slot) slot
    tryClose (flushScores (emitRelease (runGate s slot t) slot t) slot t) slot t

/-- What release can do while the commands of a cycle run: what was due before it. -/
def pump (s : State) (slot : Slot) : State := pumpTo s slot s.time.now

/-- At the end of a cycle what was due in it is done, MASK records first: a CANCEL of that cycle goes before (05 R170;
06 R215). -/
def runWakes (s : State) : State :=
  let now := s.time.now
  let due := s.req.wakes.filter fun w => decide (w.1 ≤ now)
  if due.isEmpty then s
  else
    let s := flushAll { s with req := { s.req with wakes := s.req.wakes.filter fun w => decide (now < w.1) } } (now + 1)
    due.foldl (fun s w => pumpTo (drain s w.2) w.2 (now + 1)) s

/-! ## Verdicts that arrive -/

/-- The prompt's SCORES record, directly after its VERDICT (03 R106). -/
def promptScores (s : State) (slot : Slot) (v : Verd) : State :=
  let r := reqOf s slot
  if r.scores && (planOf s (fnOf s r.fn).act.plan).promptScreen then
    issue s slot (scoresRec s slot 0xFFFFFFFF r.promptTick [v])
  else s

/-- The prompt verdict (04 R134). -/
def promptVerdict (s : State) (slot : Slot) (v : Verd) : State :=
  let r := reqOf s slot
  if r.st ≠ .prompt then s
  else
    let s := promptScores (issueVerdict s slot 0 0xFFFFFFFF r.promptTick v) slot v
    if v.cls.toNat ≤ 1 then pump (modReq s slot fun r => { r with st := .streaming }) slot
    else if v.cls = 2 then modReq s slot fun r => { r with promptHeld := true }
    else finishRequest s slot 0 (0x20 ||| r.causes) r.promptTick

/-- The stage 3 verdict of a position: its VERDICT is issued 4 cycles later, and release logic can pass the position in
that cycle, or in the next one where the VERDICT is a record (05 R163, R164, R168). -/
def stage3Verdict (s : State) (slot : Slot) (p : Nat) (v : Verd) : State :=
  match (reqOf s slot).positions[p]? with
  | none => s
  | some x =>
    let at_ := s.time.now + 4
    let pass := at_ + (if needsRecord 1 v then 1 else 0)
    let s := modReq s slot fun r => { r with
      verdictsDue := r.verdictsDue ++ [{ at_ := at_, stage := 1, pos := BitVec.ofNat 32 p, tick := x.tick, v := v }]
      positions := Pos.modAt r.positions p fun x => { x with s3 := some v, due := max x.due (pass + 1) } }
    pump (wakeAt (wakeAt s slot at_) slot pass) slot

/-- The lowest position not yet released (04 R141). -/
def lowestUnreleased (r : Request) : Nat :=
  ((r.positions.find? fun x => !x.applied || decide (r.released < x.past)).map (·.p)).getD r.positions.length

def retractRec (s : State) (slot : Slot) (tick : TickRef) (off : Nat) (v : Verd) : Rec :=
  let at_ := locate (reqOf s slot).positions off
  { flags := v.flags, tick := tick, handle := handleOf s slot
    body := .retract { tokenIndex := BitVec.ofNat 32 at_.1, tokenOffset := BitVec.ofNat 16 at_.2
                       annotation := wAnnotation v.word, answerOffset := BitVec.ofNat 64 off, tag := v.tag } }

/-- A stage 4 verdict of a position that has passed the gate in GATE_PATTERN (04 R140, R141). One RESUME ends a HOLD of
it, though the position itself has not been released. -/
def lateWatch (s : State) (slot : Slot) (x : Pos) (v : Verd) : State :=
  let r := reqOf s slot
  if v.cls.toNat ≤ 1 then pump s slot
  else if v.cls = 2 then
    let h := lowestUnreleased r
    let back (y : Pos) : Pos :=
      { y with applied := y.applied && decide (y.p < h), resumed := y.resumed || y.p == x.p }
    pump (modReq s slot fun r => { r with holds := r.holds ++ [(h, false)], positions := r.positions.map back }) slot
  else
    let off := if wAction v.word = 2 then x.past else x.offset
    let s := modReq s slot fun r => { r with cutEnd := some off, closeTick := some (r.closeTick.getD x.tick) }
    pump (if off < r.released then issue s slot (retractRec s slot x.tick off v) else s) slot

/-- The stage 4 verdict of a position. -/
def stage4Verdict (s : State) (slot : Slot) (p : Nat) (v : Verd) : State :=
  match (reqOf s slot).positions[p]? with
  | none => s
  | some x =>
    let s := issueVerdict s slot 2 (BitVec.ofNat 32 p) x.tick v
    let s := modReq s slot fun r => { r with positions := Pos.modAt r.positions p fun x => { x with s4 := .done v } }
    let s := wakeAt s slot (s.time.now + 1)
    if (fnOf s (reqOf s slot).fn).act.mode = 1 ∧ x.applied then lateWatch s slot x v else pump s slot

/-- A search of a request has its result (04 R132). -/
def useResult (s : State) (q : SearchReq) (f : Found) : State :=
  let act (slot : Slot) (stage : Nat) (k : State → Verd → State) : State :=
    let v := decideVerd s (fnOf s (reqOf s slot).fn).act stage q f
    k (reportBad s f v) v
  match q.asker with
  | .prompt slot => act slot 0 fun s v => promptVerdict s slot v
  | .s3 slot p => act slot 1 fun s v => stage3Verdict s slot p v
  | .s4 slot p => act slot 2 fun s v => stage4Verdict s slot p v
  | _ => s

/-- The result is used, or waits until the request's pending buffer has room for what it may issue (03 R116). -/
def applyResult (s : State) (q : SearchReq) (f : Found) : State :=
  match askerSlot q.asker with
  | none => s
  | some slot =>
    if (reqOf s slot).results.isEmpty && roomN s slot 2 then useResult s q f
    else modReq s slot fun r => { r with results := r.results ++ [(q, f)] }

/-- The results that waited are used as far as there is room, then release goes on. -/
def useResults (slot : Slot) : Nat → State → State
  | 0, s => pump s slot
  | fuel + 1, s =>
    match (reqOf s slot).results with
    | [] => pump s slot
    | x :: rest =>
      if roomN s slot 2 then useResults slot fuel (useResult (modReq s slot fun r => { r with results := rest }) x.1 x.2)
      else pump s slot

/-- A request's records that waited are written as far as space allows, and its processing goes on. -/
def goOn (s : State) (slot : Slot) : State :=
  let s := flushAll (drain s slot) s.time.now
  useResults slot (reqOf s slot).results.length s

/-- A search of a request delivers its result, and the verdict acts on release (07 R228). -/
def execMortiseSearchResult (id : Nat) (ecc : Ecc) (s : State) : Host.Outcome State Fault Refusal :=
  match searchById s id with
  | none => .next s
  | some x =>
    if ¬ coreRuns s ∨ (askerSlot x.req.asker).isNone then .next s
    else match takeResult s id ecc with
      | .wait s => done s
      | .result s x f => done (applyResult s x.req f)

/-- CASCADE_TIMEOUT is reported at most once per tick (07 R247). -/
def onceCascade : Nat := 6
def reportTimeout (s : State) (x : Search) : State :=
  let s := { s with mortise := { s.mortise with timeouts := s.mortise.timeouts + 1 } }
  if onceFree s onceCascade 0 s.tick.cur.idx then
    raise (markOnce s onceCascade 0 s.tick.cur.idx) .cascadeTimeout (hostPlace 10) x.tag.toNat
      (searchHandle s x.req).toNat
  else s

/-- A result frame has not come back in time: the search has not completed (07 R247). -/
def execCascadeTimeout (id : Nat) (s : State) : Host.Outcome State Fault Refusal :=
  match searchById s id with
  | none => .next s
  | some x =>
    let remote : Bool := match x.req.asker with
      | .remote _ _ _ _ => true
      | _ => false
    if ¬ coreRuns s ∨ remote ∨ x.back ∨ ¬ cascaded s ∨ s.time.now < x.issue + searchDelay s + 256 then .next s
    else
      let s := reportTimeout (dropSearch s id) x
      if x.req.asker = .cursor then
        done (if s.mortise.curSt = .busy then cursorResult s true { fault := true } else s)
      else done (applyResult s x.req { fault := true })

end Sys2Proof.Machine
end

