-- ==== Sys2Proof/Machine/Work.lean ====
section
/-! DEFINITION. Pages of a stream, the truss, and the items of screening work (11 R343 to R362; 12 R384 to R387; 13 R428). -/
namespace Sys2Proof.Machine
open Sys2Proof

/-! ## Pages (11 R343, R344, R373) -/

/-- First page and pages within each half of a region. -/
def regionBase (s : State) (r : Nat) : Nat := ((s.stream.regions[r]?).map (·.base.toNat)).getD 0
def regionHalf (s : State) (r : Nat) : Nat := ((s.stream.regions[r]?).map (·.pages.toNat)).getD 0

def reqPages (r : Request) : List (BitVec 22) := r.headPage.toList ++ r.windowPages
/-- Stream state pages in use. -/
def streamPages (s : State) : List (BitVec 22) := s.req.table.flatMap (fun e => reqPages e.2)

/-- The lowest free page of a half: among one more than the used ones, one is free. -/
def lowestFree (base pages : Nat) (used : List (BitVec 22)) (half : Nat) : Option (BitVec 22) :=
  ((List.range (min pages (used.length + 1))).map fun k =>
    BitVec.ofNat 22 (half * 2 ^ 19 + base + k)).find? fun p => !used.contains p

/-- The lowest free stream state page of a half. -/
def freePage (s : State) (used : List (BitVec 22)) (half : Nat) : Option (BitVec 22) :=
  lowestFree (regionBase s 2) (regionHalf s 2) used half

/-- A page of a half, or of the lowest-numbered half that has one (R344). -/
def takePage (s : State) (used : List (BitVec 22)) (half : Nat) : Option (BitVec 22) :=
  ((half :: List.range 8).map (freePage s used)).findSome? id

/-- `n` pages for a half. -/
def takePages (s : State) (half : Nat) : Nat → List (BitVec 22) → List (BitVec 22)
  | 0, _ => []
  | n + 1, used => match takePage s used half with
    | some p => p :: takePages s half n (p :: used)
    | none => []

/-- Window pages that the plan's watcher declares (R343). -/
def windowCount (p : Plan) : Nat := if p.watcher then p.decl.windowPages.toNat else 0
/-- The half of the window pages: the bent of the lowest-numbered stream engine with watcher tiles. -/
def windowHalf (p : Plan) : Nat :=
  let es := (p.tiles.filter fun t => t.role == 2 && decide (32 ≤ t.engine.toNat)).map (·.engine.toNat)
  match es with
  | [] => 0
  | e :: t => bentOf (t.foldl min e)

def pagesFit (s : State) (n : Nat) : Bool := decide ((streamPages s).length + n ≤ regionPages s 2)

/-- Reserves the head page and `p` window pages of a request on pattern engine `n`. -/
def reservePages (s : State) (slot : Slot) (n p : Nat) : State :=
  let plan := planOf s (fnOf s (reqOf s slot).fn).act.plan
  let used := streamPages s
  let head := takePage s used n
  let win := takePages s (windowHalf plan) p (head.toList ++ used)
  modReq s slot fun r => { r with headPage := head, windowPages := win, pageCount := BitVec.ofNat 4 p }

/-! ## The state store of a pattern engine (11 R348) -/

/-- Automaton records of bulk-class requests that the store of an engine has room for: 4,608 less the pegged ones. -/
def storeRoom (s : State) (n : Fin 8) : Nat :=
  4608 - (s.req.table.filter fun e => e.2.latency && e.2.admitted && e.2.pattern == some n).length

/-- A record leaves the store and is written back to its head page. -/
def writeBack (s : State) (slot : Slot) : State := modReq s slot fun r => { r with headAuto := r.auto }

/-- The records beyond the room, the least recently used, are evicted. -/
def storeTrim (s : State) (n : Fin 8) : State :=
  let e := 48 + n.val
  let k := storeRoom s n
  let out := (engOf s e).store.drop k
  out.foldl writeBack (if out.isEmpty then s else modEng s e fun v => { v with store := v.store.take k })

/-- A bulk request's record is used: it is in the store afterwards. Whether it had to be read from the head page. -/
def useRecord (s : State) (slot : Slot) : State × Bool :=
  let r := reqOf s slot
  match r.pattern with
  | none => (s, false)
  | some n =>
    if r.latency then (s, false)
    else
      let e := 48 + n.val
      let hit := (engOf s e).store.contains slot
      (storeTrim (modEng s e fun v => { v with store := slot :: v.store.erase slot }) n, !hit)

/-- A record leaves the store of its engine, written back (a cold move) or with its request's end. -/
def dropRecord (s : State) (slot : Slot) : State :=
  match (reqOf s slot).pattern with
  | none => s
  | some n =>
    let e := 48 + n.val
    let s := writeBack s slot
    if (engOf s e).store.contains slot then modEng s e fun v => { v with store := v.store.erase slot } else s

/-! ## What the watcher writes (11 R345, R346, R350) -/

/-- Bytes whose value the spec does not state. -/
def freeBytes (s : State) (n : Nat) : List Byte :=
  (List.range n).map fun i => (Config.freeWord (0x200000000 + i) s.time.freeIdx).truncate 8

/-- The place of a position in the window pages: window page (p div Q) mod P, offset (p mod Q) × E, as page × 65,536 +
offset (R346). -/
def windowPlace (entry pages p : Nat) : Nat :=
  let q := 65536 / entry
  (p / q % pages) * 65536 + p % q * entry

/-- The watcher has run over a position: before a speculative one the summary is saved; then the summary and the
position's window entry change (R346, R350). What they become is not in the spec: free values (log 86). -/
def watchState (slot : Slot) (s : State) (p : Nat) : State :=
  let r := reqOf s slot
  let d := (planOf s (fnOf s r.fn).act.plan).decl
  let e := d.entryBytes.toNat
  let snaps := if r.c ≤ p then (p, r.summary) :: r.sumSnaps.filter fun x => x.1 % 16 != p % 16 else r.sumSnaps
  let sum := freeBytes s d.summaryBytes.toNat
  let win := if r.pageCount = 0 then r.window
    else Tbl.ins r.window (windowPlace e r.pageCount.toNat p) ((freeBytes s (d.summaryBytes.toNat + e)).drop d.summaryBytes.toNat)
  let s := { s with time := { s.time with freeIdx := s.time.freeIdx + 1 } }
  modReq s slot fun r => { r with summary := sum, sumSnaps := snaps, window := win }

/-- STATE_FULL, once per tick (R343, R365). -/
def onceStateFull : Nat := 7
def stateFull (s : State) (pages : Nat) : State :=
  if onceFree s onceStateFull 0 s.tick.cur.idx then
    raise (markOnce s onceStateFull 0 s.tick.cur.idx) .stateFull {} pages
  else s

/-! ## Versions (13 R428) -/

/-- The value that work of a tick uses: the one of its tick while its work is unfinished, else the latest (02 R42). -/
def versionAt {α : Type} (past : List (Nat × α)) (cur : α) (t : TickRef) : α :=
  match past.find? fun h => decide (t.idx ≤ h.1) with
  | some h => if t.idx = 0 then cur else h.2
  | none => cur

/-- What a policy gives the work of the current tick. -/
def useNow (p : Policy) : DeltaUse := { version := p.deltaVersion, dset := p.deltaSetNow, screens := p.screensNow }
def policyUse (s : State) (p : BitVec 12) (t : TickRef) : DeltaUse :=
  versionAt (policyOf s p).past (useNow (policyOf s p)) t
def deltaUseOf (s : State) (r : Request) (t : TickRef) : DeltaUse :=
  if r.pinned then r.deltaUse else policyUse s r.policy t
def deltaVersionOf (s : State) (r : Request) (t : TickRef) : W32 := (deltaUseOf s r t).version
def screenVersion (s : State) (sid : W16) : W32 := (Tbl.get ({} : Screen) s.tune.screens sid.toNat).current
def screenVersionAt (s : State) (sid : W16) (t : TickRef) : W32 :=
  let x := Tbl.get ({} : Screen) s.tune.screens sid.toNat
  versionAt x.past x.current t

/-- The backbone screen that a stage reads and its version. -/
def backboneOf (s : State) (r : Request) (prompt : Bool) (t : TickRef) : List (W16 × W32) :=
  let f := (fnOf s r.fn).act
  let p := planOf s f.plan
  let sid := if prompt then p.promptId else p.watcherId
  let fixed := if prompt then f.pinPrompt else f.pinWatcher
  let own := if prompt then r.promptVersion else r.watcherVersion
  if sid = 0xFFFF then [] else [(sid, if fixed ≠ 0 then fixed else if r.pinned then own else screenVersionAt s sid t)]

/-! ## The truss (11 R354 to R362) -/

def nodeOf (s : State) (n : Nat) : Node := Tbl.get {} s.stream.nodes n
def setNode (s : State) (n : Nat) (v : Node) : State :=
  { s with stream := { s.stream with nodes := Tbl.ins s.stream.nodes n v } }
def modNode (s : State) (n : Nat) (f : Node → Node) : State :=
  match Tbl.find s.stream.nodes n with
  | some v => setNode s n (f v)
  | none => s

def trussPlan (s : State) (r : Request) : Byte := (fnOf s r.fn).act.plan
def trussTenant (s : State) (r : Request) : BitVec 14 := if s.stream.trussScope = 0 then 0 else r.tenant

/-- The request uses the truss (R355). -/
def trussUsed (s : State) (r : Request) : Bool :=
  let p := planOf s (trussPlan s r)
  s.stream.trussOn == 1 && p.promptScreen && p.patchBytes != 0 && 128 % p.patchBytes.toNat == 0

/-- The fingerprint of a block (R357). -/
def fingerprint (s : State) (r : Request) (parent : W64) (block : List Byte) : W64 :=
  crc64 ([trussPlan s r] ++ leBytes 2 r.policy.toNat ++ leBytes 2 (trussTenant s r).toNat ++ leBytes 8 parent.toNat
    ++ block)

/-- The node of a block behind a parent: its id, and whether an equal fingerprint failed the full compare (R358). -/
def findNode (s : State) (r : Request) (parent : W32) (fp : W64) (block : List Byte) : Option Nat × Bool :=
  let same := s.stream.nodes.filter fun e => e.2.fingerprint == fp
  match same.find? fun e => e.2.plan == trussPlan s r && e.2.policy == r.policy && e.2.tenant == trussTenant s r
      && e.2.parent == parent && e.2.block == block with
  | some e => (some e.1, false)
  | none => (none, !same.isEmpty)

/-- Whole blocks of a prompt that a walk visits: at least one byte is left to screen. -/
def trussBlocks (bytes : List Byte) : List (List Byte) :=
  (List.range ((bytes.length - 1) / 128)).map fun i => (bytes.drop (128 * i)).take 128

/-- Walks the truss: the matched nodes in order of depth, and the failed compares. -/
def trussWalk (s : State) (r : Request) : List (List Byte) → W32 → W64 → List Nat × Nat
  | [], _, _ => ([], 0)
  | b :: t, parent, pfp =>
    let fp := fingerprint s r pfp b
    match findNode s r parent fp b with
    | (some n, _) =>
      let x := trussWalk s r t (BitVec.ofNat 32 n) fp
      (n :: x.1, x.2)
    | (none, bad) => ([], if bad then 1 else 0)

def sat16 (n : W16) : W16 := if n = 0xFFFF then n else n + 1

/-- As the prompt's segments arrive, the walk goes on over its whole blocks: hits and last use of the nodes it matches
(R358, R360). -/
def trussAdvance (s : State) (slot : Slot) : State :=
  let r := reqOf s slot
  if ¬ trussUsed s r ∨ r.walkOver then s
  else
    let left := (trussBlocks r.promptBytes).drop r.walked.length
    let from_ := match r.walked.getLast? with
      | some n => (BitVec.ofNat 32 n, (nodeOf s n).fingerprint)
      | none => ((0xFFFFFFFF : W32), (0 : W64))
    let w := trussWalk s r left from_.1 from_.2
    let s := w.1.foldl (fun s n => modNode s n fun v => { v with hits := sat16 v.hits, lastUse := s.tick.cur.num }) s
    let s := { s with stream := { s.stream with trussFalse := s.stream.trussFalse + BitVec.ofNat 64 w.2 } }
    modReq s slot fun r => { r with walked := r.walked ++ w.1, walkOver := decide (w.1.length < left.length) }

/-- The node whose state the screen starts from: the deepest one matched whose versions are those the screen uses
(R359). -/
def trussLookup (s : State) (slot : Slot) : State :=
  let r := reqOf s slot
  if ¬ trussUsed s r then s
  else
    let delta := deltaVersionOf s r r.promptTick
    let bb := ((backboneOf s r true r.promptTick).head?.map (·.2)).getD 0
    let good (n : Nat) : Bool := 
      let v := nodeOf s n
      v.hasState && v.backbone == bb && v.delta == delta
        && (trussBlocks r.promptBytes)[v.depth.toNat - 1]? == some v.block
    match r.walked.reverse.find? good with
    | some n =>
      let s := modNode s n fun v => { v with pins := v.pins + 1 }
      modReq { s with stream := { s.stream with trussHits := s.stream.trussHits + 1 } } slot fun r =>
        { r with trussHit := some n }
    | none => s

/-- The state pin of a request ends (R361, R368). -/
def trussUnpin (s : State) (slot : Slot) : State :=
  match (reqOf s slot).trussHit with
  | some n => modReq (modNode s n fun v => { v with pins := v.pins - 1 }) slot fun r => { r with trussHit := none }
  | none => s

def trussStates (s : State) : Nat := (s.stream.nodes.filter fun e => e.2.hasState).length
/-- Node records that fit: half of the node part (R356). -/
def trussRecords (s : State) : Nat := regionHalf s 3 / 16 * 8 / 2 * 256
/-- State pages that fit (R356). -/
def trussRoom (s : State) : Nat := (regionHalf s 3 - regionHalf s 3 / 16) * 8

/-- The entry of oldest last use, the lower id on a tie. -/
def oldest : List (Nat × Node) → Option (Nat × Node)
  | [] => none
  | e :: t => match oldest t with
    | none => some e
    | some o => if o.2.lastUse.toNat < e.2.lastUse.toNat then some o else some e

/-- Room for one more state: unpinned states of oldest use are freed while the quota is reached, more than one where it
was written lower than State Pages (R361, R362). -/
def stateRoom : Nat → State → State × Bool
  | 0, s => (s, false)
  | fuel + 1, s =>
    if trussStates s < min s.stream.trussQuota.toNat (trussRoom s) then (s, true)
    else match oldest (s.stream.nodes.filter fun e => e.2.hasState && e.2.pins == 0) with
      | some e =>
        let s := modNode s e.1 fun v => { v with hasState := false, state := [] }
        stateRoom fuel { s with stream := { s.stream with trussEvict := s.stream.trussEvict + 1 } }
      | none => (s, false)

/-- The lowest free state page of the truss: beyond the first 1/16 of each half (R356; the half is log 99). -/
def trussPage (s : State) : BitVec 22 :=
  let used := (s.stream.nodes.filter fun e => e.2.hasState).map (·.2.statePage)
  let n := regionHalf s 3
  (((List.range 8).map (lowestFree (regionBase s 3 + n / 16) (n - n / 16) used)).findSome? id).getD 0

/-- Room for one more record: the oldest unpinned node without children is removed (R361). -/
def recordRoom (s : State) : State × Bool :=
  if s.stream.nodes.length < trussRecords s then (s, true)
  else
    let child (n : Nat) : Bool := s.stream.nodes.any fun e => e.2.parent == BitVec.ofNat 32 n
    match oldest (s.stream.nodes.filter fun e => e.2.pins == 0 && !child e.1) with
    | some e => ({ s with stream := { s.stream with nodes := Tbl.del s.stream.nodes e.1 } }, true)
    | none => (s, false)

def skipInsert (s : State) : State := { s with stream := { s.stream with trussSkip := s.stream.trussSkip + 1 } }

/-- The lowest node id not in use. -/
def freeNode (s : State) : Nat :=
  ((List.range (s.stream.nodes.length + 1)).find? fun n => (Tbl.find s.stream.nodes n).isNone).getD 0

/-- Stores the screen's state in a node of sufficient hits, or of a request with truss_insert (R360). -/
def storeState (s : State) (r : Request) (n : Nat) (backbone delta : W32) : State :=
  let v := nodeOf s n
  if ¬ (r.trussInsert ∨ s.stream.trussK.toNat ≤ v.hits.toNat) then s
  else
    let room := if v.hasState then (s, true) else stateRoom (trussStates s + 1) s
    if room.2 then
      let s := room.1
      let page := if v.hasState then v.statePage else trussPage s
      let data := freeBytes s (planOf s (trussPlan s r)).decl.stateBytes
      modNode { s with time := { s.time with freeIdx := s.time.freeIdx + 1 } } n fun v =>
        { v with hasState := true, statePage := page, state := data, backbone := backbone, delta := delta }
    else skipInsert s

/-- Creates the missing nodes of a prompt and stores the states beyond the hit (R360). -/
def trussInsert (r : Request) (backbone delta : W32) (from_ : Nat) :
    List (List Byte) → Nat → W32 → W64 → State → State
  | [], _, _, _, s => s
  | b :: t, d, parent, pfp, s =>
    let fp := fingerprint s r pfp b
    let found := (findNode s r parent fp b).1
    match found with
    | some n =>
      let s := if from_ < d then storeState s r n backbone delta else s
      trussInsert r backbone delta from_ t (d + 1) (BitVec.ofNat 32 n) fp s
    | none =>
      let room := recordRoom s
      if ¬ room.2 then skipInsert s
      else
        let n := freeNode room.1
        let v : Node :=
          { fingerprint := fp, parent := parent, plan := trussPlan s r, policy := r.policy, tenant := trussTenant s r
            depth := BitVec.ofNat 16 d, hits := 1, lastUse := s.tick.cur.num, block := b }
        let s := storeState (setNode room.1 n v) r n backbone delta
        trussInsert r backbone delta from_ t (d + 1) (BitVec.ofNat 32 n) fp s

/-- After the prompt screen has run: new nodes, stored states, and the end of the pin (R360, R361). -/
def trussStore (s : State) (slot : Slot) (backbone delta : W32) : State :=
  let r := reqOf s slot
  if ¬ trussUsed s r then s
  else
    let from_ := ((r.trussHit).map fun n => (nodeOf s n).depth.toNat).getD 0
    trussUnpin (trussInsert r backbone delta from_ (trussBlocks r.promptBytes) 1 0xFFFFFFFF 0 s) slot

/-! ## Items of work (12 R384) -/

/-- A request's tenant is charged (R383, R386). -/
def charge (s : State) (t : BitVec 14) (cost : Nat) : State :=
  let v := tenantOf s t
  setTenant s t { v with bucket := v.bucket - cost, charged := v.charged + cost }

/-- The tiles of a role in a plan's tile table. -/
def roleTiles (p : Plan) (role : Nat) : List Nat :=
  (List.range p.tiles.length).filter fun i => (p.tiles[i]?).any fun t => t.role.toNat == role

def WorkItem.role (i : WorkItem) : Nat := match i.kind with
  | .prompt _ _ => 0
  | .watch _ => 2

def itemByN (s : State) (n : Nat) : Option WorkItem := s.req.items.find? fun i => i.n == n
def modItem (s : State) (n : Nat) (f : WorkItem → WorkItem) : State :=
  { s with req := { s.req with items := s.req.items.map fun i => if i.n = n then f i else i } }

/-- The stream engine that asks stage 4 searches, as the search arbiter orders it (08 R286). -/
def watchOrder (p : Plan) : Nat :=
  let es := (p.tiles.filter fun t => t.role == 2 && decide (32 ≤ t.engine.toNat)).map (·.engine.toNat)
  match es with
  | [] => 24
  | e :: t => 8 + (t.foldl min e - 32)

/-- Asks the stage 4 search of a position (07 R225). -/
def askWatch (slot : Slot) (i : WorkItem) (s : State) (x : Nat × Heads) : State :=
  let r := reqOf s slot
  match r.positions[x.1]? with
  | none => s
  | some p =>
    if p.s4 ≠ .pending then s
    else askSearch s
      { asker := .s4 slot x.1, key := keyOf r 2 x.1 x.2 p.events, tagBase := 0, tagLimit := 0, level := 3
        order := watchOrder (planOf s (fnOf s r.fn).act.plan), heads := x.2, fault := i.fault, tick := p.tick
        deltaVersion := i.version }

/-- Asks the prompt search once all of the prompt is screened (04 R132; 07 R225). -/
def askPrompt (s : State) (slot : Slot) : State :=
  let r := reqOf s slot
  if r.st = .prompt ∧ r.promptLast ∧ r.promptSegs.isEmpty ∧ r.promptItems = 0 ∧ ¬ r.promptSearched then
    let s := modReq s slot fun r => { r with promptSearched := true }
    askSearch s
      { asker := .prompt slot, key := keyOf r 0 0 r.promptHeads r.promptEvents, tagBase := 0, tagLimit := 0, level := 3
        order := 24, heads := r.promptHeads, fault := r.promptFault, tick := r.promptTick
        deltaVersion := r.promptDelta }
  else s

/-- A prompt item has run. -/
def promptItemDone (s : State) (slot : Slot) (i : WorkItem) (last : Bool) : State :=
  let s := modReq s slot fun r => { r with
    promptItems := r.promptItems - 1
    promptFault := r.promptFault || i.fault
    promptHeads := if last then i.heads.headD {} else r.promptHeads
    promptDelta := i.version }
  let s := if last then trussStore s slot ((i.backbone.head?.map (·.2)).getD 0) i.version else s
  tryClose (askPrompt s slot) slot s.time.now

/-- An item whose tiles have all completed delivers its heads. -/
def finishItem (s : State) (n : Nat) : State :=
  match itemByN s n with
  | none => s
  | some i =>
    if ¬ i.placed ∨ ¬ i.todo.isEmpty ∨ i.running ≠ 0 then s
    else
      let s := { s with req := { s.req with items := s.req.items.filter fun x => x.n != n } }
      match i.kind with
      | .watch ps =>
        let s := ps.foldl (watchState i.slot) s
        ((List.range ps.length).map fun k => (ps.getD k 0, i.heads.getD k {})).foldl (askWatch i.slot i) s
      | .prompt _ last => promptItemDone s i.slot i last

/-- MACs per ac of a dense or stream engine on the float path (08 R253). -/
def engineRate (e : Nat) : Nat := if e < 32 then 16384 else 8192

/-- MACs per ac of a tile: twice the rate with an INT4 operand on the integer path, half of it when a transposed load
meets one-dimensional groups (08 R253, R259). -/
def tileRate (e : Nat) (t : Tile) (int : Bool) : Nat :=
  if int ∧ (t.fmtA = 7 ∨ t.fmtB = 7) then 2 * engineRate e
  else if t.kind = 1 ∧ t.grouping ≠ 3 then engineRate e / 2 else engineRate e

/-- The ac that a tile takes on an engine's array (08 R253). -/
def tileAc (e : Nat) (t : Tile) (int : Bool) : Nat := ceilDiv (t.m.toNat * t.k.toNat * t.n.toNat) (tileRate e t int)

def tilesAt (p : Plan) (is : List Nat) : List Tile := is.filterMap fun i => p.tiles[i]?

/-- Tiles of bulk or tuning work are planned on reserved engines (08 R282). -/
def planTiles (s : State) (ts : List Tile) : State :=
  ts.foldl (fun s t =>
    let e := t.engine.toNat
    if (engOf s e).share = 0 then s
    else modEng s e fun v => { v with planned := v.planned + tileAc e t t.intPath }) s

/-- An item is placed: charged, and its tiles may start. -/
def placeItem (s : State) (n : Nat) : State :=
  match itemByN s n with
  | none => s
  | some i =>
    let plan := planOf s (fnOf s i.fn).act.plan
    let tiles := roleTiles plan i.role
    let s := charge s i.tenant i.cost
    let s := if i.latency then s
      else planTiles (modFn s i.fn fun f => { f with placedSu := f.placedSu + i.cost }) (tilesAt plan tiles)
    let k := s.req.nextPlace
    let s := { s with req := { s.req with nextPlace := k + 1 } }
    finishItem (modItem s n fun i => { i with placed := true, todo := tiles, order := k }) n

/-- New work of a request: latency-class work is processed at once (02 R44), bulk work waits for a plan. -/
def addItem (s : State) (slot : Slot) (kind : WorkKind) (cost : Nat) (tick : TickRef) (stamp : Nat) (parked : Bool) :
    State :=
  let r := reqOf s slot
  let prompt := match kind with
    | .prompt _ _ => true
    | .watch _ => false
  let i : WorkItem :=
    { n := s.req.nextItem, slot := slot, kind := kind, cost := cost, tick := tick, fn := r.fn, tenant := r.tenant
      latency := r.latency, parkedWork := parked, fault := r.watchFault, version := deltaVersionOf s r tick
      use := deltaUseOf s r tick
      backbone := backboneOf s r prompt tick, stamp := stamp }
  let s := { s with req := { s.req with items := s.req.items ++ [i], nextItem := s.req.nextItem + 1 } }
  if r.latency then placeItem s i.n else s

/-- An engine's latency-class busy time has reached its share of the minimum period (08 R284). -/
def alternates (s : State) (v : Engine) : Bool :=
  v.share != 0 && decide (v.share.toNat * (s.tick.minPeriod.toNat * 2000) ≤ 64 * v.latBusy)

/-! ## Capacity (12 R387, R391) -/

/-- K, the bulk capacity of a tick in su (R387). -/
def bulkCapacity (s : State) : Nat :=
  let sum := (List.range 48).foldl (fun t e =>
    let x := engOf s e
    if x.pool then t + engineRate e * (64 - x.share.toNat) else t) 0
  sum * (s.tick.minPeriod.toNat * 2000) / (64 * 1000000)

/-- capacity_f (R391). -/
def functionCapacity (f : FnSet) (k : Nat) : Nat := k * f.share.toNat / 64

end Sys2Proof.Machine
end

