-- ==== Sys2Proof/Machine/Stamp.lean ====
section
/-! DEFINITION. The stamp stage of a descriptor: its fields, its reserved bits and the rows of the violation table that
depend only on it, its port and its handle (03 R50 to R62, R67, R72 to R83, R120, R121, R559). -/
namespace Sys2Proof.Machine
open Sys2Proof

/-! ## Fields -/

/-- Byte `b` of a descriptor, from byte 1 on. -/
def descByte (d : Desc) (b : Nat) : Nat :=
  if b = 1 then d.flags.toNat
  else if b < 12 then bitsOf d.handle.toNat (8 * (b - 8)) 8
  else pfield d b 0 8

def promptLength (d : Desc) : Nat := pfield d 12 0 32
def promptOffset (d : Desc) : Nat := pfield d 16 0 32
def promptIsLast (d : Desc) : Bool := d.flags.getLsbD 0
def promptIsIds (d : Desc) : Bool := d.flags.getLsbD 1
def promptIsInline (d : Desc) : Bool := d.flags.getLsbD 2
def tokensCount (d : Desc) : Nat := pfield d 12 0 4
def tokensSpec (d : Desc) : Nat := pfield d 13 0 4
def tokensEnd (d : Desc) : Bool := d.flags.getLsbD 0
def tokensIds (d : Desc) : List (BitVec 20) :=
  (List.range (tokensCount d)).map fun k => BitVec.ofNat 20 (pfield d (16 + 4 * k) 0 20)

/-! ## Reserved bits (R58, R68, R72 to R83) -/

/-- Reserved bits of a 4-byte element that holds an id. -/
def idReserved (k : Nat) : Nat := if k % 4 = 2 then 0xF0 else if k % 4 = 3 then 0xFF else 0

def openReserved (b : Nat) : Nat :=
  if b = 1 then 0xFF else if b = 12 then 0xC0 else if b = 13 then 0xF8 else if b = 15 then 0xC0
  else if b = 17 then 0xF0 else if b = 18 then 0xF8 else if b = 19 then 0x40 else if b = 21 then 0xE0
  else if b = 22 ∨ b = 23 ∨ 56 ≤ b then 0xFF else 0

def promptReserved (d : Desc) (b : Nat) : Nat :=
  if b = 1 then 0xF8
  else if promptIsInline d then
    if 20 ≤ b ∧ b < 28 then 0xFF
    else if b < 28 then 0
    else if 28 + promptLength d ≤ b then 0xFF
    else if promptIsIds d then idReserved (b - 28) else 0
  else if 28 ≤ b then 0xFF else 0

def tokensReserved (d : Desc) (b : Nat) : Nat :=
  if b = 1 then 0xFE else if b = 12 ∨ b = 13 then 0xF0 else if b = 14 ∨ b = 15 then 0xFF
  else if b < 16 then 0 else if 16 + 4 * tokensCount d ≤ b then 0xFF else idReserved (b - 16)

/-- FEEDBACK; its handle field is reserved (R68). -/
def feedbackReserved (b : Nat) : Nat :=
  if b = 1 ∨ (8 ≤ b ∧ b < 12) then 0xFF else if b = 25 then 0xC0 else if b = 27 then 0xF0 else if b = 28 then 0xFC
  else if b = 29 ∨ 40 ≤ b then 0xFF else 0

def publishReserved (b : Nat) : Nat :=
  if b = 1 ∨ (8 ≤ b ∧ b < 12) then 0xFF else if b = 12 then 0xFE else if b = 13 ∨ 26 ≤ b then 0xFF else 0

/-- The reserved bits of a byte of a descriptor. -/
def reservedMask (type : Nat) (d : Desc) (b : Nat) : Nat :=
  if 2 ≤ b ∧ b < 8 then 0
  else match type with
    | 1 => openReserved b
    | 2 => promptReserved d b
    | 3 => tokensReserved d b
    | 4 => if b = 1 ∨ 14 ≤ b then 0xFF else 0
    | 6 => if b = 1 ∨ 13 ≤ b then 0xFF else if b = 12 then 0xFE else 0
    | 5 | 7 | 8 => if b = 1 ∨ 12 ≤ b then 0xFF else 0
    | 9 => feedbackReserved b
    | 10 => publishReserved b
    | _ => 0

/-- The first byte with a reserved bit set: one record names it, though others may have some too (log 88). -/
def firstReserved (type : Nat) (d : Desc) : Option Nat :=
  (List.range 64).find? fun b => decide (0 < b) && (descByte d b &&& reservedMask type d b) != 0

/-! ## Malformed fields (R75, R79, R80, R82) -/

/-- The field that is malformed, and whether the descriptor is discarded for it. -/
def badField (type : Nat) (d : Desc) : Option (Nat × Bool) :=
  match type with
  | 2 =>
    let n := promptLength d
    let top := if promptIsInline d then 36 else 1048576
    if n = 0 ∨ n > top ∨ (promptIsIds d ∧ n % 4 ≠ 0) then some (12, true) else none
  | 3 =>
    if tokensCount d = 0 ∨ tokensCount d > 12 then some (12, true)
    else if tokensSpec d > tokensCount d then some (13, true)
    else if tokensEnd d ∧ tokensSpec d ≠ 0 then some (1, false)
    else none
  | 9 => if pfield d 12 0 32 = 0 ∨ pfield d 12 0 32 > 1048576 then some (12, true) else none
  | _ => none

/-! ## The stage -/

/-- A descriptor that has passed its stamp stage. -/
structure Seen where
  desc : Desc
  type : Byte
  stamp : Nat
  tick : TickRef
  gt : W64
  reported : Bool
  tickBad : Bool
deriving DecidableEq, Repr

def onceNotOp : Nat := 1
def onceTickField : Nat := 2

/-- The tick field does not name the descriptor's tick or the one before it (R62). -/
def tickFieldBad (t : TickRef) (field : W32) : Bool :=
  t.idx != 0 && field != t.num.truncate 32 && field != (t.num - 1).truncate 32

/-- TICK_FIELD, once per port per tick, for a descriptor that is not discarded (R62). -/
def reportTickField (s : State) (x : Seen) : State :=
  if x.tickBad ∧ onceFree s onceTickField x.desc.port.val x.tick.idx then
    violate (markOnce s onceTickField x.desc.port.val x.tick.idx) x.desc x.type x.stamp x.tick .tickField
  else s

/-- Descriptors Accepted: every type on a traffic port, PUBLISH alone on a weight port (16 R479). -/
def countDesc (s : State) (p : Fin 8) (type : Nat) : State :=
  if p.val < 6 ∨ type = 10 then modPort s p fun v => { v with descs := v.descs + 1 } else s

/-- The sequence number of the port, where `want` was expected (R60), and the descriptor's place among the arrivals. -/
def takeSeq (s : State) (x : Seen) (want : W16) : State :=
  let s := if x.desc.portSeq = want then s
    else violate s x.desc x.type x.stamp x.tick .portSeq want.toNat x.desc.portSeq.toNat
  let s := modPort s x.desc.port fun v => { v with seq := x.desc.portSeq + 1 }
  { s with time := { s.time with arrivals := s.time.arrivals + 1 } }

/-- Rows that discard the descriptor at its stamp, after PORT_SEQ: NOT_OPERATIONAL and STALE_HANDLE (R55, R67). -/
def lastRows (s : State) (x : Seen) : State × Option Seen :=
  if x.type ≠ 10 ∧ s.mgmt.nmt ≠ .operational then
    let u := x.desc.port.val
    if onceFree s onceNotOp u x.tick.idx ∧ ¬ x.reported then
      (violate (markOnce s onceNotOp u x.tick.idx) x.desc x.type x.stamp x.tick .notOperational, none)
    else (s, none)
  else if x.type.toNat ≤ 8 ∧ handleGen x.desc.handle ≠ genOf s (handleSlot x.desc.handle) then
    let gen := genOf s (handleSlot x.desc.handle)
    (if x.reported then s else violate s x.desc x.type x.stamp x.tick .staleHandle gen.toNat, none)
  else (s, some x)

/-- The stamp stage: what it reports, and the descriptor if it is not discarded. Nothing happens on a port that is not
UP or in Initialisation (R55). -/
def stampStage (s : State) (d : Desc) (type : Nat) : State × Option Seen :=
  if ¬ nodeUp s ∨ ¬ portUp s d.port then (s, none)
  else
    let t := tickOf s
    let x : Seen := { desc := d, type := BitVec.ofNat 8 type, stamp := s.time.now, tick := t, gt := s.time.gtAccepted,
                      reported := false, tickBad := tickFieldBad t d.tick }
    let want := (portOf s d.port).seq
    let s := countDesc s d.port type
    let known := decide (1 ≤ type ∧ type ≤ 10)
    let s := if known then s else violate s d x.type x.stamp t .unknownType
    let s := match firstReserved type d with
      | some b => violate s d x.type x.stamp t .reservedNonzero b
      | none => s
    let bad := badField type d
    let s := match bad with
      | some (a, _) => violate s d x.type x.stamp t .badField a
      | none => s
    let drop : Bool := match bad with
      | some (_, b) => b
      | none => false
    let x := { x with reported := bad.isSome }
    let wrong := known && type != 10 && decide (6 ≤ d.port.val)
    let s := if wrong ∧ ¬ x.reported then violate s d x.type x.stamp t .wrongPort else s
    let s := takeSeq s x want
    if ¬ known ∨ drop ∨ wrong then (s, none) else lastRows s x

/-- A descriptor of a type that is not defined (R120). -/
def execUnknownType (d : Desc) (type : Byte) (s : State) : Host.Outcome State Fault Refusal :=
  if 1 ≤ type.toNat ∧ type.toNat ≤ 10 then .next s else done (stampStage s d type.toNat).1

end Sys2Proof.Machine
end

