-- ==== Sys2Proof/Machine/Requests.lean ====
section
/-! DEFINITION. The processing stage of the descriptors of a request: the lifecycle, admission, prompts, tokens, the kerf,
the queue and parking (03 R70 to R99, R116, R559; 04 R151 to R159; 11 R343 to R353, R363 to R365; 12 R391 to R393). -/
namespace Sys2Proof.Machine
open Sys2Proof

/-! ## Prompts (03 R75, R76; 12 R384) -/

/-- The bytes of an id-format segment and the events of its ids (06 R173, R186). -/
def promptIds (v : Fin 8) : List Byte → State → List Byte → List W32 → State × List Byte × List W32
  | a :: b :: c :: d :: t, s, bs, es =>
    let e := resolveId s v (leNat [a, b, c, d] % 2 ^ 20)
    let far := needsOverflow s v (leNat [a, b, c, d] % 2 ^ 20)
    let s := countId (if far then textCount s 2 1 else s) e
    promptIds v t s (bs ++ idBytes e) (es ++ idEvents e)
  | _, s, bs, es => (s, bs, es)

/-- One segment whose bytes are there joins the prompt. -/
def joinSegment (s : State) (slot : Slot) (x : PSeg) (data : List Byte) : State :=
  let v := (reqOf s slot).vocab
  let r := if x.ids then promptIds v data s [] [] else (s, data, [])
  modReq r.1 slot fun q => { q with promptBytes := q.promptBytes ++ r.2.1, promptEvents := q.promptEvents ++ r.2.2 }

/-- Adds one prompt item. -/
def promptItem (s : State) (slot : Slot) (patches : Nat) (last : Bool) (tick : TickRef) (parked : Bool) : State :=
  let r := reqOf s slot
  let unit := (planOf s (fnOf s r.fn).act.plan).costPatch.toNat
  let s := modReq s slot fun r => { r with promptPatched := r.promptPatched + patches, promptItems := r.promptItems + 1 }
  addItem s slot (.prompt patches last) (patches * unit) tick s.time.now parked

/-- Items of 256 whole patches; with the last byte in, all that is left (12 R384). -/
def promptItems (slot : Slot) (tick : TickRef) (parked full : Bool) : Nat → State → State
  | 0, s => s
  | fuel + 1, s =>
    let r := reqOf s slot
    let n := r.promptBytes.length
    let pb := (planOf s (fnOf s r.fn).act.plan).patchBytes.toNat
    let whole := (if pb = 0 then 0 else n / pb) - r.promptPatched
    if 256 < whole ∨ (whole = 256 ∧ ¬ full) then
      promptItems slot tick parked full fuel (promptItem s slot 256 false tick parked)
    else if full then promptItem s slot (ceilDiv n pb - r.promptPatched) true tick parked
    else s

/-- All of the prompt is in: its pattern events, and the state of the truss that its screen starts from (06 R174; 11 R359). -/
def promptComplete (s : State) (slot : Slot) : State :=
  let r := reqOf s slot
  let s := modReq s slot fun r => { r with
    promptEvents := promptEventsOf s r r.promptBytes r.promptEvents, promptDelta := deltaVersionOf s r r.promptTick }
  if (planOf s (fnOf s r.fn).act.plan).promptScreen then trussLookup s slot else s

/-- The segments whose bytes are in join the prompt in order, and make items. -/
def advancePrompt : Nat → State → Slot → State
  | 0, s, _ => s
  | fuel + 1, s, slot =>
    match (reqOf s slot).promptSegs with
    | [] => s
    | x :: rest =>
      match x.data with
      | none => s
      | some data =>
        let s := joinSegment s slot x data
        let s := modReq s slot fun r => { r with promptSegs := rest }
        let s := if (planOf s (fnOf s (reqOf s slot).fn).act.plan).promptScreen then trussAdvance s slot else s
        let s := if x.last then promptComplete s slot else s
        let r := reqOf s slot
        let s := if (planOf s (fnOf s r.fn).act.plan).promptScreen then
            promptItems slot x.tick x.parked x.last (r.promptBytes.length / 256 + 2) s else s
        let s := if x.last then askPrompt s slot else s
        advancePrompt fuel (tryClose s slot s.time.now) slot

def runPrompt (s : State) (slot : Slot) : State := advancePrompt ((reqOf s slot).promptSegs.length) s slot

/-- PROMPT (R75): the segment is appended; its bytes come inline or from host memory. -/
def promptAct (s : State) (slot : Slot) (q : QItem) : State :=
  let d := q.desc
  let n := promptLength d
  let off := promptOffset d
  let inline := (List.range n).map fun i => BitVec.ofNat 8 (pfield d (28 + i) 0 8)
  let seg : PSeg :=
    { offset := off, len := n, ids := promptIsIds d, last := promptIsLast d, tick := q.tick, parked := q.parked
      data := if promptIsInline d then some inline else none }
  let s := modReq s slot fun r => { r with
    st := .prompt, promptSent := r.promptSent + n, promptLast := promptIsLast d, promptSegs := r.promptSegs ++ [seg]
    promptTick := if promptIsLast d then q.tick else r.promptTick }
  if promptIsInline d then runPrompt s slot
  else startJob s (.prompt slot off) (reqOf s slot).home (BitVec.ofNat 64 (pfield d 20 0 64)) n

/-! ## Scanning (06 R185 to R187; 11 R350) -/

/-- Bulk searches of a pattern engine whose beats have not begun at a cycle wait for `beats` latency-class beats
(08 R283). -/
def pushBulk (s : State) (n : Fin 8) (start beats : Nat) : State :=
  let one (q : SearchReq) : SearchReq := match q.asker with
    | .s3 sl _ =>
      let r := reqOf s sl
      if !r.latency && r.pattern == some n && decide (start + 6 ≤ q.ready) then { q with ready := q.ready + beats } else q
    | _ => q
  { s with mortise := { s.mortise with waiting := s.mortise.waiting.map one } }

/-- A position's beats of 16 bytes on its pattern engine: from cycle 11 after its TOKENS, after `delay` more, in the order
of the engine, latency-class beats ahead of bulk ones, in alternation once the share is used (05 R163, R164; 06 R187;
08 R283, R284). The cycle in which its search asks for a slot is 6 after its last beat (log 89). -/
def scribeTake (s : State) (slot : Slot) (x : Pos) (len delay : Nat) : State × Nat :=
  let r := reqOf s slot
  match r.pattern with
  | none => (s, s.time.now)
  | some n =>
    let v := engOf s (48 + n.val)
    let beats := max 1 (ceilDiv len 16)
    let base := max (x.entered + 11) (s.time.now + 1) + delay
    if r.latency then
      let start := max base v.scribe
      let behind := decide (start < v.scribeBulk)
      let turn := alternates s v && behind
      let fin := start + (if turn then 2 * beats else beats)
      (modEng (pushBulk s n start beats) (48 + n.val) fun v => { v with
        scribe := fin, scribeBulk := if behind then v.scribeBulk + beats else v.scribeBulk
        latBusy := v.latBusy + beats
        overrunBeats := if turn then v.overrunBeats + BitVec.ofNat 64 beats else v.overrunBeats }, fin + 5)
    else
      let fin := max base (max v.scribe v.scribeBulk) + beats
      (modEng s (48 + n.val) fun v => { v with scribeBulk := fin }, fin + 5)

/-- The level and the place in its rotation of a stage 3 search (08 R286). -/
def askStage3 (s : State) (slot : Slot) (x : Pos) (fault : Bool) (ready : Nat) : State :=
  let r := reqOf s slot
  askSearch s
    { asker := .s3 slot x.p, key := keyOf r 1 x.p {} x.events, tagBase := 0, tagLimit := 0
      level := if r.latency then 2 else 3, order := ((r.pattern).map (·.val)).getD 0, fault := fault, tick := x.tick
      deltaVersion := deltaVersionOf s r x.tick, ready := ready }

/-- What END attributes to the last position (06 R191, R206, R217). -/
def endEvents (s : State) (r : Request) (a : Auto) : List W32 :=
  (match grammarImage s r with
    | some g => if !a.broken && !(gAccepting g a.gstate.toNat && a.stack.isEmpty) then [evIncomplete] else []
    | none => [])
    ++ (if a.utf8.isEmpty then [] else [evUtf8])

/-- A stop string has completed at a committed position (06 R192). -/
def Request.stopCommitted (r : Request) : Bool :=
  match r.auto.stop with
  | none => false
  | some x => (posOfByte r.positions x.2).any fun y => decide (y.p < r.c)

/-- The lines of the grammar's image that a position reads: how many come from HBM (06 R206, R207). -/
def grammarRead (s : State) (r : Request) (a : Auto) (bytes : List Byte) : State × Nat :=
  match grammarImage s r with
  | some img => cacheRead s r.grammar (tokenLines img a bytes)
  | none => (s, 0)

/-- Scans the next position. After a stop at a committed position its bytes pass the scribe and are discarded; it is not
screened further (06 R193). -/
def scanOne (s : State) (slot : Slot) (x : Pos) (ending : Bool) : State :=
  let r := reqOf s slot
  let r := if x.p ≥ r.c then
      { r with snaps := (x.p, r.auto) :: r.snaps.filter fun e => e.1 % 16 != x.p % 16 }
    else r
  let e := resolveId s r.vocab x.id.toNat
  if r.stopCommitted then
    setReq s slot { r with
      auto := { r.auto with nextOffset := r.auto.nextOffset + (idBytes e).length }
      positions := Pos.modAt r.positions x.p fun y =>
        { y with scanned := true, waitsRead := false, offset := r.auto.nextOffset, bytes := idBytes e, s4 := .absent } }
  else
    let z := scanPos s r x
    let y := z.2.1
    let y := if ending then { y with events := y.events ++ endEvents s r z.1 } else y
    let s := countId s e
    let s := if z.2.2 then textCount s 5 1 else s
    let s := setReq s slot { r with auto := z.1, positions := Pos.modAt r.positions x.p fun _ => y }
    let g := grammarRead s r r.auto y.bytes
    let b := scribeTake g.1 slot y y.bytes.length (180 * g.2)
    askStage3 b.1 slot y r.watchFault b.2

/-- The stage 4 item of a TOKENS: its positions that are to be watched. -/
def chunkItem (s : State) (slot : Slot) (k : Chunk) : State :=
  let r := reqOf s slot
  let ps := (r.positions.filter fun x => decide (k.first ≤ x.p) && decide (x.p < k.s) && x.s4 == .pending).map (·.p)
  let stamp := ((r.positions[k.first]?).map (·.stamp)).getD s.time.now
  if ps.isEmpty then s else addItem s slot (.watch ps) (ps.length * watchUnit s r) k.tick stamp k.parked

/-- A TOKENS whose last position is scanned issues its MASK chain, in cycle 22 + k after it for its k-th id (06 R215). -/
def chunkChain (s : State) (slot : Slot) (k : Chunk) : State :=
  issueChain s slot k.c k.s k.tick (max (k.entered + 22 + (k.s - k.first - 1)) s.time.now + 1)

/-- Scans positions in order as far as their entries are in; a TOKENS whose last position is scanned issues its MASK
chain, none for the positions after a committed stop (log 84), and its stage 4 item. -/
def scanAll : Nat → State → Slot → State
  | 0, s, _ => s
  | fuel + 1, s, slot =>
    let r := reqOf s slot
    match r.chains with
    | [] => s
    | k :: rest =>
      match r.positions.find? fun x => !x.scanned && decide (x.p < k.s) with
      | some x =>
        if x.waitsRead then s else scanAll fuel (scanOne s slot x (k.ending && x.p + 1 == k.s)) slot
      | none =>
        let s := modReq s slot fun r => { r with chains := rest }
        scanAll fuel (chunkItem (chunkChain s slot k) slot k) slot

def runScan (s : State) (slot : Slot) : State :=
  let r := reqOf s slot
  scanAll (r.positions.length + r.chains.length + 1) s slot

/-! ## The kerf (03 R85 to R90; 11 R349 to R353) -/

/-- Rejects the positions from `n` on: their searches and stage 4 work are discarded and the snapshots of the state before
position `n`, summary and automaton record, are restored (11 R352). -/
def rejectFrom (s : State) (slot : Slot) (n stamp : Nat) : State :=
  let s := dropWatch s slot fun p => decide (p < n)
  let s := dropSearches s fun q => match q.asker with
    | .s3 sl p => sl != slot || decide (p < n)
    | .s4 sl p => sl != slot || decide (p < n)
    | _ => true
  let s := dropResults s slot fun q => match q.asker with
    | .s3 _ p => decide (p < n)
    | .s4 _ p => decide (p < n)
    | _ => true
  let cut (k : Chunk) : Chunk := { k with s := min k.s n }
  modReq s slot fun r => { r with
    s := n
    positions := r.positions.take n
    auto := match r.snaps.find? fun e => e.1 == n with
      | some e => e.2
      | none => r.auto
    snaps := r.snaps.filter fun e => decide (e.1 < n)
    summary := match r.sumSnaps.find? fun e => e.1 == n with
      | some e => e.2
      | none => r.summary
    sumSnaps := r.sumSnaps.filter fun e => decide (e.1 < n)
    verdictsDue := r.verdictsDue.filter fun v => decide (v.pos.toNat < n)
    chains := (r.chains.filter fun k => decide (k.first < n)).map cut
    wait := .restore, waitSince := stamp }

/-- A group of positions that one descriptor commits (03 R106). -/
def addGroup (s : State) (slot : Slot) (first count : Nat) : State :=
  let r := reqOf s slot
  if r.scores ∧ (planOf s (fnOf s r.fn).act.plan).watcher ∧ count ≠ 0 then
    modReq s slot fun r => { r with groups := r.groups ++ [⟨first, count⟩] }
  else s

/-- A row of the violation table that does not discard the descriptor. -/
def reportRow (s : State) (q : QItem) (type : Byte) (code : ViolCode) (a b : Nat) : State :=
  if q.reported then s else violate s q.desc type q.stamp q.tick code a b

/-- The new positions of a TOKENS. -/
def newPositions (s : State) (r : Request) (q : QItem) (entered n : Nat) : List Pos :=
  let watch : Watch := if (planOf s (fnOf s r.fn).act.plan).watcher then .pending else .absent
  (List.range n).map fun k =>
    let id := (tokensIds q.desc).getD k 0
    { p := r.s + k, id := id, tick := q.tick, stamp := q.stamp, entered := entered, group := r.s, waitsRead := needsOverflow s r.vocab id.toNat
      s4 := watch }

/-- The head page of a request lies in the half affine to its pattern engine (11 R344, R353). -/
def headAffine (r : Request) : Bool :=
  match r.headPage, r.pattern with
  | some p, some n => p.toNat / 2 ^ 19 == n.val
  | _, _ => true

/-- The automaton record of a TOKENS is in the store of its pattern engine, or is read from the head page first
(11 R348): the cycle its path counts from. -/
def enterTokens (s : State) (slot : Slot) : State × Nat :=
  let x := useRecord s slot
  (x.1, s.time.now + (if x.2 then (if headAffine (reqOf s slot) then 180 else 184) else 0))

/-- TOKENS (R85 to R87, R91). -/
def tokensAct (s : State) (slot : Slot) (q : QItem) : State :=
  let spec := tokensSpec q.desc
  let committed := tokensCount q.desc - spec
  let ending := tokensEnd q.desc && spec == 0
  let r := reqOf s slot
  let open_ := r.s - r.c
  let s := if committed ≠ 0 ∧ open_ ≠ 0 then
      reportRow (rejectFrom s slot r.c q.stamp) q 3 .specUnresolved open_ 0
    else s
  let r := reqOf s slot
  let keep := if committed = 0 then min spec (16 - (r.s - r.c)) else spec
  let s := if keep < spec then reportRow s q 3 .specDepth (spec - keep) 0 else s
  let x := enterTokens s slot
  let s := x.1
  let news := newPositions s r q x.2 (committed + keep)
  let s := textCount s 2 (news.filter (·.waitsRead)).length
  let first := r.s
  let s := modReq s slot fun r =>
    let c := if committed = 0 then r.c else r.s + committed
    { r with
      positions := r.positions ++ news, c := c, s := r.s + committed + keep
      endSeen := r.endSeen || ending
      closeTick := if ending then some (r.closeTick.getD q.tick) else r.closeTick
      watchFault := r.watchFault || q.errs.any fun e => errCls e.code == 1
      chains := r.chains ++ [{ first := first, c := c, s := r.s + committed + keep, tick := q.tick, parked := q.parked
                               ending := ending, entered := x.2 }] }
  pump (runScan (addGroup s slot first committed) slot) slot

/-- ACCEPT (R88). The positions it commits are released 10 cycles after it at the earliest (05 R169). -/
def acceptAct (s : State) (slot : Slot) (q : QItem) : State :=
  let n := pfield q.desc 12 0 16
  let r := reqOf s slot
  let have_ := r.s - r.c
  let take := min n have_
  let s := if have_ < n then reportRow s q 4 .acceptBeyond n have_ else s
  let own (x : Pos) : Pos :=
    if r.c ≤ x.p ∧ x.p < r.c + take then { x with group := x.p, due := max x.due (s.time.now + 11) } else x
  let s := modReq s slot fun r => { r with c := r.c + take, positions := r.positions.map own }
  let s := if take < have_ then rejectFrom s slot (r.c + take) q.stamp else s
  pump (addGroup (wakeAt s slot (s.time.now + 10)) slot r.c take) slot

/-! ## Ending (03 R91 to R95) and the cold tier's end of a request -/

/-- A cold move or a copy-back of the request stops (11 R367). -/
def stopCold (s : State) (slot : Slot) : State := dropJob (dropWrites s (.cold slot)) (.cold slot)

/-- The queue holds a TOKENS with END: it was stamped before a CANCEL that is processed now (R95). -/
def endQueued (r : Request) : Bool :=
  r.queue.any fun q => q.kind == .tokens && tokensEnd q.desc && tokensSpec q.desc == 0

/-- The TOKENS and ACCEPT that a CANCEL finds queued behind a CLOSE or an END (R93). -/
def reportAfterClose : List QItem → Bool → State → State
  | [], _, s => s
  | q :: t, after, s =>
    let toks := q.kind == .tokens || q.kind == .accept
    let s := if after && toks then reportRow s q (if q.kind = .tokens then 3 else 4) .tokensAfterClose 0 0 else s
    reportAfterClose t
      (after || q.kind == .close || (q.kind == .tokens && tokensEnd q.desc && tokensSpec q.desc == 0)) s

/-- CANCEL (R94, R95). -/
def cancelAct (s : State) (slot : Slot) (q : QItem) : State :=
  let s := stopCold s slot
  let r := reqOf s slot
  let s := reportAfterClose r.queue (r.closeSeen || r.endSeen) s
  let more : Byte := flagIf (endQueued r) 1 ||| flagIf (r.queue.any fun q => q.kind == .close) 2
  let s := modReq s slot fun r => { r with cancelSeen := true, queue := [] }
  match r.pendingClosed with
  | some c => modReq s slot fun r => { r with pendingClosed := some { c with cause := c.cause ||| more ||| 4 } }
  | none => finishRequest s slot r.front ((reqOf s slot).causes ||| more) q.tick

/-- CLOSE (R92): at once while no prompt has arrived, else when everything stamped before it is done. -/
def closeAct (s : State) (slot : Slot) (q : QItem) : State :=
  let r := reqOf s slot
  let s := modReq s slot fun r => { r with closeSeen := true, closeTick := some (r.closeTick.getD q.tick) }
  match r.st with
  | .opened =>
    let s := modReq s slot fun r => { r with queue := [] }
    finishRequest s slot 0 (reqOf s slot).causes q.tick
  | .paused => pump (stopCold s slot) slot
  | _ => pump s slot

/-! ## Pausing and resuming (03 R97 to R99; 11 R363 to R367) -/

def coldCount (s : State) (k : Nat) : State :=
  match k with
  | 1 => { s with stream := { s.stream with coldMoves := s.stream.coldMoves + 1 } }
  | 2 => { s with stream := { s.stream with coldResumes := s.stream.coldResumes + 1 } }
  | 3 => { s with stream := { s.stream with coldExpired := s.stream.coldExpired + 1 } }
  | _ => { s with stream := { s.stream with coldFull := s.stream.coldFull + 1 } }

/-- Host address of a cold slot (11 R364; 12 R377). -/
def coldAddr (s : State) (r : Request) (k : Nat) : W64 :=
  (tenantOf s r.tenant).coldBase + BitVec.ofNat 64 (1048576 * k)

/-- Reserves the pages of a request again and reads its slot back, or waits for pages (11 R365). -/
def copyBack (s : State) (slot : Slot) (k : Nat) : State :=
  let r := reqOf s slot
  let p := r.pageCount.toNat
  let n := 1 + p
  if pagesFit s n then
    let s := reservePages s slot (((r.pattern).map (·.val)).getD 0) p
    let s := modReq s slot fun r => { r with coldSt := .resuming k }
    startJob s (.cold slot) r.home (coldAddr s r k) (65536 * n)
  else stateFull (modReq s slot fun r => { r with coldSt := .waitPages k }) n

/-- RESUME of kind COLD (R98; 11 R365). -/
def resumeColdAct (s : State) (slot : Slot) (q : QItem) : State :=
  let r := reqOf s slot
  if r.expiry ≠ 0 ∧ r.expiry.toNat ≤ q.gt.toNat then
    finishRequest (coldCount (stopCold s slot) 3) slot r.front 0x80 q.tick
  else
    let s := coldCount (modReq s slot fun r => { r with st := .streaming }) 2
    match r.coldSt with
    | .moved k => copyBack (modReq s slot fun r => { r with wait := .copyBack }) slot k
    | .moving _ => modReq s slot fun r => { r with wait := .copyBack }
    | _ => pump (modReq s slot fun r => { r with expiry := 0 }) slot

/-- RESUME of kind HOLD_RELEASE (R99; 04 R141). -/
def resumeHoldAct (s : State) (slot : Slot) : State :=
  let r := reqOf s slot
  if r.st = .prompt then pump (modReq s slot fun r => { r with promptHeld := false, st := .streaming }) slot
  else match r.holds with
    | [] => s
    | (p, own) :: rest =>
      pump (modReq s slot fun r => { r with
        holds := rest
        positions := if own then Pos.modAt r.positions p fun x => { x with resumed := true } else r.positions }) slot

/-! ## OPEN (03 R72 to R74; 12 R378, R391, R392) -/

/-- The entry that an OPEN describes. -/
def openEntry (d : Desc) : Request :=
  { latency := pfield d 13 0 1 == 1
    fn := Fin.ofNat 64 (pfield d 12 0 6)
    tenant := BitVec.ofNat 14 (pfield d 14 0 14)
    vocab := Fin.ofNat 8 (pfield d 18 0 3)
    scores := pfield d 13 2 1 == 1
    grammarEnable := pfield d 19 7 1 == 1
    policy := BitVec.ofNat 12 (pfield d 16 0 12)
    grammar := Fin.ofNat 64 (pfield d 19 0 6)
    stopSet := BitVec.ofNat 8 (pfield d 20 0 8)
    ringLog2 := BitVec.ofNat 5 (pfield d 21 0 5)
    trussInsert := pfield d 13 1 1 == 1
    home := d.port
    ringBase := BitVec.ofNat 64 (pfield d 24 0 64)
    doorbell := BitVec.ofNat 64 (pfield d 32 0 64)
    consumerAddr := BitVec.ofNat 64 (pfield d 40 0 64)
    requestTag := BitVec.ofNat 64 (pfield d 48 0 64) }

/-- Bad ring parameters (R73). -/
def ringBad (r : Request) : Bool :=
  decide (r.ringLog2.toNat < 12 ∨ 20 < r.ringLog2.toNat) || r.ringBase.toNat % 2 ^ r.ringLog2.toNat != 0
    || r.doorbell.toNat % 8 != 0 || r.consumerAddr.toNat % 8 != 0

/-- The policy lies in one of the tenant's ranges and its own record is valid (12 R378). -/
def policyAllowed (s : State) (t : BitVec 14) (p : BitVec 12) : Bool :=
  let rs := (tenantOf s t).ranges
  (policyOf s p).valid && ([7, 8, 9, 10].any fun k =>
    let w := (Tbl.get (0 : W32) rs k).toNat
    decide (bitsOf w 0 12 ≤ p.toNat) && decide (p.toNat < bitsOf w 16 13))

/-- Entries not FREE that a predicate holds of. -/
def reqCount (s : State) (f : Request → Bool) : Nat := (s.req.table.filter fun e => f e.2).length

/-- Checks 0x0001 to 0x0008 of an OPEN (R74); 0 passes. -/
def openCheck (s : State) (r : Request) : Nat :=
  let t := tenantOf s r.tenant
  let g := grammarOf s r.grammar
  let p := policyOf s r.policy
  if ¬ t.valid then 1
  else if (fnOf s r.fn).st = .idle then 2
  else if ¬ t.classes.getLsbD (if r.latency then 1 else 0) then 3
  else if r.latency ∧ reqCount s (·.latency) ≥ 4096 then 4
  else if ¬ policyAllowed s r.tenant r.policy then 5
  else if (vocabOf s r.vocab).st ≠ .loaded then 6
  else if r.grammarEnable ∧ ¬ (g.st = .loaded ∧ g.served.toNat = r.vocab.val ∧ p.grammars.getLsbD r.grammar.val) then 7
  else if r.stopSet ≠ 0xFF ∧ ¬ p.stopSets.getLsbD r.stopSet.toNat then 8
  else 0

/-- The demand, backlog and latency tests (12 R392, R393). A closed request counts until its entry is FREE. -/
def demandBreaks (s : State) (r : Request) : Bool :=
  let f := fnOf s r.fn
  let own (x : Request) : Bool := x.fn == r.fn
  if r.latency then decide (f.act.latencyLimit.toNat ≤ reqCount s fun x => own x && x.latency)
  else
    let cap := functionCapacity f.act (bulkCapacity s)
    let n := reqCount s fun x => own x && !x.latency && x.st != .paused && (x.st != .closing || x.admitted)
    let back := (f.backlog.filter fun e => decide (e.1 < s.tick.cur.idx)).foldl (fun t e => t + e.2) 0
    decide (cap * f.act.margin.toNat < (n + 1) * f.act.estimate.toNat * 64)
      || decide (cap * min f.act.dp.toNat f.act.dw.toNat * 256 < back)

/-- The next pattern engine of a class: in the pool, and reserved for a latency-class request (05 R162; 08 R258). -/
def nextPattern (s : State) (latency : Bool) : Option (Fin 8) :=
  let ptr := if latency then s.req.latPtr else s.req.bulkPtr
  ((List.range 8).map fun k => Fin.ofNat 8 (ptr.val + 1 + k)).find? fun n =>
    let e := engOf s (48 + n.val)
    e.pool && (!latency || e.share != 0)

/-- A refused OPEN: CLOSED REFUSED with the reason (R74). -/
def refuseOpen (s : State) (slot : Slot) (tick : TickRef) (reason : Nat) : State :=
  let s := if reason = 9 then fnCount s (reqOf s slot).fn 0x0B 1 else s
  let s := modReq s slot fun r => { r with queue := [] }
  finishRequest s slot 0 0x40 tick (BitVec.ofNat 16 reason)

/-- The pages and the pattern engine are tested, then taken, and the request is admitted: its records carry `tick`, and
it is admitted in the current one (R74; 04 R156, R159; 11 R342 to R345, R348; 13 R428). -/
def admitReq (s : State) (slot : Slot) (tick : TickRef) : State :=
  let r := reqOf s slot
  let f := (fnOf s r.fn).act
  let plan := planOf s f.plan
  let now := if s.tick.cur.idx = 0 then tick else s.tick.cur
  let n := 1 + windowCount plan
  if ¬ pagesFit s n then refuseOpen (stateFull s n) slot tick 9
  else match nextPattern s r.latency with
    | none => refuseOpen s slot tick 10
    | some e =>
      let s := { s with req :=
        if r.latency then { s.req with latPtr := e } else { s.req with bulkPtr := e } }
      let s := reservePages s slot e.val (windowCount plan)
      let s := modReq s slot fun r => { r with
        admitted := true, pattern := some e, admitTick := now, pinTicks := 0, pinned := f.pinMode == 1
        deltaVersion := (policyOf s r.policy).deltaVersion, deltaUse := useNow (policyOf s r.policy)
        promptVersion := screenVersion s plan.promptId, watcherVersion := screenVersion s plan.watcherId
        auto := startAuto (grammarImage s r), summary := List.replicate plan.decl.summaryBytes.toNat 0 }
      let s := storeTrim (useRecord s slot).1 e
      issueChain s slot 0 0 tick 0

/-- OPEN (R73, R74, R155). -/
def openAct (s : State) (slot : Slot) (q : QItem) : State :=
  let r := openEntry q.desc
  let code := openCheck s r
  let st := (fnOf s r.fn).st
  if code ≠ 0 then
    let s := setReq s slot { r with st := .opened }
    let s := if code = 6 then reportRow s q 1 .vocabAbsent r.vocab.val 0 else s
    refuseOpen s slot q.tick code
  else if st = .running then
    let full := demandBreaks s r
    let s := setReq s slot { r with st := .opened }
    if full then refuseOpen s slot q.tick 9 else admitReq s slot q.tick
  else
    let s := setReq s slot { r with st := .opened, queue := [{ q with parked := true }] }
    fnCount s r.fn 0x0E 1

/-! ## Judging (03 R70, R76, R93, R120) -/

def stateNum : ReqState → Nat
  | .free => 0 | .opened => 1 | .prompt => 2 | .streaming => 3 | .paused => 4 | .closing => 5

def typeOf : DKind → Byte
  | .openReq => 1 | .prompt => 2 | .tokens => 3 | .accept => 4 | .pause => 5 | .resumeCold => 6 | .resumeHold => 6
  | .cancel => 7 | .close => 8

abbrev Row := ViolCode × Nat

/-- PROMPT: the checks of R76 come first, in every state (R121, R559). -/
def judgePrompt (r : Request) (d : Desc) : Option Row :=
  let open_ := r.st == .opened || r.st == .prompt
  if promptOffset d ≠ r.promptSent ∨ (open_ ∧ r.promptLast) then some (.badField, 16)
  else if r.promptSent + promptLength d > 16777216 then some (.badField, 12)
  else match r.st with
    | .opened | .prompt => none
    | .closing => some (.afterClose, 0)
    | x => some (.wrongState, stateNum x)

/-- TOKENS and ACCEPT (R70, R93). -/
def judgeTokens (r : Request) : Option Row :=
  match r.st with
  | .free | .opened => some (.wrongState, stateNum r.st)
  | .closing => some (.tokensAfterClose, 0)
  | x => if r.closeSeen ∨ r.cancelSeen ∨ r.endSeen then some (.tokensAfterClose, 0)
    else if x = .paused then some (.tokensWhilePaused, 0) else none

def judgePause (r : Request) : Option Row :=
  match r.st with
  | .streaming => none
  | .closing => some (.afterClose, 0)
  | x => some (.wrongState, stateNum x)

def judgeResumeCold (r : Request) : Option Row :=
  match r.st with
  | .paused => none
  | .free => some (.wrongState, 0)
  | .closing => some (.afterClose, 0)
  | _ => some (.resumeNoTarget, 0)

def judgeResumeHold (r : Request) : Option Row :=
  match r.st with
  | .free | .paused => some (.wrongState, stateNum r.st)
  | .closing => some (.afterClose, 0)
  | .opened => some (.resumeNoTarget, 0)
  | .prompt => if r.promptHeld then none else some (.resumeNoTarget, 0)
  | .streaming => if r.holds.isEmpty then some (.resumeNoTarget, 0) else none

def judgeEnd (r : Request) : Option Row :=
  match r.st with
  | .free => some (.wrongState, 0)
  | .closing => some (.afterClose, 0)
  | _ => none

def judgeOpen (r : Request) (d : Desc) : Option Row :=
  if r.st ≠ .free then some (.slotBusy, 0)
  else if ringBad (openEntry d) then some (.ringBad, 0) else none

/-- The row that discards a descriptor when it is processed. -/
def judge (r : Request) (q : QItem) : Option Row :=
  match q.kind with
  | .openReq => judgeOpen r q.desc
  | .prompt => judgePrompt r q.desc
  | .tokens | .accept => judgeTokens r
  | .pause => judgePause r
  | .resumeCold => judgeResumeCold r
  | .resumeHold => judgeResumeHold r
  | .cancel | .close => judgeEnd r

def act (s : State) (slot : Slot) (q : QItem) : State :=
  match q.kind with
  | .openReq => openAct s slot q
  | .prompt => promptAct s slot q
  | .tokens => tokensAct s slot q
  | .accept => acceptAct s slot q
  | .pause => modReq s slot fun r => { r with st := .paused, coldSt := .inHbm, expiry := 0 }
  | .resumeCold => resumeColdAct s slot q
  | .resumeHold => resumeHoldAct s slot
  | .cancel => cancelAct s slot q
  | .close => closeAct s slot q

def QItem.seen (q : QItem) : Seen :=
  { desc := q.desc, type := typeOf q.kind, stamp := q.stamp, tick := q.tick, gt := q.gt, reported := q.reported
    tickBad := q.tickBad }

/-- The processing stage: the first row that applies discards the descriptor, else it acts. -/
def processItem (s : State) (slot : Slot) (q : QItem) : State :=
  match judge (reqOf s slot) q with
  | some (code, a) => reportRow s q (typeOf q.kind) code a 0
  | none => act (reportTickField s q.seen) slot q

/-! ## Queueing (03 R116, R117, R559; 04 R155, R157; 11 R353, R365; 17 R506) -/

def DKind.parkable : DKind → Bool
  | .openReq | .prompt | .tokens | .accept => true
  | _ => false

/-- Work of the request's function is parked. -/
def parks (s : State) (r : Request) : Bool := (fnOf s r.fn).st != .running

/-- The wait of the request stops a descriptor of this kind. -/
def waitBlocks (r : Request) (k : DKind) : Bool :=
  match r.wait with
  | .none => false
  | .restore => k == .tokens || k == .accept
  | .copyBack => true

/-- Nothing of the request but its OPEN is parked. -/
def onlyOpen (r : Request) : Bool := !r.queue.isEmpty && r.queue.all fun q => q.kind == .openReq

/-- A new descriptor joins its request's queue. -/
def mustQueue (s : State) (slot : Slot) (k : DKind) : Bool :=
  let r := reqOf s slot
  let behind := isHeld s slot r || r.pendingClosed.isSome || r.wait == .copyBack
  match k with
  | .openReq => behind || !r.queue.isEmpty
  | .cancel => false
  | .close => if r.entryBad then false else behind || (!r.queue.isEmpty && !onlyOpen r)
  | .pause => behind || !r.queue.isEmpty
  | .resumeCold | .resumeHold => behind || (!r.queue.isEmpty && !parks s r)
  | _ => behind || !r.queue.isEmpty || parks s r || waitBlocks r k || !roomFor s slot

/-- Puts a descriptor in the queue, or discards it when the queue is full (R117); a parked one is counted (04 R160). -/
def enqueue (s : State) (slot : Slot) (q : QItem) : State :=
  let r := reqOf s slot
  if r.queue.length ≥ 64 then reportRow s q (typeOf q.kind) .holdOverflow 0 0
  else
    let p := q.kind.parkable && q.kind != .openReq && parks s r && !r.entryBad
    let s := modReq s slot fun r => { r with queue := r.queue ++ [{ q with parked := p }] }
    if p then fnCount s r.fn 0x0E 1 else s

/-- CANCEL or CLOSE of a request whose entry cannot be read: it is freed at the next tick boundary (17 R506). -/
def endBadEntry (s : State) (slot : Slot) : State :=
  modReq (dropWork (stopCold s slot) slot) slot fun r => { r with st := .closing, entryEnd := true }

/-- A descriptor that has passed its stamp stage. -/
def route (s : State) (slot : Slot) (q : QItem) : State :=
  let r := reqOf s slot
  if r.st = .free then processItem s slot q
  else if r.st = .closing then
    if r.queue.isEmpty ∧ ¬ r.entryEnd then processItem s slot q
    else if r.entryEnd ∧ (q.kind = .cancel ∨ q.kind = .close) then s
    else enqueue s slot q
  else if r.entryBad ∧ (q.kind = .cancel ∨ q.kind = .close) then endBadEntry s slot
  else if mustQueue s slot q.kind then enqueue s slot q
  else processItem s slot q

/-- A descriptor of a request arrives. -/
def receive (s : State) (d : Desc) (kind : DKind) (before : State → Slot → State := fun s _ => s)
    (errs : List DetErr := []) : Host.Outcome State Fault Refusal :=
  match stampStage s d (typeOf kind).toNat with
  | (s, none) => done s
  | (s, some x) =>
    let slot := handleSlot d.handle
    done (route (before s slot) slot
      { kind := kind, desc := d, stamp := x.stamp, tick := x.tick, gt := x.gt, reported := x.reported
        tickBad := x.tickBad, errs := errs, seq := s.time.arrivals })

def execOpenReq (d : Desc) (s : State) : Host.Outcome State Fault Refusal := receive s d .openReq
def execPrompt (d : Desc) (s : State) : Host.Outcome State Fault Refusal := receive s d .prompt
def execAccept (d : Desc) (s : State) : Host.Outcome State Fault Refusal := receive s d .accept
def execPause (d : Desc) (s : State) : Host.Outcome State Fault Refusal := receive s d .pause
def execCancel (d : Desc) (s : State) : Host.Outcome State Fault Refusal := receive s d .cancel
def execClose (d : Desc) (s : State) : Host.Outcome State Fault Refusal := receive s d .close

/-- RESUME with kind COLD; a descriptor of the other kind is not this command. -/
def execResumeCold (d : Desc) (s : State) : Host.Outcome State Fault Refusal :=
  if pfield d 12 0 1 = 0 then receive s d .resumeCold else .next s

/-- RESUME with kind HOLD_RELEASE. -/
def execResumeHoldRelease (d : Desc) (s : State) : Host.Outcome State Fault Refusal :=
  if pfield d 12 0 1 = 1 then receive s d .resumeHold else .next s

/-- The errors that a TOKENS can meet on its way (17 R506). -/
def tokensErr (e : DetErr) : Bool :=
  match e.code with
  | .eccCorrected | .eccUncorrected | .parity | .hbmCorrected | .hbmUncorrected | .vocabSram | .maskCache
  | .requestEntry => true
  | _ => false

/-- Where such an error lies: the tables have one region each (01 R14). -/
def tokensErrPlace (s : State) (e : DetErr) : Place :=
  match e.code with
  | .vocabSram => stackPlace s 3 0
  | .maskCache => stackPlace s 3 1
  | .requestEntry => stackPlace s 3 3
  | _ => placeOf s e.place

/-- The errors are reported; an entry that cannot be read holds its request (17 R506). -/
def raiseTokensErrs (errs : List DetErr) (d : Desc) (s : State) (slot : Slot) : State :=
  let one (s : State) (e : DetErr) : State :=
    if e.code = .requestEntry then
      let s := raise s .requestEntry (tokensErrPlace s e) d.handle.toNat
      if (reqOf s slot).st = .free then s else modReq s slot fun r => { r with entryBad := true }
    else raiseRec s { code := e.code, place := tokensErrPlace s e, argA := e.argA, argB := e.argB }
  errs.foldl one s

def execTokens (d : Desc) (errs : List DetErr) (s : State) : Host.Outcome State Fault Refusal :=
  let es := errs.filter tokensErr
  receive s d .tokens (raiseTokensErrs es d) (es.filter fun e => e.code != .requestEntry)

/-! ## Leaving the queue -/

/-- The head of a queue may be processed. -/
def canRun (s : State) (slot : Slot) (q : QItem) : Bool :=
  let r := reqOf s slot
  if r.entryBad then false
  else if r.st = .closing then true
  else r.pendingClosed.isNone && roomFor s slot && !(q.kind.parkable && parks s r) && !waitBlocks r q.kind

/-- A parked OPEN leaves parking (04 R156); what it causes keeps its tick (R159). -/
def admitParked (s : State) (slot : Slot) (q : QItem) : State := admitReq s slot q.tick

/-- The head of a queue leaves it, if it may. -/
def takeHead (s : State) (slot : Slot) : State :=
  match (reqOf s slot).queue with
  | [] => s
  | q :: rest =>
    if canRun s slot q then
      let s := modReq s slot fun r => { r with queue := rest }
      if q.kind = .openReq ∧ q.parked then admitParked s slot q else processItem s slot q
    else s

/-- A queued or parked descriptor leaves its request's queue (R559). -/
def execDescriptorDequeue (slot : Slot) (s : State) : Host.Outcome State Fault Refusal :=
  if ¬ nodeUp s ∨ (reqOf s slot).st = .free then .next s else done (takeHead s slot)

/-- A parked descriptor's place in the stamp order: equal stamps by port, of one port in order of arrival (02 R33). -/
def parkedBefore (a b : QItem × Slot) : Bool :=
  let p := a.1.desc.port.val
  let q := b.1.desc.port.val
  decide (a.1.stamp < b.1.stamp)
    || (a.1.stamp == b.1.stamp && (decide (p < q) || (p == q && decide (a.1.seq < b.1.seq))))

def insertParked (x : QItem × Slot) : List (QItem × Slot) → List (QItem × Slot)
  | [] => [x]
  | y :: t => if parkedBefore x y then x :: y :: t else y :: insertParked x t

/-- The parked descriptors of a function, in stamp order. -/
def parkedItems (s : State) (f : Fin 64) : List (QItem × Slot) :=
  (s.req.table.flatMap fun e =>
    if e.2.fn = f then e.2.queue.map fun q => (q, BitVec.ofNat 17 e.1) else []).foldl (fun l x => insertParked x l) []

/-- When a function enters RUNNING its parked work is screened in stamp order (04 R159), and release goes on under the
settings in force from now on (R129). -/
def unpark (s : State) (f : Fin 64) : State :=
  let s := { s with req := { s.req with table := Tbl.mapVals {} (fun _ r =>
    if r.fn = f then { r with withheldSent := false } else r) s.req.table } }
  let s := (parkedItems s f).foldl (fun s x =>
    if (reqOf s x.2).queue.head? = some x.1 then takeHead s x.2 else s) s
  (s.req.table.filter fun e => e.2.fn == f).foldl (fun s e => pump s (BitVec.ofNat 17 e.1)) s

/-- The position that a WITHHELD verdict names (04 R158; TOKENS: the first position it will hold or commit). -/
def withheldPos (r : Request) (q : QItem) : W32 × Nat :=
  if r.st = .opened ∨ (r.st = .prompt ∧ ¬ r.promptHeld) then (0xFFFFFFFF, 0)
  else
    let commits := q.kind == .tokens && tokensSpec q.desc != tokensCount q.desc
    (BitVec.ofNat 32 (if q.kind = .accept ∨ commits then r.c else r.s), 1)

/-- A request's oldest parked descriptor has been parked across Park Limit boundaries (04 R158). -/
def execParkLimitExpiry (slot : Slot) (s : State) : Host.Outcome State Fault Refusal :=
  let r := reqOf s slot
  match r.queue.find? (·.parked) with
  | none => .next s
  | some q =>
    if ¬ nodeUp s ∨ r.withheldSent ∨ r.entryBad ∨ r.st = .closing ∨ ¬ parks s r ∨ ¬ roomFor s slot
        ∨ q.boundaries < (fnOf s r.fn).act.parkLimit.toNat then .next s
    else
      let p := withheldPos r q
      let d := deltaVersionOf s r q.tick
      let s := modReq s slot fun r => { r with withheldSent := true }
      done (issue s slot
        { flags := 8 ||| flagIf (s.boot.verState == 2) 4, tick := q.tick, handle := handleOf s slot
          body := .verdict { position := p.1, stage := BitVec.ofNat 4 p.2, cls := 2, deltaVersion := d.truncate 16 } })

/-- The half that a vocabulary entry of the HBM overflow array lies in (06 R183; 11 R376). -/
def overflowHalf (v : Fin 8) (id : Nat) : Nat := (67108864 * v.val + 64 * id) / 65536 % 8

/-- The first cycle in which a position's overflow entry can be in: cycle 10 of the path and 180 more, from another half
at least 4 on top (05 R168; 01 R10). -/
def overflowAt (r : Request) (x : Pos) : Nat :=
  x.entered + 190 + (if r.pattern.any fun n => n.val != overflowHalf r.vocab x.id.toNat then 4 else 0)

/-- The HBM overflow entry of a position is in (06 R185). -/
def execVocabOverflowRead (slot : Slot) (position : W32) (s : State) : Host.Outcome State Fault Refusal :=
  let r := reqOf s slot
  if coreRuns s ∧ (r.positions[position.toNat]?).any (fun x => x.waitsRead && decide (overflowAt r x ≤ s.time.now)) then
    let s := modReq s slot fun r => { r with
      positions := Pos.modAt r.positions position.toNat fun x => { x with waitsRead := false } }
    if r.st = .closing ∨ r.pendingClosed.isSome then .next s else done (pump (runScan s slot) slot)
  else .next s

/-- A snapshot restore completes 200 ac after the descriptor that rejects, more when the head page is not affine
(11 R353). -/
def execSnapshotRestore (slot : Slot) (s : State) : Host.Outcome State Fault Refusal :=
  let r := reqOf s slot
  if coreRuns s ∧ r.wait = .restore ∧ s.time.now ≥ r.waitSince + (if headAffine r then 200 else 204) then
    .next (modReq s slot fun r => { r with wait := .none })
  else .next s

end Sys2Proof.Machine
end

