-- ==== Sys2Proof/Machine/Links.lean ====
section
/-! DEFINITION. The ports: links, messages, acknowledgements and failures, and the consumer indices (18 R509 to R515;
03 R112 to R118). -/
namespace Sys2Proof.Machine
open Sys2Proof

/-- The links have been trained by start-up (19 R542 step 8). -/
def linksTrained (s : State) : Bool :=
  coreRuns s && s.boot.step != .hbm && s.boot.step != .links

/-- The port carries messages. -/
def portAlive (s : State) (p : Fin 8) : Bool := linksTrained s && portUp s p

/-- A violation about a message that is no descriptor (R511). -/
def violateMsg (s : State) (p : Fin 8) (a : Nat) : State :=
  violateAt s (tickOf s) 0
    { code := .badField, port := BitVec.ofNat 5 p.val, stamp := s.time.now, detailA := BitVec.ofNat 64 a }

/-! ## Links (18 R509, R515; 17 R506) -/

/-- The link leaves UP, or a training ends without it. -/
def execLinkDown (port : Fin 8) (s : State) : Host.Outcome State Fault Refusal :=
  let p := portOf s port
  if ¬ linksTrained s ∨ p.link = .down then .next s
  else
    let s := modPort s port fun v => { v with link := .down, width := 0 }
    if p.link = .up then
      done (raise (modPort s port fun v => { v with detected := v.detected + 1 }) .linkDown (hostPlace port.val) 0)
    else done s

/-- The records of the requests of a home port go on (17 R506). -/
def drainPort (s : State) (port : Fin 8) : State :=
  (s.req.table.filter fun e => e.2.home == port && e.2.st != .closing).foldl
    (fun s e => goOn s (BitVec.ofNat 17 e.1)) s

/-- The link is UP again: every unacknowledged WRITE is sent again, then what waited (R515). -/
def execLinkUp (port : Fin 8) (half : Bool) (s : State) : Host.Outcome State Fault Refusal :=
  if ¬ linksTrained s ∨ (portOf s port).link = .up then .next s
  else
    let s := modPort s port fun v =>
      let v := { v with link := .up, width := if half then 32 else 64 }
      let again := v.unacked.foldl (fun n m => n + m.data.size) 0
      { v with
        bytesOut := v.bytesOut + BitVec.ofNat 64 again
        nextSlot := max v.nextSlot (2 * s.time.now) + v.unacked.foldl (fun n m => n + slotUnits v m.data.size) 0
        unacked := v.unacked.map fun m => { m with sentAt := s.time.now } }
    done (drainPort (pumpAt s port) port)

/-- A transfer completed by link-level retry (17 R506). -/
def execLinkRetry (port : Fin 8) (s : State) : Host.Outcome State Fault Refusal :=
  if ¬ portAlive s port then .next s
  else
    let n := (portOf s port).retries + 1
    done (raise (modPort s port fun v => { v with corrected := v.corrected + 1, retries := n }) .linkRetry
      (hostPlace port.val) n)

/-- The host starts a retrain: the link leaves UP (R509). -/
def execLinkRetrain (port : Fin 8) (s : State) : Host.Outcome State Fault Refusal :=
  let p := portOf s port
  if ¬ linksTrained s then .next s
  else
    let s := modPort s port fun v => { v with link := .training, width := 0 }
    if p.link = .up then
      done (raise (modPort s port fun v => { v with detected := v.detected + 1 }) .linkDown (hostPlace port.val) 1)
    else done s

/-! ## Messages that are no descriptor (R511) -/

/-- A WRITE that is no descriptor. -/
def execHostWriteStray (port : Fin 8) (addr : W64) (len : BitVec 12) (s : State) : Host.Outcome State Fault Refusal :=
  if ¬ portAlive s port then .next s
  else if addr ≠ 0 then done (violateMsg s port 8)
  else if len ≠ 63 then done (violateMsg s port 2)
  else .next s

/-- A READ of the host is answered with COMPLETION_ERROR. -/
def execHostRead (port : Fin 8) (tag : W16) (s : State) : Host.Outcome State Fault Refusal :=
  if portAlive s port then .next (modPort s port fun v => { v with answers := tag :: v.answers }) else .next s

/-- A message whose op is reserved. -/
def execHostMessageReservedOp (port : Fin 8) (op : BitVec 4) (s : State) : Host.Outcome State Fault Refusal :=
  if portAlive s port ∧ ¬ (1 ≤ op.toNat ∧ op.toNat ≤ 4) then done (violateMsg s port 0) else .next s

/-! ## Consumer indices (03 R112 to R118) -/

/-- The value lies beyond the producer index modulo 2^32: by 1 to 2^31 - 1 (03 R114; log 90). -/
def beyond (value producer : W32) : Bool :=
  let d := (value - producer).toNat
  decide (0 < d ∧ d < 2 ^ 31)

/-- CONSUMER_AHEAD; the host error ring and the calibration log ring have no home port, so the record names the port that
reads their index (log 91). -/
def consumerAhead (s : State) (port : Fin 8) (handle : W32) (value producer : W32) : State :=
  violateAt s (tickOf s) handle
    { code := .consumerAhead, port := BitVec.ofNat 5 port.val, stamp := s.time.now
      detailA := value.zeroExtend 64, detailB := producer.zeroExtend 64 }

/-- A read of a consumer index has returned. -/
def consumerReturn (s : State) (ref : RingRef) (value : W32) : State :=
  match ref with
  | .req slot gen =>
    let r := reqOf s slot
    if r.st = .free ∨ genOf s slot ≠ gen ∨ r.entryBad then s
    else if beyond value r.producer then consumerAhead s r.home (handleOf s slot) value r.producer
    else
      let moved := value != r.consumer
      let s := modReq s slot fun r =>
        let r := { r with consumer := value, holdTicks := if moved then 0 else r.holdTicks }
        { r with held := r.free == 0, holdReported := r.holdReported && r.free == 0 }
      if r.st = .closing then s else goOn s slot
  | .err =>
    let g := s.err.ring
    if beyond value g.producer then consumerAhead s (errPort s) 0 value g.producer
    else { s with err := { s.err with ring := { g with consumer := value } } }
  | .cal =>
    let g := s.cal.ring
    if beyond value g.producer then consumerAhead s (errPort s) 0 value g.producer
    else { s with cal := { s.cal with ring := { g with consumer := value } } }

/-- A held request's ring has seen no progress for the Ring Stall Limit (R118). -/
def execHoldRing (slot : Slot) (s : State) : Host.Outcome State Fault Refusal :=
  let r := reqOf s slot
  if nodeUp s ∧ r.st ≠ .free ∧ isHeld s slot r ∧ ¬ r.holdReported ∧ s.err.stallNow.toNat ≤ r.holdTicks then
    done (violateAt (modReq s slot fun r => { r with holdReported := true }) (tickOf s) (handleOf s slot)
      { code := .holdRing, port := BitVec.ofNat 5 r.home.val, stamp := s.time.now
        detailA := BitVec.ofNat 64 r.holdTicks })
  else .next s

/-! ## Reads -/

def readByTag (s : State) (port : Fin 8) (tag : BitVec 15) : Option ReadMsg :=
  (portOf s port).reads.find? fun m => m.tag == tag

/-- An answered or failed READ is no longer outstanding; the next one may be sent. -/
def endRead (s : State) (port : Fin 8) (tag : BitVec 15) : State :=
  pumpAfter s port fun v => { v with reads := v.reads.filter fun m => m.tag != tag }

def modJob (s : State) (k : JobKey) (f : Job → Job) : State :=
  { s with jobs := s.jobs.map fun j => if j.key = k then f j else j }

/-- Jobs whose completion has no command of its own take effect with their last READ. -/
def jobDone (s : State) (k : JobKey) : State :=
  match jobOf s k with
  | none => s
  | some j =>
    if j.left ≠ 0 then s
    else match k with
      | .prompt slot off =>
        let fill (x : PSeg) : PSeg := if x.offset = off then { x with data := some j.bytes } else x
        let s := modReq (dropJob s k) slot fun r => { r with promptSegs := r.promptSegs.map fill }
        runPrompt s slot
      | .span _ _ => dropJob s k
      | _ => s

/-- The data of a READ. -/
def deliverRead (s : State) (m : ReadMsg) (data : List Byte) : State :=
  match m.purpose with
  | .consumer r => consumerReturn s r (BitVec.ofNat 32 (leNat data))
  | .job k off =>
    jobDone (modJob s k fun j => { j with got := j.got ++ [(off, data)], left := j.left - data.length }) k

/-- The handle that a job's transfer concerns, or 0. -/
def jobHandle (s : State) : JobKey → W32
  | .prompt slot _ => handleOf s slot
  | .cold slot => handleOf s slot
  | _ => 0

/-- Failed reads of these jobs are held and retried at each T_n; other rules name a result (R514). -/
def retriedJob : JobKey → Bool
  | .prompt _ _ => true
  | .span _ _ => true
  | .cold _ => true
  | _ => false

/-- A READ fails (R514). -/
def failRead (s : State) (port : Fin 8) (m : ReadMsg) : State :=
  let s := modPort (endRead s port m.tag) port fun v => { v with detected := v.detected + 1 }
  match m.purpose with
  | .consumer _ => s
  | .job k _ =>
    if (jobOf s k).isNone then s
    else if retriedJob k then
      raise (modPort s port fun v => { v with failedReads := v.failedReads ++ [m] }) .hostWrite (hostPlace port.val)
        m.addr.toNat (jobHandle s k).toNat
    else modJob s k fun j => { j with failed := some (j.failed.getD m.addr) }

/-! ## Writes -/

def writeByNum (s : State) (port : Fin 8) (num : BitVec 15) : Option WriteMsg :=
  (portOf s port).unacked.find? fun m => m.num == num

/-- The WRITEs after the one acknowledged. -/
def afterNum (num : BitVec 15) : List WriteMsg → List WriteMsg
  | [] => []
  | m :: t => if m.num = num then t else afterNum num t

/-- Ends a checkpoint or a restore with a result (14 R437, R440, R442). -/
def endCheckpoint (s : State) (code : Byte) : State :=
  dropWrites { s with
    ckpt := { s.ckpt with st := .idle, last := code, sections := [], fragment := [], chosen := none, tuned := 0, cands := [] }
    stream := { s.stream with copySet := [], staged := [], freePending := [] } } .checkpoint

/-- A cold move whose write fails keeps its pages in HBM (11 R367). -/
def coldWriteFail (s : State) (port : Fin 8) (slot : Slot) (addr : W64) : State :=
  let s := dropWrites s (.cold slot)
  let s := modReq s slot fun r => { r with
    coldSt := .inHbm, wait := if r.wait = .copyBack then .none else r.wait }
  raise s .coldWrite (hostPlace port.val) (handleOf s slot).toNat addr.toNat

/-- The destination's record waits for its retry (R514). -/
def holdWrite (s : State) (port : Fin 8) (m : WriteMsg) : State :=
  let h : W32 := match m.dest with
    | .ring slot => handleOf s slot
    | _ => 0
  raise (modPort s port fun v => { v with failedWrites := v.failedWrites ++ [{ m with retry := true }] })
    .hostWrite (hostPlace port.val) m.addr.toNat h.toNat

/-- A WRITE fails (R514; 11 R367; 14 R440). A failed evidence write repeats step 11 of start-up (19 R544). -/
def failWrite (s : State) (port : Fin 8) (m : WriteMsg) : State :=
  let s := modPort s port fun v =>
    { v with detected := v.detected + 1, unacked := v.unacked.filter fun x => x.num != m.num }
  match m.dest with
  | .cold slot => coldWriteFail s port slot m.addr
  | .checkpoint =>
    if s.ckpt.st = .writing then
      raiseRec (endCheckpoint s 0x53) { code := .checkpointFailed, argA := 0x53, partner := true }
    else s
  | .evidence =>
    if s.boot.step = .evidence then
      bootFail (dropWrites s .evidence) .hostWrite (hostPlace port.val) m.addr.toNat
    else s
  | _ => holdWrite s port m

/-! ## Answers and timeouts (R511 to R514) -/

/-- A COMPLETION: it acknowledges a WRITE and every earlier one, or answers a READ. -/
def execCompletion (port : Fin 8) (tag : W16) (data : List Byte) (s : State) : Host.Outcome State Fault Refusal :=
  let low : BitVec 15 := tag.truncate 15
  if ¬ portAlive s port then .next s
  else if tag.getLsbD 15 then
    match readByTag s port low with
    | none => done (violateMsg s port 4)
    | some m =>
      if data.length ≠ m.len then done (failRead s port m) else done (deliverRead (endRead s port low) m data)
  else match writeByNum s port low with
    | none => done (violateMsg s port 4)
    | some _ =>
      done (drainPort (pumpAfter s port fun v => { v with unacked := afterNum low v.unacked }) port)

/-- A COMPLETION_ERROR: one WRITE or one READ has failed. -/
def execCompletionError (port : Fin 8) (tag : W16) (s : State) : Host.Outcome State Fault Refusal :=
  let low : BitVec 15 := tag.truncate 15
  if ¬ portAlive s port then .next s
  else if tag.getLsbD 15 then
    match readByTag s port low with
    | none => done (violateMsg s port 4)
    | some m => done (failRead s port m)
  else match writeByNum s port low with
    | none => done (violateMsg s port 4)
    | some m => done (failWrite s port m)

/-- A READ has not been answered within 200,000 ac. -/
def execReadTimeout (port : Fin 8) (tag : BitVec 15) (s : State) : Host.Outcome State Fault Refusal :=
  match readByTag s port tag with
  | some m => if linksTrained s ∧ s.time.now ≥ m.sentAt + 200000 then done (failRead s port m) else .next s
  | none => .next s

/-- A WRITE has not been acknowledged within 100,000 ac. -/
def execWriteTimeout (port : Fin 8) (tag : BitVec 15) (s : State) : Host.Outcome State Fault Refusal :=
  match writeByNum s port tag with
  | some m => if linksTrained s ∧ s.time.now ≥ m.sentAt + 100000 then done (failWrite s port m) else .next s
  | none => .next s

/-- The read of a consumer index returns (03 R112, R114). -/
def execConsumerIndexReturn (port : Fin 8) (tag : BitVec 15) (value : W32) (s : State) :
    Host.Outcome State Fault Refusal :=
  match readByTag s port tag with
  | some m => match m.purpose with
    | .consumer r => if portAlive s port then done (consumerReturn (endRead s port tag) r value) else .next s
    | .job _ _ => .next s
  | none => .next s

end Sys2Proof.Machine
end

