-- ==== Sys2Proof/Machine/Records.lean ====
section
/-! DEFINITION. The bytes of records, log entries and indices as they are written to host memory (03 R56, R57, R61,
R100 to R108, R110; 10 R338). -/
namespace Sys2Proof.Machine
open Sys2Proof

def headWord (h : Option W16) : List Byte := leW 2 (h.getD 0)
def headBytes (h : Heads) : List Byte := headWord h.h0 ++ headWord h.h1 ++ headWord h.h2 ++ headWord h.h3
/-- Two fields of 4 bits. -/
def nibbles (hi lo : BitVec 4) : Byte := hi ++ lo
def boolBit (b : Bool) : Nat := if b then 1 else 0

def RecBody.type : RecBody → Byte
  | .verdict _ => 0x41 | .mask _ => 0x42 | .release _ => 0x43 | .retract _ => 0x44
  | .closed _ => 0x45 | .scores _ => 0x46 | .violation _ => 0x47 | .notice _ => 0x48

/-- Bytes 12 to 63, before the reserved bytes at the end. -/
def RecBody.bytes : RecBody → List Byte
  | .verdict v =>
    leW 4 v.position ++ [nibbles v.stage v.cls, v.annotation] ++ leW 2 v.notify ++ leW 4 v.tag
      ++ [nibbles 0 v.relAction, BitVec.ofNat 8 (boolBit v.speculative)] ++ leW 2 v.deltaVersion ++ leW 4 v.committed
      ++ leBytes 8 v.issueStamp ++ headBytes v.heads
  | .mask v =>
    leW 4 v.position ++ [BitVec.ofNat 8 (32 * boolBit v.deadEnd + 16 * boolBit v.continues + v.ids.length)] ++ zeros 3
      ++ leW 4 v.fallback ++ v.ids.flatMap (leW 4)
  | .release v =>
    leW 4 v.tokenIndex ++ leW 2 v.tokenOffset ++ [BitVec.ofNat 8 v.bytes.length, 0] ++ leW 8 v.answerOffset ++ v.bytes
  | .retract v =>
    leW 4 v.tokenIndex ++ leW 2 v.tokenOffset ++ [nibbles 0 v.cls, v.annotation] ++ leW 8 v.answerOffset ++ leW 4 v.tag
      ++ leBytes 8 v.issueStamp
  | .closed v =>
    [v.cause, 0] ++ leW 2 v.reason ++ leW 4 v.stopIndex ++ leW 2 v.stopOffset ++ leW 2 v.heldDiscarded
      ++ leW 2 v.verdictsDiscarded ++ zeros 2 ++ leW 4 v.committed ++ leW 8 v.releasedBytes ++ leW 8 v.requestTag
      ++ leW 4 v.nextHandle ++ leW 4 v.freeTick
  | .scores v =>
    leW 4 v.position ++ [BitVec.ofNat 8 v.scores.length, 0] ++ leW 2 v.deltaVersion ++ zeros 4
      ++ v.scores.flatMap headBytes
  | .violation v =>
    leBytes 2 v.code.num ++ [v.port.zeroExtend 8, v.descType] ++ leW 2 v.descSeq ++ zeros 6 ++ leBytes 8 v.stamp
      ++ leW 8 v.detailA ++ leW 8 v.detailB
  | .notice v =>
    leW 2 v.emcyCode ++ [v.errReg, v.cls.zeroExtend 8] ++ leW 5 (detailOf v.place v.code) ++ zeros 3
      ++ leBytes 8 v.stamp ++ leW 8 v.argA ++ leW 8 v.argB ++ leW 8 v.argC

/-- The 64 bytes of a record with its port_seq. -/
def Rec.bytes (r : Rec) (seq : W16) : List Byte :=
  padTo 64 ([r.body.type, r.flags] ++ leW 2 seq ++ leBytes 4 (r.tick.num.toNat % 2 ^ 32) ++ leW 4 r.handle ++ r.body.bytes)

/-- The 32 bytes of a calibration log entry (10 R338). -/
def CalEntry.bytes (e : CalEntry) : List Byte :=
  padTo 32 (leW 6 e.tick ++ leW 2 e.slot ++ [nibbles e.fmt (e.cause.zeroExtend 4), 0] ++ leW 2 e.oldScale ++ leW 2 e.newScale
    ++ zeros 2 ++ leW 4 e.windowMax ++ leW 4 e.periodMax ++ leW 4 e.saturations)

/-! ## The pages of a stream (11 R345 to R347) -/

/-- The automaton record. The codes of utf8_state and scribe_state are not in the spec: the bytes of the incomplete
sequence under their number, and 0 (log 87). `released` is the answer offset of the next byte to be released. -/
def Auto.bytes (released : Nat) (a : Auto) : List Byte :=
  let word := (if a.broken then 2 ^ 31 else 0) + (if a.deadEnd then 2 ^ 30 else 0) + a.stack.length * 2 ^ 23 + a.gstate.toNat
  padTo 640 (leBytes 4 word ++ padTo 256 (a.stack.reverse.flatMap fun e => leBytes 4 (e.1.toNat * 2 ^ 24 + e.2.toNat))
    ++ padTo 3 a.utf8 ++ [BitVec.ofNat 8 a.utf8.length] ++ leBytes 4 (a.held.length % 128) ++ padTo 128 a.held
    ++ leBytes 8 (a.nextOffset - a.held.length) ++ leBytes 8 released ++ a.rules.flatMap (leW 4))

/-- The automaton record that 640 bytes hold. -/
def readAuto (b : List Byte) (stop : Option (Nat × Nat)) : Auto :=
  let word := leAt b 0 4
  let n := leAt b 264 4 % 128
  { broken := word.testBit 31, deadEnd := word.testBit 30, gstate := BitVec.ofNat 18 word
    stack := ((List.range (bitsOf word 23 7)).map fun i =>
      let w := leAt b (4 + 4 * i) 4
      (BitVec.ofNat 8 (w / 2 ^ 24), BitVec.ofNat 18 w)).reverse
    utf8 := (b.drop 260).take (leAt b 263 1), held := (b.drop 268).take n, nextOffset := leAt b 396 8 + n
    rules := (List.range 16).map fun i => BitVec.ofNat 32 (leAt b (412 + 4 * i) 4), stop := stop }

/-- Pieces at ascending offsets, zeros between them. -/
def layOut : List (Nat × List Byte) → Nat → List Byte
  | [], _ => []
  | (o, b) :: t, at_ => zeros (o - at_) ++ b ++ layOut t (o + b.length)

/-- Window page i (R346). -/
def ColdImage.windowPage (x : ColdImage) (i : Nat) : List Byte :=
  padTo 65536 (layOut ((x.window.filter fun e => e.1 / 65536 == i).map fun e => (e.1 % 65536, e.2)) 0)

/-- The head page (R345); a cold move finds no speculation, so its snapshots are not in use. -/
def ColdImage.headPage (x : ColdImage) : List Byte :=
  let p := x.pages.length
  let top := padTo 63232
    (padTo 64 (leW 8 x.requestTag ++ leBytes 2 p ++ leBytes 2 x.summary.length ++ leW 4 x.delta ++ leW 6 x.tick)
      ++ padTo 64 (x.pages.flatMap (leW 4)) ++ padTo 52224 x.summary ++ x.auto.bytes x.released)
  let body := padTo 63292 (top ++ (List.range p).flatMap fun i => leW 4 (crc32c (x.windowPage i)))
  padTo 65536 (body ++ leW 4 (crc32c body))

/-- Page 0 of a cold slot is the head page, page i + 1 window page i (R364). -/
def ColdImage.page (x : ColdImage) (k : Nat) : List Byte := if k = 0 then x.headPage else x.windowPage (k - 1)

/-- The bytes of a WRITE's data. -/
def Payload.data : Payload → List Byte
  | .record r seq => r.bytes seq
  | .index v => leW 4 v
  | .calEntry e => e.bytes
  | .bytes b => b
  | .coldPage x page part => ((x.page page).drop (4096 * part)).take 4096

end Sys2Proof.Machine
end

