-- ==== Sys2Proof/Machine/Cold.lean ====
section
/-! DEFINITION. The cold tier and the background copier (11 R363 to R372). -/
namespace Sys2Proof.Machine
open Sys2Proof

/-! ## Cold moves (R363, R364, R367) -/

/-- The cold slot that a request holds. -/
def Cold.slot? : Cold → Option Nat
  | .moving k | .moved k | .resuming k | .waitPages k => some k
  | _ => none

/-- The tenant's lowest free cold slot. -/
def freeColdSlot (s : State) (t : BitVec 14) : Option Nat :=
  let used := s.req.table.filterMap fun e => if e.2.tenant = t then e.2.coldSt.slot? else none
  (List.range (min (tenantOf s t).coldSlots.toNat (used.length + 1))).find? fun k => !used.contains k

/-- The work of every descriptor stamped before the PAUSE is done (R363). -/
def settled (s : State) (slot : Slot) : Bool :=
  let r := reqOf s slot
  r.chains.isEmpty && r.results.isEmpty && r.verdictsDue.isEmpty && !r.positions.any (·.waitsRead)
    && !s.req.items.any (fun i => i.slot == slot)
    && !s.mortise.waiting.any (fun q => askerSlot q.asker == some slot)
    && !s.mortise.searches.any (fun x => askerSlot x.req.asker == some slot)

/-- The WRITEs of one page of a cold slot: none crosses a 4 KiB boundary (18 R510). -/
def sendColdPage (slot : Slot) (image : ColdImage) (port : Fin 8) (base : W64) (s : State) (page : Nat) : State :=
  (List.range 16).foldl (fun s i =>
    sendWrite s port (.cold slot) (base + BitVec.ofNat 64 (65536 * page + 4096 * i)) (.coldPage image page i)) s

/-- The contents of a request's pages (R345, R346). -/
def coldImage (s : State) (r : Request) : ColdImage :=
  { requestTag := r.requestTag, pages := r.windowPages, delta := deltaVersionOf s r s.tick.cur, tick := r.admitTick.num
    summary := r.summary, auto := r.headAuto, released := r.released, window := r.window }

/-- What a slot read back holds: the automaton record, the summary and the window entries (R365). -/
def reloadPages (b : List Byte) (r : Request) : Request :=
  let a := readAuto ((b.drop 52352).take 640) r.auto.stop
  { r with
    auto := a, headAuto := a, snaps := [], sumSnaps := [], summary := (b.drop 128).take r.summary.length
    window := r.window.map fun e => (e.1, (b.drop (65536 + e.1)).take e.2.length) }

/-- A paused request at T_n: its move begins, or waits for a cold slot (R363, R367). -/
def startColdMove (s : State) (slot : Slot) : State :=
  let r := reqOf s slot
  if ¬ (r.st = .paused ∧ r.coldSt = .inHbm ∧ settled s slot ∧ ¬ r.entryBad) then s
  else
    let s := if r.c < r.s then modReq (rejectFrom s slot r.c s.time.now) slot fun r => { r with wait := .none } else s
    let s := dropRecord s slot
    let ttl := (tenantOf s r.tenant).coldTtl.toNat * 1000
    let s := modReq s slot fun r => { r with
      expiry := if r.expiry = 0 then s.time.gtAccepted + BitVec.ofNat 64 ttl else r.expiry }
    match freeColdSlot s r.tenant with
    | none => raise (coldCount s 4) .coldFull {} (handleOf s slot).toNat r.tenant.toNat
    | some k =>
      let s := modReq s slot fun r => { r with coldSt := .moving k }
      (List.range (1 + r.windowPages.length)).foldl
        (sendColdPage slot (coldImage s (reqOf s slot)) r.home (coldAddr s r k)) s

/-- Every WRITE of the move is acknowledged: the HBM pages are freed (R363); a RESUME that came meanwhile copies them
back (R367). -/
def execColdMoveComplete (slot : Slot) (s : State) : Host.Outcome State Fault Refusal :=
  let r := reqOf s slot
  match r.coldSt with
  | .moving k =>
    if ¬ coreRuns s ∨ r.st = .free ∨ r.st = .closing ∨ writesLeft s (.cold slot) then .next s
    else
      let s := coldCount (modReq s slot fun r => { r with
        cold := true, headPage := none, windowPages := [], coldSt := .moved k }) 1
      done (if r.wait = .copyBack then copyBack s slot k else s)
  | _ => .next s

/-- The first page of a cold slot whose CRC does not match: 0 the head page, i + 1 window page i (R345). -/
def badPage (b : List Byte) (windows : Nat) : Option Nat :=
  if leAt b 63292 4 ≠ (crc32c (b.take 63292)).toNat then some 0
  else ((List.range windows).find? fun i =>
    leAt b (63232 + 4 * i) 4 != (crc32c ((b.drop (65536 * (i + 1))).take 65536)).toNat).map (· + 1)

/-- The pages of a resumed request have been read back: checked, or answered EXPIRED (R365, R367). -/
def execColdCopyBack (slot : Slot) (s : State) : Host.Outcome State Fault Refusal :=
  let r := reqOf s slot
  match r.coldSt, jobOf s (.cold slot) with
  | .resuming _, some j =>
    if ¬ coreRuns s ∨ r.st = .free ∨ r.st = .closing ∨ j.left ≠ 0 then .next s
    else
      let s := dropJob s (.cold slot)
      let s := modReq s slot fun r => { r with cold := false, wait := .none, expiry := 0, coldSt := .inHbm }
      match badPage j.bytes r.windowPages.length with
      | none => done (pump (useRecord (modReq s slot (reloadPages j.bytes)) slot).1 slot)
      | some page =>
        let s := modReq s slot fun r => { r with headPage := none, windowPages := [] }
        let s := raise s .coldCorrupt {} (handleOf s slot).toNat page
        done (finishRequest s slot r.front 0x80 (tickOf s))
  | _, _ => .next s

/-- At a tick boundary at or after expiry the cold slot is released (R366). -/
def execColdExpiry (slot : Slot) (s : State) : Host.Outcome State Fault Refusal :=
  let r := reqOf s slot
  if coreRuns s ∧ s.tick.cur.idx ≠ 0 ∧ s.time.now = s.tick.at_ ∧ r.st = .paused ∧ r.coldSt ≠ .released
      ∧ r.expiry ≠ 0 ∧ r.expiry.toNat ≤ s.time.gtAccepted.toNat then
    let moved := r.coldSt.slot?.isSome
    .next (modReq (stopCold s slot) slot fun r => { r with
      coldSt := .released, cold := false
      headPage := if moved then none else r.headPage, windowPages := if moved then [] else r.windowPages })
  else .next s

/-- The cold side of T_n: resumed requests that wait for pages, then moves (R363, R365). -/
def coldTick (s : State) : State :=
  (s.req.table.map fun e => BitVec.ofNat 17 e.1).foldl (fun s slot =>
    match (reqOf s slot).coldSt with
    | .waitPages k => if (reqOf s slot).st = .closing then s else copyBack s slot k
    | _ => startColdMove s slot) s

/-! ## Copy before write (R369 to R372) -/

/-- Region of a page (R373, R374). -/
def pageRegion (s : State) (p : BitVec 22) : Option Nat :=
  let k := p.toNat % 2 ^ 19
  (List.range 8).find? fun i => (s.stream.regions[i]?).any fun x =>
    decide (x.base.toNat ≤ k) && decide (k < x.base.toNat + x.pages.toNat)

def countCopyWait (s : State) (r : Nat) : State :=
  { s with stream := { s.stream with regions := s.stream.regions.modify r fun x => { x with copyWaits := x.copyWaits + 1 } } }

/-- A writer targets a page of the copy set that is not copied: the page is copied into staging first. A checkpoint
that finds staging full is abandoned (R370, R371; 14 R440). -/
def execCopyBeforeWrite (page : BitVec 22) (s : State) : Host.Outcome State Fault Refusal :=
  if coreRuns s ∧ s.stream.copySet.contains page then
    let s := match pageRegion s page with
      | some r => countCopyWait s r
      | none => s
    if s.stream.staged.length ≥ 8 * regionHalf s 6 then
      done (raise (endCheckpoint s 0x52) .checkpointFailed {} 0x52)
    else .next { s with stream := { s.stream with
      copySet := s.stream.copySet.filter (fun p => p != page), staged := s.stream.staged ++ [page] } }
  else .next s

end Sys2Proof.Machine
end

