-- ==== Sys2Proof/Machine/Tensors.lean ====
section
/-! DEFINITION. Stored tensors: packed codes, groups, scale words, cullet lists, side area and header (09 R292, R295 to
R300), read from and written as bytes. -/
namespace Sys2Proof.Machine
open Sys2Proof

/-- Cuts a list into pieces of `n` elements. -/
def groupsOf {α : Type} : Nat → Nat → List α → List (List α)
  | 0, _, _ => []
  | fuel + 1, n, l => if l.isEmpty then [] else if n = 0 then [l] else l.take n :: groupsOf fuel n (l.drop n)
def cutList {α : Type} (n : Nat) (l : List α) : List (List α) := groupsOf (l.length + 1) n l

/-! ## Packed codes (R288, R292) -/

/-- Bits of an element of a format. -/
def fmtBits (f : Nat) : Nat :=
  if f = 0 then 16 else if f = 15 then 32 else if f = 3 ∨ f = 4 then 6 else if f = 5 ∨ f = 7 ∨ f = 10 then 4 else 8

/-- Elements that are packed together, and the bytes they take. -/
def packUnit (bits : Nat) : Nat × Nat := if bits = 4 then (2, 1) else if bits = 6 then (4, 3) else (1, bits / 8)

def packedLen (bits n : Nat) : Nat := ceilDiv n (packUnit bits).1 * (packUnit bits).2

/-- Element i of the codes at an offset. -/
def codeAt (b : List Byte) (o bits i : Nat) : W32 :=
  let u := packUnit bits
  BitVec.ofNat 32 (bitsOf (leAt b (o + i / u.1 * u.2) u.2) (i % u.1 * bits) bits)

/-- Codes of one unit as a number, the first in the lowest bits. -/
def packNum (bits : Nat) : List W32 → Nat
  | [] => 0
  | c :: t => c.toNat % 2 ^ bits + 2 ^ bits * packNum bits t

def packCodes (bits : Nat) (cs : List W32) : List Byte :=
  let u := packUnit bits
  (cutList u.1 cs).flatMap fun g => leBytes u.2 (packNum bits g)

/-! ## Groups (R295, R300) -/

/-- Elements of a group along the reduction, by grouping code. -/
def groupLen (grouping red : Nat) : Nat :=
  if grouping = 0 ∨ grouping = 3 then 32 else if grouping = 1 then 64 else if grouping = 2 then 128 else red
/-- Rows of a group. -/
def groupRows (grouping : Nat) : Nat := if grouping = 3 then 32 else 1
/-- G, the elements of a group. -/
def groupSize (grouping red : Nat) : Nat := groupRows grouping * groupLen grouping red

/-- Cuts the rows of a tensor into its scale groups, in group order, each as its cullet groups: one, or the rows of a
square tile. -/
def cutGroups {α : Type} (grouping : Nat) (rows : List (List α)) : List (List (List α)) :=
  (cutList (groupRows grouping) rows).flatMap fun band =>
    let cut := band.map fun r => cutList (groupLen grouping r.length) r
    (List.range ((cut.map (·.length)).foldl max 0)).map fun j => cut.map fun c => c.getD j []

/-- A stored tensor: what its header says, and its scale groups as `cutGroups` orders them. -/
structure Stored where
  fmt : Nat
  grouping : Nat
  cap : Nat := 0
  outer : Nat
  red : Nat
  wideCap : Nat := 0
  groups : List (List Group) := []
deriving DecidableEq, Repr, Inhabited

/-- Groups on a row, or on a band of rows. -/
def Stored.across (x : Stored) : Nat := ceilDiv x.red (groupLen x.grouping x.red)

/-- The pieces of row r, one of each scale group that the row meets. -/
def Stored.row (x : Stored) (r : Nat) : List Group :=
  let h := groupRows x.grouping
  ((x.groups.drop (r / h * x.across)).take x.across).map fun g => g.getD (r % h) {}
def Stored.rows (x : Stored) : List (List Group) := (List.range x.outer).map x.row

def wideScale (s : Scale) : Bool := s.toNat / 256 == 255

/-! ## Bytes (R297, R298, R300) -/

/-- The stored tensor of a format, a grouping and lengths that the bytes hold, its parts where the header places them.
A format without UE8M8 scales has its E8M0 codes in that part, or none (log 92). -/
def readStored (b : List Byte) (fmt grouping outer red : Nat) : Stored :=
  let off (k : Nat) : Nat := 64 * leAt b k 4
  let bits := fmtBits fmt
  let len := groupLen grouping red
  let h := groupRows grouping
  let across := ceilDiv red len
  let cap := leAt b 2 1 % 16
  let scale (g : Nat) : Scale :=
    if 9 ≤ fmt ∧ fmt ≤ 11 then BitVec.ofNat 16 (leAt b (off 20 + g) 1)
    else if 1 ≤ fmt ∧ fmt ≤ 8 then BitVec.ofNat 16 (leAt b (off 20 + 2 * g) 2) else 0
  let sideAt (g : Nat) : Nat :=
    off 32 + 2 * groupSize grouping red * (leAt b (off 36 + 4 * (g / 256)) 4 + (scale g).toNat % 256)
  let cullet (o : Nat) : Option (Byte × W16) :=
    if byteAt b (o + 3) = 0xFF then none else some (byteAt b (o + 3), BitVec.ofNat 16 (leAt b o 2))
  let one (g k : Nat) : Group :=
    let col := g % across * len
    let n := min len (red - col)
    { scale := scale g
      zp := if leAt b 24 4 = 0 then 0 else byteAt b (off 24 + g)
      codes := (List.range n).map fun j => codeAt b (off 16) bits ((g / across * h + k) * red + col + j)
      cullets := if leAt b 28 4 = 0 then [] else
        (List.range cap).filterMap fun i => cullet (off 28 + 4 * (cap * (g * h + k) + i))
      side := if wideScale (scale g) then
        (List.range n).map fun j => BitVec.ofNat 16 (leAt b (sideAt g + 2 * (k * 32 + j)) 2) else [] }
  { fmt := fmt, grouping := grouping, cap := cap, outer := outer, red := red, wideCap := leAt b 12 4
    groups := (List.range (ceilDiv outer h * across)).map fun g =>
      (List.range (min h (outer - g / across * h))).map (one g) }

/-- The header's CRC is right, and it names the format and the grouping. -/
def headerAgrees (b : List Byte) (fmt grouping : Nat) : Bool :=
  leAt b 60 4 == (crc32c (b.take 60)).toNat && leAt b 0 1 % 16 == fmt && leAt b 1 1 % 8 == grouping

/-- The cullet area: `cap` entries for each cullet group, the used ones first. -/
def Stored.cullets (x : Stored) : List Byte :=
  x.groups.flatMap fun g => (List.range (groupRows x.grouping)).flatMap fun k =>
    (List.range x.cap).flatMap fun i => match ((g.getD k {}).cullets)[i]? with
      | some (n, v) => leBytes 2 v.toNat ++ [0, n]
      | none => [0, 0, 0, 0xFF]

def Stored.wides (x : Stored) : List (List Group) := x.groups.filter fun g => g.any fun p => wideScale p.scale

/-- Wide groups before each span of 256. -/
def Stored.wideIndex (x : Stored) : List Byte :=
  (List.range (ceilDiv x.groups.length 256)).flatMap fun j =>
    leBytes 4 ({ x with groups := x.groups.take (256 * j) } : Stored).wides.length

/-- The side area: the elements of the wide groups in E8M7. -/
def Stored.sideArea (x : Stored) : List Byte :=
  x.wides.flatMap fun g => (List.range (groupRows x.grouping)).flatMap fun k =>
    padTo (2 * groupLen x.grouping x.red) ((g.getD k {}).side.flatMap (leW 2))

/-- The bytes: the header, then each part that is there, 64-byte aligned, in the header's order (log 92). -/
def Stored.bytes (x : Stored) : List Byte :=
  let one (g : List Group) : Group := g.headD {}
  let scaled := 1 ≤ x.fmt ∧ x.fmt ≤ 8
  let codes := packCodes (fmtBits x.fmt) (x.rows.flatMap fun r => r.flatMap (·.codes))
  let scales := if scaled then x.groups.flatMap fun g => leW 2 (one g).scale
    else if 9 ≤ x.fmt ∧ x.fmt ≤ 11 then x.groups.flatMap fun g => leBytes 1 (one g).scale.toNat else []
  let zps := if x.fmt = 6 ∨ x.fmt = 7 then x.groups.map fun g => (one g).zp else []
  let index := if x.wides.isEmpty then [] else x.wideIndex
  let parts := [codes, scales, zps, if x.cap = 0 then [] else x.cullets, x.sideArea, index].map pad64
  let place (at_ : Nat) (p : List Byte) : Nat × Nat := (if p.isEmpty then 0 else at_, at_ + p.length / 64)
  let offs := (parts.foldl (fun (a : List Nat × Nat) p =>
    let y := place a.2 p
    (a.1 ++ [y.1], y.2)) ([], 1)).1
  let head := [BitVec.ofNat 8 x.fmt, BitVec.ofNat 8 x.grouping, BitVec.ofNat 8 x.cap, 0] ++ leBytes 4 x.outer
    ++ leBytes 4 x.red ++ leBytes 4 x.wideCap ++ offs.flatMap (leBytes 4) ++ zeros 20
  head ++ leW 4 (crc32c head) ++ parts.flatten

/-- The bytes of a stored tensor that begins an image: its header and its parts, each 64-byte aligned. -/
def storedLen (b : List Byte) (fmt grouping outer red : Nat) : Nat :=
  let x := readStored b fmt grouping outer red
  x.bytes.length

end Sys2Proof.Machine
end

