-- ==== Sys2Proof/Machine/Numbers.lean ====
section
/-! DEFINITION. Number formats, scales and rounding, exactly, over the rationals (09). -/
namespace Sys2Proof.Machine
open Sys2Proof

/-! ## Exact arithmetic -/

def pow2 (z : Int) : Rat := if 0 ≤ z then ((2 ^ z.toNat : Nat) : Rat) else 1 / ((2 ^ (-z).toNat : Nat) : Rat)
def absRat (x : Rat) : Rat := if x < 0 then -x else x

/-- floor(log2 x) of a positive number. -/
def floorLog2 (x : Rat) : Int :=
  let a : Int := (Nat.log2 x.num.natAbs : Int) - (Nat.log2 x.den : Int)
  if pow2 a ≤ x then a else a - 1

/-- To nearest, ties to even. -/
def roundEven (x : Rat) : Int :=
  let f := x.floor
  let d := x - (f : Rat)
  if d < 1 / 2 then f else if 1 / 2 < d then f + 1 else if f % 2 = 0 then f else f + 1

/-- To nearest on the grid of a binary format with `man` mantissa bits and least exponent `emin`, extended upward
without limit. -/
def roundBits (man : Nat) (emin : Int) (x : Rat) : Rat :=
  if x = 0 then 0
  else
    let u := pow2 (max (floorLog2 (absRat x)) emin - man)
    (roundEven (x / u) : Rat) * u

/-! ## Events of a tile (R318, R319) -/

/-- What the arithmetic of a tile meets: counts of 0x2505, notices once per code, and whether results carry FAULT. -/
structure Num where
  counts : Tbl W64 := []
  notices : List ErrCode := []
  fault : Bool := false
deriving DecidableEq, Repr, Inhabited

def Num.count (n : Num) (k : Nat) : Num := { n with counts := cntAdd n.counts k 1 }
def Num.notice (n : Num) (c : ErrCode) (fault : Bool) : Num :=
  { n with notices := if n.notices.contains c then n.notices else n.notices ++ [c], fault := n.fault || fault }

/-! ## Formats (R288 to R291) -/

/-- Exponent bits, mantissa bits and bias of the floating formats and of the elements of MXFP8 and MXFP4. -/
def fmtShape : Nat → Nat × Nat × Nat
  | 1 => (4, 3, 7) | 2 => (5, 2, 15) | 3 => (3, 2, 3) | 4 => (2, 3, 1) | 5 => (2, 1, 1) | 9 => (4, 3, 7)
  | 10 => (2, 1, 1) | _ => (8, 7, 127)

def e8m7Max : Rat := (255 / 128 : Rat) * pow2 127
def f32Max : Rat := ((2 ^ 24 - 1 : Nat) : Rat) * pow2 104

/-- The largest code magnitude. -/
def fmtMax : Nat → Rat
  | 0 => e8m7Max | 1 => 448 | 2 => 57344 | 3 => 28 | 4 => 15 / 2 | 5 => 6 | 6 => 127 | 7 => 7 | 8 => 1 | 9 => 448
  | 10 => 6 | 11 => 127 / 64 | _ => f32Max

/-- The escape code. -/
def escapeCode : Nat → Option W32
  | 1 | 2 | 6 => some 0x80
  | 3 | 4 => some 0x20
  | 5 | 7 => some 8
  | _ => none

/-- A code of a floating format; none is NaN or an infinity (R289). -/
def decodeFloat (fmt code : Nat) : Option Rat :=
  let sh := fmtShape fmt
  let eb := sh.1
  let mb := sh.2.1
  let bias : Int := sh.2.2
  let m := code % 2 ^ mb
  let e := code / 2 ^ mb % 2 ^ eb
  let neg := code / 2 ^ (mb + eb) % 2 == 1
  let ones := e == 2 ^ eb - 1
  let bad := (ones && (fmt == 0 || fmt == 2)) || (ones && m == 2 ^ mb - 1 && (fmt == 1 || fmt == 9))
  if bad then none
  else
    let x : Rat := if e = 0 then (m : Rat) * pow2 (1 - bias - mb)
      else ((2 ^ mb + m : Nat) : Rat) * pow2 ((e : Int) - bias - mb)
    some (if neg then -x else x)

/-- The code of a value on a floating format's grid within its range; zero is +0. -/
def encodeFloat (fmt : Nat) (x : Rat) : W32 :=
  let sh := fmtShape fmt
  let mb := sh.2.1
  let bias : Int := sh.2.2
  if x = 0 then 0
  else
    let a := absRat x
    let e := max (floorLog2 a) (1 - bias)
    let k := (a / pow2 (e - mb)).floor.toNat
    let body := if k < 2 ^ mb then k else (e + bias).toNat * 2 ^ mb + (k - 2 ^ mb)
    BitVec.ofNat 32 ((if x < 0 then 2 ^ (mb + sh.1) else 0) + body)

/-- A two's complement code of 8 or 4 bits. -/
def intCode (fmt : Nat) (code : W32) : Int :=
  if fmt = 7 then (code.truncate 4 : BitVec 4).toInt else (code.truncate 8 : BitVec 8).toInt

def zeroPoint (fmt : Nat) (zp : Byte) : Int := if fmt = 7 then (zp.truncate 4 : BitVec 4).toInt else zp.toInt

/-- A scale word with exponent 1 to 254 (R296). -/
def scaleVal (s : Scale) : Rat := pow2 ((s.toNat / 256 : Nat) - 127) * (1 + ((s.toNat % 256 : Nat) : Rat) / 256)

/-! ## E8M7 values (R302, R303) -/

/-- An E8M7 word read as a value; a NaN or an infinity is zero and spoils the result (R318). -/
def e8m7Read (w : W16) (n : Num) : Rat × Num :=
  match decodeFloat 0 w.toNat with
  | some x => (x, n)
  | none => (0, (n.count 5).notice .nonfinite true)

/-- e8m7(x): rounded once and clamped. -/
def toE8m7 (x : Rat) (n : Num) : Rat × Num :=
  let r := roundBits 7 (-126) x
  if e8m7Max < absRat r then (if r < 0 then -e8m7Max else e8m7Max, n.count 0x0C) else (r, n)

def e8m7Clamp (x : Rat) : Rat :=
  let r := roundBits 7 (-126) x
  if e8m7Max < absRat r then (if r < 0 then -e8m7Max else e8m7Max) else r
def e8m7Word (x : Rat) : W16 := (encodeFloat 0 (e8m7Clamp x)).truncate 16
def flush (x : Rat) : Rat := if absRat x < pow2 (-126) then 0 else x

/-! ## Reading a group on the float path (R293 to R302) -/

/-- Cullet entries in use. -/
def usedCullets (g : Group) : List (Byte × W16) := g.cullets.filter fun c => c.1 != 0xFF

/-- One element of formats 0x1 to 0x7 in a group with exponent 1 to 254, before the flush. -/
def readElem (fmt : Nat) (g : Group) (i : Nat) (code : W32) (n : Num) : Rat × Num :=
  if escapeCode fmt = some code then
    match (usedCullets g).find? fun c => c.1.toNat == i with
    | some c => e8m7Read c.2 n
    | none => (0, (n.count 0x0A).notice .culletMissing true)
  else if fmt = 6 ∨ fmt = 7 then
    toE8m7 (((intCode fmt code - zeroPoint fmt g.zp : Int) : Rat) * scaleVal g.scale) n
  else match decodeFloat fmt code.toNat with
    | some x => toE8m7 (x * scaleVal g.scale) n
    | none => (0, (n.count 5).notice .nonfinite true)

/-- Cullet entries at indexes that are not escaped (R318). -/
def strays (fmt : Nat) (g : Group) (n : Num) : Num :=
  (usedCullets g).foldl (fun n c =>
    if escapeCode fmt = some (g.codes.getD c.1.toNat 0) ∧ c.1.toNat < g.codes.length then n
    else (n.count 0x0B).notice .culletStray false) n

/-- One element of an MX block. -/
def readMx (fmt : Nat) (g : Group) (code : W32) (n : Num) : Rat × Num :=
  let s := pow2 ((g.scale.toNat % 256 : Nat) - 127)
  if fmt = 11 then toE8m7 ((((code.truncate 8 : BitVec 8).toInt : Int) : Rat) / 64 * s) n
  else match decodeFloat fmt code.toNat with
    | some x => toE8m7 (x * s) n
    | none => (0, (n.count 5).notice .nonfinite true)

/-- Folds a list with an index and the events. -/
def walkElems {α : Type} (f : Nat → α → Num → Rat × Num) : List α → Nat → Num → List Rat × Num
  | [], _, n => ([], n)
  | x :: t, i, n =>
    let a := f i x n
    let b := walkElems f t (i + 1) a.2
    (a.1 :: b.1, b.2)

/-- The E8M7 values of a group, before the flush. -/
def readGroup (fmt : Nat) (g : Group) (n : Num) : List Rat × Num :=
  let zeros := g.codes.map fun _ => (0 : Rat)
  if fmt = 0 then walkElems (fun _ (c : W32) n => e8m7Read (c.truncate 16) n) g.codes 0 n
  else if 9 ≤ fmt ∧ fmt ≤ 11 then
    if g.scale.toNat % 256 = 255 then (zeros, (n.count 5).notice .nonfinite true)
    else walkElems (fun _ c n => readMx fmt g c n) g.codes 0 n
  else if g.scale.toNat / 256 = 0 then (zeros, n)
  else if g.scale.toNat / 256 = 255 then walkElems (fun _ (w : W16) n => e8m7Read w n) g.side 0 n
  else walkElems (fun i c n => readElem fmt g i c n) g.codes 0 (strays fmt g n)

def readRow (fmt : Nat) : List Group → Num → List Rat × Num
  | [], n => ([], n)
  | g :: t, n =>
    let a := readGroup fmt g n
    let b := readRow fmt t a.2
    (a.1 ++ b.1, b.2)

/-- The shim adds a delta, code and row scale, to a weight (08 R262). -/
def shim (x : Rat) (d : Option (BitVec 4 × W16)) (n : Num) : Rat × Num :=
  match d with
  | some (c, s) => toE8m7 (x + ((c.toInt : Int) : Rat) * (if s.toNat / 256 = 0 then 0 else scaleVal s)) n
  | none => (x, n)

/-- All rows of an operand on the float path, the delta of each element merged, subnormals flushed. -/
def readTensor (fmt : Nat) (delta : Nat → Nat → Option (BitVec 4 × W16)) :
    List (List Group) → Nat → Num → List (List Rat) × Num
  | [], _, n => ([], n)
  | row :: t, i, n =>
    let a := readRow fmt row n
    let b := walkElems (fun j x n => shim x (delta i j) n) a.1 0 a.2
    let c := readTensor fmt delta t (i + 1) b.2
    (b.1.map flush :: c.1, c.2)

/-! ## Accumulators (R304, R305) -/

inductive F32 | fin (q : Rat) | inf (neg : Bool) | nan
deriving DecidableEq, Repr, Inhabited

def f32Round (x : Rat) : F32 :=
  let r := roundBits 23 (-126) x
  if pow2 128 ≤ absRat r then .inf (decide (r < 0)) else .fin r

def f32Add (a : F32) (p : Rat) : F32 :=
  match a with
  | .fin q => f32Round (q + p)
  | x => x

/-- The binary32 word. -/
def f32Word : F32 → W32
  | .nan => 0x7FC00000
  | .inf neg => if neg then 0xFF800000 else 0x7F800000
  | .fin x =>
    if x = 0 then 0
    else
      let a := absRat x
      let e := max (floorLog2 a) (-126)
      let k := (a / pow2 (e - 23)).floor.toNat
      let body := if k < 2 ^ 23 then k else (e + 127).toNat * 2 ^ 23 + (k - 2 ^ 23)
      BitVec.ofNat 32 ((if x < 0 then 2 ^ 31 else 0) + body)

/-- The value of a binary32 word. -/
def f32Read (w : W32) : F32 :=
  let v : Nat := w.toNat
  let m : Nat := v % 2 ^ 23
  let e : Nat := v / 2 ^ 23 % 256
  let neg := decide (v ≥ 2 ^ 31)
  if e = 255 then (if m = 0 then .inf neg else .nan)
  else
    let x : Rat := if e = 0 then (m : Rat) * pow2 (-149) else ((2 ^ 23 + m : Nat) : Rat) * pow2 ((e : Int) - 150)
    .fin (if neg then -x else x)

/-- The order of the products: what the plan's image and the engine fix, made a permutation. -/
def sumOrder (plan : List Byte) (tile engine k : Nat) : List Nat :=
  let l := ((Config.accOrder plan tile engine k).filter fun i => decide (i < k)).eraseDups
  l ++ (List.range k).filter fun i => !l.contains i

def dotFloat (order : List Nat) (a b : List Rat) : F32 :=
  order.foldl (fun acc i => f32Add acc (a.getD i 0 * b.getD i 0)) (.fin 0)

/-- A sum in INT32, saturating at each addition. -/
def dotInt (order : List Nat) (a b : List Int) (n : Num) : Int × Num :=
  order.foldl (fun x i =>
    let y := x.1 + a.getD i 0 * b.getD i 0
    if y > 2147483647 then (2147483647, x.2.count 8)
    else if y < -2147483648 then (-2147483648, x.2.count 8)
    else (y, x.2)) (0, n)

/-! ## The integer path (R305 to R310) -/

def readInt (fmt : Nat) (zp : Byte) (c : W32) (n : Num) : Int × Num :=
  if escapeCode fmt = some c then (0, n.notice .intEscape true) else (intCode fmt c - zeroPoint fmt zp, n)

/-- A group of an integer-path operand; calibrated activations have zero point 0 (R306). -/
def readIntGroup (fmt : Nat) (acts : Bool) (g : Group) (n : Num) : List Int × Num :=
  if g.scale.toNat / 256 = 0 then (g.codes.map fun _ => 0, n)
  else if g.scale.toNat / 256 = 255 then (g.codes.map fun _ => 0, n.notice .intEscape true)
  else g.codes.foldr (fun c x => let y := readInt fmt (if acts then 0 else g.zp) c x.2; (y.1 :: x.1, y.2)) ([], n)

def readIntRow (fmt : Nat) (acts : Bool) (gs : List Group) (n : Num) : List Int × Num :=
  gs.foldr (fun g x => let y := readIntGroup fmt acts g x.2; (y.1 ++ x.1, y.2)) ([], n)

/-- The scale of a row of an integer-path operand; zero where its exponent is 0. -/
def rowScale (gs : List Group) : Rat :=
  match gs with
  | g :: _ => if g.scale.toNat / 256 = 0 then 0 else scaleVal g.scale
  | [] => 0

/-- The rescale pair of a ratio, and whether it is out of range (R307). -/
def rescalePair (r : Rat) : Nat × Nat × Bool :=
  if r ≤ 0 then (2 ^ 30, 63, true)
  else
    let sh := 30 - floorLog2 r
    let m := roundEven (r * pow2 sh)
    let p : Int × Int := if m ≥ 2 ^ 31 then (2 ^ 30, sh - 1) else (m, sh)
    if p.2 > 63 then (2 ^ 30, 63, true) else if p.2 < 0 then (2 ^ 31 - 1, 0, true) else (p.1.toNat, p.2.toNat, false)

/-! ## Quantising (R293, R311 to R314) -/

def Stat.add (st : Stat) (x limit : Rat) : Stat :=
  { st with m := max st.m (min (absRat x) limit), a := max st.a (absRat x), any := true }
def Stat.satur (st : Stat) : Stat := { st with sat := st.sat + 1 }

/-- A quantised element: a code and whether it saturated, or an escape. -/
inductive QElem | code (c : W32) (sat : Bool) | escape
deriving DecidableEq, Repr, Inhabited

def intWord (fmt : Nat) (c : Int) : W32 :=
  if fmt = 7 then ((BitVec.ofInt 4 c).zeroExtend 32) else ((BitVec.ofInt 8 c).zeroExtend 32)

/-- sign(t) × largest code. -/
def largestCode (fmt : Nat) (neg : Bool) : W32 :=
  let l := fmtMax fmt
  if fmt = 6 ∨ fmt = 7 then intWord fmt (if neg then -l.floor else l.floor)
  else encodeFloat fmt (if neg then -l else l)

/-- quantise(x, s, zp, fmt) of R311; `thr` is the threshold, none where escape is off. -/
def quantise (fmt : Nat) (s : Rat) (zp : Byte) (thr : Option Rat) (x : F32) : QElem :=
  match x with
  | .nan => .code (if fmt = 6 ∨ fmt = 7 then intWord fmt (zeroPoint fmt zp) else 0) false
  | .inf neg => if thr.isSome then .escape else .code (largestCode fmt neg) true
  | .fin v =>
    let t := v / s
    if thr.any fun l => decide (l < absRat t) then .escape
    else if fmt = 6 ∨ fmt = 7 then
      let c := roundEven (t + zeroPoint fmt zp)
      if fmtMax fmt < absRat (c : Rat) then .code (largestCode fmt (decide (c < 0))) true else .code (intWord fmt c) false
    else
      let r := roundBits (fmtShape fmt).2.1 (1 - ((fmtShape fmt).2.2 : Int)) t
      if fmtMax fmt < absRat r then .code (largestCode fmt (decide (r < 0))) true else .code (encodeFloat fmt r) false

/-- A binary32 tie of U8L: t is the FP32 number nearest to 2^((2k + 1) / 16) (R312). -/
def u8lTie (t : Rat) (k : Int) : Bool :=
  let u := pow2 (max (floorLog2 t) (-126) - 24)
  f32Round t == .fin t && decide ((t - u) ^ 16 ≤ pow2 (2 * k + 1)) && decide (pow2 (2 * k + 1) ≤ (t + u) ^ 16)

/-- 8 × log2 t rounded to nearest; a tie goes to the even code 255 + k, an odd k. -/
def u8lLog (t : Rat) : Int :=
  let k := (floorLog2 (t ^ 16) + 1) / 2
  if u8lTie t (k - 1) then (if (k - 1) % 2 = 0 then k else k - 1)
  else if u8lTie t k then (if k % 2 = 0 then k + 1 else k)
  else k

/-- A U8L code and whether it saturated (R312). -/
def quantU8l (s x : Rat) : Nat × Bool :=
  if x < 0 then (0, true)
  else if x = 0 then (0, false)
  else
    let c := 255 + u8lLog (x / s)
    if c > 255 then (255, true) else if c < 1 then (0, false) else (c.toNat, false)

/-- The largest number of `bits` bits above `acc` that a predicate still holds of. -/
def climbBits (ok : Nat → Bool) : Nat → Nat → Nat
  | 0, acc => acc
  | b + 1, acc => climbBits ok b (if ok (acc + 2 ^ b) then acc + 2 ^ b else acc)

/-- 2^(k/8) rounded once to FP32, for k from -254 to 0, times the scale is R291's value: the product is rounded once. -/
def u8lRead (s : Rat) (code : Nat) : Rat :=
  if code = 0 then 0
  else
    -- the FP32 number nearest to s × 2^((code - 255) / 8): the largest multiple of half a unit not above it decides
    let k : Int := (code : Int) - 255
    let base := s * pow2 (k / 8)
    let e := floorLog2 base
    let ok (v : Rat) : Bool := decide (v ^ 8 ≤ s ^ 8 * pow2 k)
    let u := pow2 (max (if ok (pow2 (e + 1)) then e + 1 else e) (-126) - 23)
    let h := climbBits (fun n => ok (((n : Nat) : Rat) * (u / 2))) 26 0
    -- h half units: an exact value ends on h, else the true value lies above it
    let exact := decide ((((h : Nat) : Rat) * (u / 2)) ^ 8 = s ^ 8 * pow2 k)
    let lo := h / 2
    let up := decide (h % 2 = 1) && (!exact || decide (lo % 2 = 1))
    ((if up then lo + 1 else lo : Nat) : Rat) * u

/-- What a written tensor leaves: its scale groups, events, statistics, wide groups in all and in the present span of 256. -/
structure Written where
  groups : List (List Group) := []
  num : Num := {}
  stat : Stat := {}
  wide : Nat := 0
  span : Nat := 0
deriving DecidableEq, Repr, Inhabited

/-- A scale group joins the tensor; the count of a span starts at each 256th group (R297). -/
def Written.push (w : Written) (g : List Group) : Written :=
  let span := if w.groups.length % 256 = 0 then 0 else w.span
  let wide := g.any fun p => wideScale p.scale
  { w with groups := w.groups ++ [g], wide := if wide then w.wide + 1 else w.wide, span := if wide then span + 1 else span }

/-- The ordinal of the next wide group within its span. -/
def Written.ordinal (w : Written) : Nat := if w.groups.length % 256 = 0 then 0 else w.span

/-- NaN and infinities at an output spoil the results (R318). -/
def noteOutput (xs : List F32) (n : Num) : Num :=
  xs.foldl (fun n x => match x with
    | .fin _ => n
    | _ => (n.count 6).notice .nonfinite true) n

/-- The magnitude of a value as R313 orders escapes, an infinity above all. -/
def magnitude : F32 → Rat
  | .fin v => absRat v
  | .inf _ => pow2 200
  | .nan => 0

/-- A value in E8M7: an infinity is sign × largest, a NaN zero. -/
def e8m7Of (x : F32) : W16 := e8m7Word (match x with
  | .fin v => v
  | .inf neg => if neg then -e8m7Max else e8m7Max
  | .nan => 0)

def F32.neg? : F32 → Bool
  | .fin x => decide (x < 0)
  | .inf n => n
  | .nan => false

/-- A value joins the statistics; NaN and infinities do not (10 R325). -/
def Stat.addF (st : Stat) (x : F32) (limit : Rat) : Stat :=
  match x with
  | .fin v => st.add v limit
  | _ => st

/-- The elements of largest |x| among escapes, ties to the lower index (R313). -/
def keepLargest : Nat → List (Nat × F32) → List Nat
  | 0, _ => []
  | n + 1, l =>
    match l.foldl (fun (b : Option (Nat × F32)) e => match b with
        | none => some e
        | some y => if magnitude y.2 < magnitude e.2 then some e else some y) none with
    | none => []
    | some b => b.1 :: keepLargest n (l.filter fun e => e.1 != b.1)

/-- The escapes of a cullet group, by index. -/
def escapesOf (q : F32 → QElem) (xs : List F32) : List (Nat × F32) :=
  ((List.range xs.length).zip xs).filter fun e => q e.2 == .escape

def allZero (g : List (List F32)) : Bool := g.all fun xs => xs.all fun x => x == .fin 0

/-- One cullet group written narrow: escapes beyond the cap become the largest code (R311, R313). -/
def writeCullets (fmt : Nat) (scale : Scale) (zp : Byte) (thr : Option Rat) (cap : Nat) (xs : List F32) (n : Num) (st : Stat) :
    Group × Num × Stat :=
  let s := scaleVal scale
  let limit := s * fmtMax fmt
  let q := quantise fmt s zp thr
  let esc := escapesOf q xs
  let kept := if esc.length > cap then keepLargest cap esc else esc.map (·.1)
  let one (e : Nat × F32) (y : List W32 × Num × Stat) : List W32 × Num × Stat :=
    match q e.2 with
    | .code c sat =>
      let st := y.2.2.addF e.2 limit
      (c :: y.1, if sat then y.2.1.count 1 else y.2.1, if sat then st.satur else st)
    | .escape =>
      if kept.contains e.1 then ((escapeCode fmt).getD 0 :: y.1, y.2.1.count 2, y.2.2)
      else (largestCode fmt e.2.neg? :: y.1, y.2.1.count 1, (y.2.2.addF e.2 limit).satur)
  let r := ((List.range xs.length).zip xs).foldr one ([], n, st)
  let cul := (esc.filter fun e => kept.contains e.1).map fun e => (BitVec.ofNat 8 e.1, e8m7Of e.2)
  ({ scale := scale, zp := zp, codes := r.1, cullets := cul }, r.2)

def writeCulletRows (fmt : Nat) (scale : Scale) (zp : Byte) (thr : Option Rat) (cap : Nat) :
    List (List F32) → Num → Stat → List Group × Num × Stat
  | [], n, st => ([], n, st)
  | xs :: t, n, st =>
    let a := writeCullets fmt scale zp thr cap xs n st
    let b := writeCulletRows fmt scale zp thr cap t a.2.1 a.2.2
    (a.1 :: b.1, b.2)

/-- One scale group of formats 0x1 to 0x7, given as its cullet groups (R311, R313, R314). -/
def writeNarrow (fmt : Nat) (scale : Scale) (zp : Byte) (thr : Option Rat) (cap wideCap : Nat) (g : List (List F32))
    (w : Written) : Written :=
  let s := scaleVal scale
  let limit := s * fmtMax fmt
  let w := { w with num := noteOutput g.flatten w.num }
  let q := quantise fmt s zp thr
  let full := g.any fun xs => decide (cap < (escapesOf q xs).length)
  if allZero g then
    ({ w with stat := if g.flatten.isEmpty then w.stat else w.stat.add 0 limit } : Written).push
      (g.map fun xs => { codes := xs.map fun _ => 0 })
  else if full ∧ w.wide < wideCap then
    let stat := g.flatten.foldl (fun st x => if q x == .escape then st else st.addF x limit) w.stat
    let word : Scale := 0xFF00 + BitVec.ofNat 16 w.ordinal
    ({ w with stat := stat, num := w.num.count 3 } : Written).push
      (g.map fun xs => { scale := word, codes := xs.map fun _ => 0, side := xs.map e8m7Of })
  else
    let num := if full then (w.num.count 4).notice .wideFull false else w.num
    let r := writeCulletRows fmt scale zp thr cap g num w.stat
    ({ w with num := r.2.1, stat := r.2.2 } : Written).push r.1

/-- One MX block (R294). -/
def writeMx (fmt : Nat) (xs : List F32) (w : Written) : Written :=
  let amax := xs.foldl (fun m x => match x with
    | .fin v => max m (absRat v)
    | _ => m) (0 : Rat)
  let emax : Int := if fmt = 9 then 8 else if fmt = 10 then 2 else 0
  let k : Nat := if amax = 0 then 0 else (min 254 (max 0 (floorLog2 amax - emax + 127))).toNat
  let s := pow2 ((k : Int) - 127)
  let one (x : F32) (y : List W32 × Num) : List W32 × Num :=
    match x with
    | .nan => (0 :: y.1, y.2)
    | .inf neg =>
      ((if fmt = 11 then (BitVec.ofInt 8 (if neg then -127 else 127)).zeroExtend 32 else largestCode fmt neg) :: y.1
       , y.2.count 1)
    | .fin v =>
      if fmt = 11 then
        let c := roundEven (v / s * 64)
        let cl := max (-127) (min 127 c)
        ((BitVec.ofInt 8 cl).zeroExtend 32 :: y.1, if cl = c then y.2 else y.2.count 1)
      else
        let r := roundBits (fmtShape fmt).2.1 (1 - ((fmtShape fmt).2.2 : Int)) (v / s)
        if fmtMax fmt < absRat r then (largestCode fmt (decide (r < 0)) :: y.1, y.2.count 1)
        else (encodeFloat fmt r :: y.1, y.2)
  let r := xs.foldr one ([], noteOutput xs w.num)
  ({ w with num := r.2 } : Written).push [{ scale := BitVec.ofNat 16 k, codes := r.1 }]

/-- One group written in FP32 or E8M7: an infinity is sign × largest, a NaN zero (R318). -/
def writeWideFmt (fmt : Nat) (xs : List F32) (w : Written) : Written :=
  let enc (x : F32) : W32 :=
    if fmt = 0 then (e8m7Of x).zeroExtend 32
    else match x with
      | .inf neg => f32Word (.fin (if neg then -f32Max else f32Max))
      | .nan => 0
      | x => f32Word x
  ({ w with num := noteOutput xs w.num } : Written).push [{ codes := xs.map enc }]

/-- One group of U8L (R312). -/
def writeU8l (scale : Scale) (xs : List F32) (w : Written) : Written :=
  let s := scaleVal scale
  let one (x : F32) (y : List W32 × Num × Stat) : List W32 × Num × Stat :=
    let q : Nat × Bool := match x with
      | .fin v => quantU8l s v
      | .inf neg => (if neg then 0 else 255, true)
      | .nan => (0, false)
    let st := y.2.2.addF x s
    (BitVec.ofNat 32 q.1 :: y.1, if q.2 then y.2.1.count 1 else y.2.1, if q.2 then st.satur else st)
  if allZero [xs] then
    ({ w with stat := if xs.isEmpty then w.stat else w.stat.add 0 s } : Written).push [{ codes := xs.map fun _ => 0 }]
  else
    let r := xs.foldr one ([], noteOutput xs w.num, w.stat)
    ({ w with num := r.2.1, stat := r.2.2 } : Written).push [{ scale := scale, codes := r.1 }]

end Sys2Proof.Machine
end

