-- ==== Sys2Proof/Machine/Marver.lean ====
section
/-! DEFINITION. The marver: calibration slots, statistics, the close of a period and the calibration log (10). -/
namespace Sys2Proof.Machine
open Sys2Proof

def calOf (s : State) (k : Nat) : CalSlot := Tbl.get {} s.cal.slots k
def setCal (s : State) (k : Nat) (c : CalSlot) : State :=
  { s with cal := { s.cal with slots := Tbl.put {} s.cal.slots k c } }

/-- The scale that work of a tick uses (R329, R331). -/
def calScale (s : State) (k : Nat) (t : TickRef) : Scale :=
  let c := calOf s k
  if t.idx > s.tick.cur.idx ∧ s.cal.closed then c.next
  else match c.hist.find? fun h => decide (t.idx ≤ h.1) with
    | some h => h.2
    | none => c.scale

/-- Two pieces of a period's statistics together. -/
def Stat.join (x y : Stat) : Stat :=
  { m := max x.m y.m, a := max x.a y.a, sat := x.sat + y.sat, any := x.any || y.any }

/-- close_k has come, and the close is not computed yet: what leaves an engine now counts in period k + 1 (R328, R339). -/
def pastClose (s : State) : Bool :=
  let t := s.tick
  s.cal.periodOpen && !s.cal.closed && t.cur.idx != 0 && !t.afterEntry && decide (t.at_ + t.intakeClose.toNat ≤ s.time.now)

/-- The values written under a slot enter its open period (R325, R328). -/
def calRecord (s : State) (k : Nat) (st : Stat) : State :=
  let c := calOf s k
  let c := { c with sats := c.sats + BitVec.ofNat 64 st.sat }
  setCal s k (if ¬ s.cal.periodOpen then c
    else if pastClose s then { c with ahead := c.ahead.join st }
    else { c with m := max c.m st.m, a := max c.a st.a, sat := c.sat + st.sat, counted := c.counted || st.any })

/-- The next period of a slot begins, with what has been counted ahead for it. -/
def nextPeriod (c : CalSlot) : CalSlot :=
  { c with m := c.ahead.m, a := c.ahead.a, sat := c.ahead.sat, counted := c.ahead.any, ahead := {} }

/-- The smallest UE8M8 word of exponent 1 to 254 not below a value, and whether the value is above all of them. -/
def ueCeil (want : Rat) : Scale × Bool :=
  if want > scaleVal 0xFEFF then (0xFEFF, true)
  else if want ≤ scaleVal 0x0100 then (0x0100, false)
  else
    let e := floorLog2 want
    let f := ((want / pow2 e - 1) * 256).ceil.toNat
    (BitVec.ofNat 16 ((e + 127).toNat * 256 + f), false)

def windowMax (w : List Rat) : Rat := w.foldl max 0

/-- The next scale of a slot that has counted values, the log's cause and the slot after the close (R332). -/
def nextScale (windowN : Nat) (headroom : W16) (trigger : W32) (c : CalSlot) : CalSlot × BitVec 2 :=
  let hit := decide (c.sat > trigger.toNat)
  let window := if hit then List.replicate windowN c.a else (c.window ++ [c.m]).drop (c.window.length + 1 - windowN)
  let want := windowMax window * ((headroom.toNat : Nat) : Rat) / 256 / fmtMax c.fmt.toNat
  let u := ueCeil want
  let low := decide (u.1.toNat < c.floor.toNat)
  let cause : BitVec 2 := if low then 2 else if u.2 then 3 else if hit then 1 else 0
  ({ c with window := window, next := if low then c.floor else u.1,
            triggers := if hit then c.triggers + 1 else c.triggers }, cause)

def calCapacity (r : RingCfg) : Nat := 2 ^ r.log2.toNat / 32

/-- Writes an entry of the calibration log, or counts it dropped (R337; 03 R555). -/
def calLog (s : State) (e : CalEntry) : State :=
  let r := s.cal.ring
  if r.absent ∨ calCapacity r - (r.producer - r.consumer).toNat = 0 then
    { s with cal := { s.cal with dropped := s.cal.dropped + 1 } }
  else
    let p := errPort s
    let s := sendWrite s p .calLog (r.base + BitVec.ofNat 64 (32 * (r.producer.toNat % calCapacity r))) (.calEntry e)
    let s := { s with cal := { s.cal with written := s.cal.written + 1, ring := { r with producer := r.producer + 1 } } }
    sendWrite s p .calLog r.doorbell (.index (r.producer + 1))

/-- Closes the period of tick k for one slot (R332, R338). -/
def closeSlot (k : TickRef) (s : State) (slot : Nat) : State :=
  let c := calOf s slot
  if ¬ c.counted then setCal s slot (nextPeriod { c with next := c.scale })
  else
    let x := nextScale s.cal.windowN.toNat s.cal.headroom s.cal.trigger c
    let n := x.1
    let s := setCal s slot (nextPeriod n)
    let above := x.2 == 3 || (ueCeil (windowMax n.window * ((s.cal.headroom.toNat : Nat) : Rat) / 256
      / fmtMax c.fmt.toNat)).2
    let s := if above then raise s .scaleCeiling {} slot else s
    if n.next = c.scale then s
    else calLog s
      { tick := k.num, slot := BitVec.ofNat 16 slot, fmt := c.fmt, cause := x.2, oldScale := c.scale, newScale := n.next
        windowMax := f32Word (f32Round (windowMax n.window)), periodMax := f32Word (f32Round c.a)
        saturations := BitVec.ofNat 32 (min c.sat 0xFFFFFFFF) }

/-- Closes the open period (R328, R329). -/
def closePeriod (s : State) (k : TickRef) : State :=
  let s := (s.cal.slots.map (·.1)).foldl (closeSlot k) s
  { s with cal := { s.cal with closed := true } }

/-- Ticks of a request's descriptors, chunks and segments that are not processed yet. -/
def openTicks (r : Request) : List Nat :=
  r.queue.map (·.tick.idx) ++ r.chains.map (·.tick.idx) ++ r.promptSegs.map (·.tick.idx)

/-- The oldest tick whose work is unfinished. -/
def oldestWork (s : State) : Nat :=
  let ts := s.req.items.map (·.tick.idx) ++ (s.tune.batches.filter (·.placed)).map (·.tick.idx)
    ++ s.eng.engines.flatMap (fun e => (e.2.running.map (·.tick.idx)).toList) ++ s.req.table.flatMap fun e => openTicks e.2
  (ts.filter fun i => i != 0).foldl min s.tick.cur.idx

/-- At T_n each slot's next scale becomes its scale; scales that unfinished work still uses are kept (R332, R333). -/
def promoteScales (s : State) (before : Nat) : State :=
  let old := oldestWork s
  let one (_ : Nat) (c : CalSlot) : CalSlot :=
    let hist := if c.next = c.scale then c.hist else c.hist ++ [(before, c.scale)]
    { c with hist := hist.filter (fun h => decide (old ≤ h.1)), scale := c.next }
  { s with cal := { s.cal with slots := Tbl.mapVals {} one s.cal.slots, closed := false } }

/-- The first period of an entry to Operational begins (R328). -/
def openPeriod (s : State) : State :=
  let one (_ : Nat) (c : CalSlot) : CalSlot := { c with m := 0, a := 0, sat := 0, counted := false, ahead := {} }
  { s with cal := { s.cal with slots := Tbl.mapVals {} one s.cal.slots, periodOpen := true, closed := false } }

end Sys2Proof.Machine
end

