-- ==== Sys2Proof/Machine/Plans.lean ====
section
/-! DEFINITION. Fjaralub plans, pegs and the plan pool (08 R267 to R280). -/
namespace Sys2Proof.Machine
open Sys2Proof

/-! ## Images (R267 to R270) -/

/-- A tile record at an offset (R268). -/
def readTile (img : List Byte) (o : Nat) : Tile :=
  let f (b n : Nat) : Nat := leAt img (o + b) n
  { id := BitVec.ofNat 16 (f 0 2), engine := BitVec.ofNat 6 (f 2 1), kind := BitVec.ofNat 4 (f 3 1 / 16)
    role := BitVec.ofNat 4 (f 3 1), fmtA := BitVec.ofNat 4 (f 4 1 / 16), fmtB := BitVec.ofNat 4 (f 4 1)
    grouping := BitVec.ofNat 2 (f 5 1 / 64), intPath := (f 5 1).testBit 5, deltaCapable := (f 5 1).testBit 4
    layer := BitVec.ofNat 16 (f 6 2), m := BitVec.ofNat 32 (f 8 4), k := BitVec.ofNat 32 (f 12 4)
    n := BitVec.ofNat 32 (f 16 4), waitFor := BitVec.ofNat 16 (f 20 2), waitValid := (f 22 1).testBit 0
    screen := BitVec.ofNat 16 (f 30 2), weightOffset := BitVec.ofNat 48 (f 24 6) }

/-- A peg record at an offset (R270). -/
def readPeg (img : List Byte) (o : Nat) : Peg :=
  { screen := BitVec.ofNat 16 (leAt img o 2), streamMask := BitVec.ofNat 16 (leAt img (o + 2) 2)
    denseMask := BitVec.ofNat 32 (leAt img (o + 4) 4), bytes := BitVec.ofNat 32 (leAt img (o + 8) 4) }

/-- The plan that an image describes. -/
def readPlan (img : List Byte) (decl : PlanDecl) : Plan :=
  let f (b n : Nat) : Nat := leAt img b n
  { st := .loaded, format := BitVec.ofNat 16 (f 0 2), costPatch := BitVec.ofNat 32 (f 8 4)
    costToken := BitVec.ofNat 32 (f 12 4), costTune := BitVec.ofNat 32 (f 16 4), denseMask := BitVec.ofNat 32 (f 20 4)
    streamMask := BitVec.ofNat 16 (f 24 2), tileMin := BitVec.ofNat 16 (f 2 2), tileMax := BitVec.ofNat 16 (f 4 2)
    promptScreen := (f 6 1).testBit 0, watcher := (f 6 1).testBit 1
    tuning := (f 6 1).testBit 3, patchBytes := BitVec.ofNat 5 (f 7 1), promptId := BitVec.ofNat 16 (f 48 2)
    watcherId := BitVec.ofNat 16 (f 50 2)
    tiles := (List.range (f 28 4)).map fun i => readTile img (64 * f 32 4 + 32 * i)
    pegs := (List.range (f 27 1)).map fun i => readPeg img (64 * f 36 4 + 16 * i)
    rules := if (f 6 1).testBit 2 then (img.drop (64 * f 40 4)).take (f 44 4) else []
    image := img, decl := decl }

/-- A plan assigns tiles to an engine (R267). -/
def Plan.assigns (p : Plan) (e : Nat) : Bool := if e < 32 then p.denseMask.getLsbD e else p.streamMask.getLsbD (e - 32)
def Peg.names (p : Peg) (e : Nat) : Bool := if e < 32 then p.denseMask.getLsbD e else p.streamMask.getLsbD (e - 32)

/-! ## Pegs (R270 to R272, R277) -/

/-- The pegs of plans on an engine, one copy of each screen. -/
def pegsOn (ps : List Plan) (e : Nat) : List (Nat × Nat) :=
  ((ps.flatMap (·.pegs)).filter (·.names e)).foldl (fun l p =>
    let k := p.screen.toNat
    Tbl.ins l k (max (Tbl.get 0 l k) p.bytes.toNat)) []

def loadedPlans (s : State) : List Plan := (s.eng.plans.filter fun e => e.2.st == .loaded).map (·.2)
/-- Pegged Bytes and Pegged Screens (R277). -/
def peggedBytes (s : State) (e : Nat) : Nat := (pegsOn (loadedPlans s) e).foldl (fun n x => n + x.2) 0
def peggedScreens (s : State) (e : Nat) : Nat := (pegsOn (loadedPlans s) e).length
def pegLimit (e : Nat) : Nat := if e < 32 then 3145728 else 15728640

/-- The slices hold a copy of every screen that a loaded plan pegs on them, of its current version where there was none,
and no other (R270, R274, R275). -/
def holdPegs (s : State) : State :=
  (List.range 48).foldl (fun s e =>
    let pegs := pegsOn (loadedPlans s) e
    let old := (engOf s e).copies
    let copies : Tbl W32 := pegs.map fun p =>
      (p.1, (Tbl.find old p.1).getD (screenVersion s (BitVec.ofNat 16 p.1)))
    let on := (engOf s e).rewriting.filter fun x => pegs.any fun p => p.1 == x.1.toNat
    if copies = old ∧ on = (engOf s e).rewriting then s
    else modEng s e fun v => { v with copies := copies, rewriting := on }) s

/-- Reserved engines have room for the tiles of a piece of bulk or tuning work: (64 − share) / 64 of the minimum period, and
with share 64 bulk tiles of the screens pegged on the engine only (R282). -/
def enginesTake (s : State) (ts : List Tile) (bulk : Bool) : Bool :=
  ts.all fun t =>
    let e := t.engine.toNat
    let v := engOf s e
    let own := ts.filter fun x => x.engine == t.engine
    let ac := own.foldl (fun n x => n + tileAc e x x.intPath) 0
    if v.share = 0 then true
    else if v.share.toNat ≥ 64 then bulk && (pegsOn (loadedPlans s) e).any fun x => x.1 == t.screen.toNat
    else decide (64 * (v.planned + ac) ≤ (64 - v.share.toNat) * (s.tick.minPeriod.toNat * 2000))

/-! ## The checks of a LOAD (R274) -/

def headerBad (img : List Byte) (len : Nat) : Bool :=
  let f (b n : Nat) : Nat := leAt img b n
  let n := img.length
  decide (n < 64) || f 60 4 != (crc32c (img.take 60)).toNat || f 52 4 != len
    || decide (64 * f 32 4 + 32 * f 28 4 > n) || decide (64 * f 36 4 + 16 * f 27 1 > n)
    || decide (64 * f 40 4 + f 44 4 > n) || f 7 1 % 32 == 0 || decide (f 7 1 % 32 > 16)
    || decide (f 27 1 > 8) || f 28 4 == 0 || decide (f 28 4 > 65536)

/-- A format that a multiplier takes (R253, R254). -/
def operandFmt (f : BitVec 4) : Bool := decide (f.toNat < 8) || (decide (9 ≤ f.toNat) && decide (f.toNat ≤ 11))

def tileBad (t : Tile) : Bool :=
  decide (t.kind.toNat > 3) || !(t.role == 0 || t.role == 2 || t.role == 4 || t.role == 5)
    || !operandFmt t.fmtA || !operandFmt t.fmtB || (t.kind == 1 && (decide (32 ≤ t.engine.toNat) || t.intPath))
    || (t.intPath && !((t.fmtA == 6 || t.fmtA == 7) && (t.fmtB == 6 || t.fmtB == 7)))

/-- A tile that waits for none of the tiles before it. -/
def orderBad : List Tile → List W16 → Bool
  | [], _ => false
  | t :: rest, seen => (t.waitValid && !seen.contains t.waitFor) || orderBad rest (t.id :: seen)

/-- A backbone screen has a CURRENT version (13 R558). -/
def hasCurrent (s : State) (sid : W16) : Bool := screenVersion s sid != 0

/-- Pages of the backbone screens region in use (11 R557). -/
def backbonePages (s : State) : Nat :=
  s.eng.plans.foldl (fun n e => if e.2.st = .loaded then n + ceilDiv e.2.image.length 65536 else n) 0
    + s.tune.screens.foldl (fun n e =>
        n + (if e.2.other = .empty then 0 else ceilDiv e.2.otherLen 65536)
          + (if e.2.current = 0 then 0 else ceilDiv e.2.image.length 65536)) 0

/-- The result of a LOAD: 1, or the code of the first check that fails. -/
def planCheck (s : State) (img : List Byte) (len : Nat) : Nat :=
  if headerBad img len then 0x30
  else
    let p := readPlan img {}
    let named := [p.promptId, p.watcherId].filter fun x => x != 0xFFFF
    if p.tiles.any fun t => decide (t.engine.toNat > 47) || !p.assigns t.engine.toNat then 0x31
    else if p.tiles.any tileBad then 0x32
    else if orderBad p.tiles [] then 0x33
    else if (named ++ p.tiles.map (·.screen)).any fun x => !hasCurrent s x then 0x34
    else if (List.range 48).any fun e =>
        decide (pegLimit e < (pegsOn (p :: loadedPlans s) e).foldl (fun n x => n + x.2) 0) then 0x35
    else if (p :: loadedPlans s).foldl (fun n x => n + x.rules.length) 0 > 1048576 then 0x36
    else if regionPages s 0 < backbonePages s + ceilDiv img.length 65536 then 0x37
    else 1

/-! ## Commands (R273, R275) -/

/-- The plan ids that a function binds: its Plan Binding, and the plan in force while it runs. -/
def boundPlans (f : Fn) : List Byte :=
  match f.st with
  | .running | .stopping => [f.set.plan, f.act.plan]
  | _ => [f.set.plan]

def selectedPlan (s : State) : Byte := s.eng.planSel.truncate 8

def planLoad (s : State) : WriteRes :=
  let p := selectedPlan s
  guardWrite s ((planOf s p).st == .loading) rsBusy fun s =>
    guardWrite s ((planOf s p).st == .loaded) rsInUse fun s =>
      let x := planOf s p
      .ok (startJob (setPlan s p { x with st := .loading }) (.plan p) (weightPort s) x.addr x.len.toNat)

/-- Calibration slots of a plan are freed (10 R321, R322). -/
def freePlanSlots (s : State) (p : Byte) : State :=
  { s with cal := { s.cal with
      slots := s.cal.slots.filter fun e => !(decide (192 * p.toNat ≤ e.1) && decide (e.1 < 192 * p.toNat + 192)) } }

def planUnload (s : State) : WriteRes :=
  let p := selectedPlan s
  guardWrite s ((planOf s p).st == .loading) rsBusy fun s =>
    guardWrite s (s.fns.any fun e => e.2.st != .idle && (boundPlans e.2).contains p) rsInUse fun s =>
      let x := planOf s p
      .ok (holdPegs (freePlanSlots (setPlan s p { addr := x.addr, len := x.len, last := x.last }) p))

/-- 0x2140:02 ← LOAD. -/
def execPlanLoad (path : Path) (s : State) : Host.Outcome State Fault Refusal := mgmtWrite s path 0x2140 2 planLoad

/-- 0x2140:02 ← UNLOAD. -/
def execPlanUnload (path : Path) (s : State) : Host.Outcome State Fault Refusal := mgmtWrite s path 0x2140 2 planUnload

/-- The slots that a plan's tensors name (10 R322). -/
def initPlanSlots (s : State) (p : Byte) (ts : List TensorDesc) : State :=
  ts.foldl (fun s t =>
    if t.slot.toNat < 192 then
      setCal s (192 * p.toNat + t.slot.toNat)
        { owner := 1, ownerId := p.zeroExtend 16, fmt := t.fmt, scale := t.init, next := t.init
          floor := if t.floor.toNat / 256 = 0 then 0x0100 else t.floor }
    else s) s

/-- A plan load has read its image (R274). -/
def execPlanLoadDone (slot : Byte) (decl : PlanDecl) (s : State) : Host.Outcome State Fault Refusal :=
  match jobOf s (.plan slot) with
  | some j =>
    let x := planOf s slot
    if ¬ (coreRuns s ∧ j.over ∧ x.st = .loading) then .next s
    else
      let code := loadCode j (planCheck s (jobImage s j) j.len) 0x38
      let s := jobTaken (dropJob s (.plan slot)) j
      if code = 1 then
        let s := setPlan s slot { readPlan j.bytes decl with addr := x.addr, len := x.len, last := 1 }
        done (holdPegs (initPlanSlots s slot decl.tensors))
      else
        let s := setPlan s slot { x with st := .empty, last := BitVec.ofNat 8 code }
        done (raise s .planImageBad {} slot.toNat code)
  | none => .next s

/-- The pegged bytes of a screen on an engine. -/
def pegBytes (s : State) (e : Nat) (screen : W16) : Nat := Tbl.get 0 (pegsOn (loadedPlans s) e) screen.toNat

/-- An engine has rewritten its pegged copy of a screen: at 2,000 bytes per ac or later (R272). -/
def execPegRewrite (engine : Fin 48) (screen : W16) (s : State) : Host.Outcome State Fault Refusal :=
  let e := engine.val
  match (engOf s e).rewriting.find? fun x => x.1 == screen with
  | none => .next s
  | some x =>
    if ¬ coreRuns s ∨ s.time.now < x.2 + ceilDiv (pegBytes s e screen) 2000 then .next s
    else
      .next (modEng s e fun v => { v with
        rewriting := v.rewriting.filter fun x => x.1 != screen
        copies := Tbl.ins v.copies screen.toNat (screenVersion s screen) })

/-- A published screen's pegged copies are rewritten from this cycle on (R272). -/
def startPegRewrites (s : State) (screen : W16) : State :=
  (List.range 48).foldl (fun s e =>
    if (pegsOn (loadedPlans s) e).any fun x => x.1 == screen.toNat then
      modEng s e fun v => { v with rewriting := v.rewriting.filter (fun x => x.1 != screen) ++ [(screen, s.time.now)] }
    else s) s

/-! ## The plan pool (R277, R278) -/

/-- A function that starts, runs or stops binds a plan that assigns the engine. -/
def engineBound (s : State) (e : Nat) : Bool :=
  s.fns.any fun f => (f.2.st == .starting || f.2.st == .running || f.2.st == .stopping)
    && (boundPlans f.2).any fun p => (planOf s p).st == .loaded && decide (e < 48) && (planOf s p).assigns e

/-- A request is assigned to the pattern engine. -/
def patternUsed (s : State) (e : Nat) : Bool :=
  decide (48 ≤ e) && anyReq s fun r => r.pattern.any fun n => decide (n.val + 48 = e)

def enginePool (engine : Fin 56) (value : Byte) (s : State) : WriteRes :=
  let e := engine.val
  if value = 0 then
    guardWrite s (engineBound s e || patternUsed s e) rsInUse fun s =>
      .ok (modEng s e fun v => { v with pool := false, poolNext := false })
  else if value = 1 then .ok (modEng s e fun v => { v with poolNext := !v.pool })
  else .abort abRange 0 s

def execEnginePoolWrite (path : Path) (engine : Fin 56) (value : Byte) (s : State) : Host.Outcome State Fault Refusal :=
  mgmtWrite s path (0x2100 + BitVec.ofNat 16 engine.val) 1 (enginePool engine value)

end Sys2Proof.Machine
end

