-- ==== Sys2Proof/Machine/Tuning.lean ====
section
/-! DEFINITION. Live tuning: feedback, micro-batches, the optimiser, delta and backbone versions, publication (13). -/
namespace Sys2Proof.Machine
open Sys2Proof

/-! ## Binary32 arithmetic (R410) -/

def F32.add : F32 → F32 → F32
  | .fin a, .fin b => f32Round (a + b)
  | .inf a, .inf b => if a = b then .inf a else .nan
  | .nan, _ => .nan
  | _, .nan => .nan
  | .inf a, .fin _ => .inf a
  | .fin _, .inf b => .inf b

def F32.minus : F32 → F32
  | .fin a => .fin (-a)
  | .inf n => .inf (!n)
  | .nan => .nan

def F32.sub (a b : F32) : F32 := a.add b.minus

def F32.mul : F32 → F32 → F32
  | .fin a, .fin b => f32Round (a * b)
  | .nan, _ => .nan
  | _, .nan => .nan
  | .fin a, .inf b => if a = 0 then .nan else .inf (decide (a < 0) != b)
  | .inf a, .fin b => if b = 0 then .nan else .inf (a != decide (b < 0))
  | .inf a, .inf b => .inf (a != b)

def F32.div : F32 → F32 → F32
  | .fin a, .fin b => if b = 0 then (if a = 0 then .nan else .inf (decide (a < 0))) else f32Round (a / b)
  | .nan, _ => .nan
  | _, .nan => .nan
  | .fin _, .inf _ => .fin 0
  | .inf a, .fin b => .inf (a != decide (b < 0))
  | .inf _, .inf _ => .nan

/-- The binary32 number nearest to the square root of a positive number: in half units of the result's grid, an exact
value ends on an integer and any other lies above it. -/
def sqrtRat (q : Rat) : Rat :=
  let half := pow2 (floorLog2 q / 2 - 24)
  let x := q / (half * half)
  let h := Nat.sqrt x.floor.toNat
  let exact := decide (((h * h : Nat) : Rat) = x)
  let lo := h / 2
  let up := decide (h % 2 = 1) && (!exact || decide (lo % 2 = 1))
  ((if up then lo + 1 else lo : Nat) : Rat) * (half * 2)

def F32.sqrt : F32 → F32
  | .fin x => if x = 0 then .fin 0 else if x < 0 then .nan else .fin (sqrtRat x)
  | .inf n => if n then .nan else .inf false
  | .nan => .nan

/-- A power, as one operation rounded once (log 23). -/
def F32.pow (b : F32) (t : Nat) : F32 :=
  match b with
  | .fin x => f32Round (x ^ t)
  | x => x

def F32.finite : F32 → Bool
  | .fin _ => true
  | _ => false

/-! ## Sets, layouts and versions (R408, R413 to R419) -/

def setCurrentNum (d : DeltaSet) : W32 := ((d.current.map (·.version)).getD 0)
def tuneCount (s : State) (k n : Nat) : State := { s with tune := { s.tune with counters := cntAdd s.tune.counters k n } }

/-- Publication tick `a` comes after tick `b` (02 R49). -/
def numAfter (a b : W48) : Bool := a != b && decide ((a - b).toNat < 2 ^ 47)

/-- The deltas of a version's blocks, rounded to E8M7 (08 R262), in layout order. -/
def blockValues (b : DBlock) : List Rat :=
  (List.range 256).map fun i =>
    let w := b.scales.getD (i / 16) 0
    if w.toNat / 256 = 0 then 0 else (((b.codes.getD i 0).toInt : Int) : Rat) * scaleVal w
def versionMaster (v : DVersion) : List W16 :=
  (v.matrices.flatMap (·.blocks)).flatMap fun b => (blockValues b).map e8m7Word
/-- The master deltas of a set; before any training, those of its current version (log 24). -/
def masterOf (d : DeltaSet) : List W16 :=
  if d.master.isEmpty then ((d.current.map versionMaster).getD []) else d.master

/-- One row of a block cut from 16 values (R417). -/
def cutRow (w : List Rat) : W16 × List (BitVec 4) :=
  let a := w.foldl (fun m x => max m (absRat x)) (0 : Rat)
  if a = 0 then (0, w.map fun _ => 0)
  else
    let s := (ueCeil (a / 7)).1
    (s, w.map fun x => BitVec.ofInt 4 (roundEven (x / scaleVal s)))

def cutBlock (b : DBlock) (w : List Rat) : DBlock :=
  let rows := (List.range 16).map fun i => cutRow ((w.drop (16 * i)).take 16)
  { b with scales := rows.map (·.1), codes := rows.flatMap (·.2) }

/-- Blocks refilled from master values, and the values left. -/
def cutBlocks : List DBlock → List Rat → List DBlock × List Rat
  | [], w => ([], w)
  | b :: t, w =>
    let x := cutBlocks t (w.drop 256)
    (cutBlock b (w.take 256) :: x.1, x.2)

def cutMatrices : List DMatrix → List Rat → List DMatrix
  | [], _ => []
  | m :: t, w =>
    let x := cutBlocks m.blocks w
    { m with blocks := x.1 } :: cutMatrices t x.2

def e8m7Val (w : W16) : Rat := (decodeFloat 0 w.toNat).getD 0

/-- The version that a cut of the set makes (R417). -/
def cutVersion (d : DeltaSet) (n : W32) : DVersion :=
  { version := n, fromCut := true
    matrices := cutMatrices ((d.current.map (·.matrices)).getD []) ((masterOf d).map e8m7Val) }

/-- Pages of a delta version (11 R557). -/
def versionPages (v : DVersion) : Nat :=
  ceilDiv (64 + 32 * v.matrices.length + 192 * (v.matrices.foldl (fun n m => n + m.blocks.length) 0)) 65536
def setPages (d : DeltaSet) : Nat :=
  (d.current.map versionPages).getD 0 + (d.previous.map versionPages).getD 0
    + (match d.stagingV with
      | some v => versionPages v
      | none => if d.staging = .loading then ceilDiv d.len.toNat 65536 else 0)
    + (if d.master.isEmpty then 0 else Config.trainPages d.master.length)
def deltaPages (s : State) : Nat :=
  s.tune.sets.foldl (fun n e => n + setPages e.2) 0 + s.stream.freePending.length

/-- Pages of the training state of a set (11 R376; 13 R408). -/
def trainingPages (set : Nat) (d : DeltaSet) : List (BitVec 22) :=
  if d.master.isEmpty then [] else (List.range (Config.trainPages d.master.length)).map fun i => Config.trainPage set i

/-! ## Holds (R419) -/

def deltaHeld (s : State) (d : BitVec 10) (v : W32) : Bool :=
  let k : W16 := d.zeroExtend 16
  s.tune.batches.any (fun b => b.placed && b.set == d && b.deltaTag == v)
    || s.req.items.any (fun i => i.placed && decide (i.tick.idx < s.tick.cur.idx) && i.version == v
        && i.use.dset == k)
    || s.req.table.any (fun e => e.2.pinned && e.2.deltaVersion == v && e.2.deltaUse.dset == k)

/-- A function that is not IDLE fixes a version of the screen (R427). -/
def functionPins (s : State) (b : W16) (v : W32) : Bool :=
  s.fns.any fun e => e.2.st != .idle && [e.2.set, e.2.act].any fun f =>
    let p := planOf s f.plan
    (p.promptId == b && f.pinPrompt == v) || (p.watcherId == b && f.pinWatcher == v)

def screenHeld (s : State) (b : BitVec 10) (v : W32) : Bool :=
  let k : W16 := b.zeroExtend 16
  v != 0 && (s.tune.batches.any (fun x => x.placed && x.backboneTags.contains (k, v))
    || s.req.items.any (fun i => i.placed && decide (i.tick.idx < s.tick.cur.idx) && i.backbone.contains (k, v))
    || s.req.table.any (fun e =>
        let p := planOf s (fnOf s e.2.fn).act.plan
        e.2.pinned && ((p.promptId == k && e.2.promptVersion == v) || (p.watcherId == k && e.2.watcherVersion == v)))
    || functionPins s k v)

/-! ## Feedback (R394 to R396) -/

/-- The bytes of a span in patches of a plan. -/
def spanPatches (p : Plan) (len : Nat) : Nat := ceilDiv len p.patchBytes.toNat

/-- The reason that refuses a span, or 0 (R394). -/
def feedbackReason (s : State) (d : Desc) : Nat :=
  let tenant := BitVec.ofNat 14 (pfield d 24 0 14)
  let policy := BitVec.ofNat 12 (pfield d 26 0 12)
  let set := (policyOf s policy).deltaSetNow
  let ds := dsetOf s (set.truncate 10)
  let plan := planOf s ds.tuningPlan
  let seq := pfield d 32 0 64
  if ¬ (tenantOf s tenant).valid then 1
  else if ¬ policyAllowed s tenant policy then 2
  else if set = 0xFFFF ∨ ds.current.isNone then 3
  else if s.tune.enable = 0 ∨ ds.tuning = 0 then 4
  else if plan.st ≠ .loaded ∨ ¬ plan.tuning then 5
  else if spanPatches plan (pfield d 12 0 32) > s.tune.patches.toNat then 6
  else if s.tune.lastAccepted.any fun x => decide (seq ≤ x.toNat) then 7
  else if s.tune.queue.length ≥ 65536 then 8
  else 0

/-- FEEDBACK (R394, R395). -/
def execFeedback (d : Desc) (s : State) : Host.Outcome State Fault Refusal :=
  match stampStage s d 9 with
  | (s, none) => done s
  | (s, some x) =>
    let why := feedbackReason s d
    if why ≠ 0 then
      done (tuneCount (violate s d x.type x.stamp x.tick .feedbackRefused why (pfield d 32 0 64)) 2 1)
    else
      let s := tuneCount (reportTickField s x) 1 1
      let sp : Span :=
        { length := BitVec.ofNat 32 (pfield d 12 0 32), addr := BitVec.ofNat 64 (pfield d 16 0 64)
          tenant := BitVec.ofNat 14 (pfield d 24 0 14), policy := BitVec.ofNat 12 (pfield d 26 0 12)
          head := BitVec.ofNat 2 (pfield d 28 0 2), target := BitVec.ofNat 16 (pfield d 30 0 16)
          seq := BitVec.ofNat 64 (pfield d 32 0 64), port := d.port }
      done { s with tune := { s.tune with queue := s.tune.queue ++ [sp], lastAccepted := some sp.seq } }

/-- Spans are finished: Feedback Position goes on as far as every accepted span below is finished (R396). -/
def finishSpans (s : State) (seqs : List W64) : State :=
  let t := s.tune
  let fin := t.finishedSeqs ++ seqs
  let open_ := t.queue.map (·.seq) ++ (t.batches.flatMap (·.spans)).map (·.seq)
  let free (x : W64) : Bool := open_.all fun y => decide (x.toNat < y.toNat)
  let pos := (fin.filter free).foldl (fun m x => if m.toNat < x.toNat then x else m) t.position
  { s with tune := { t with position := pos, finishedSeqs := fin.filter fun x => decide (pos.toNat < x.toNat) } }

/-! ## Micro-batches (R398 to R400) -/

/-- The delta set a span's policy binds. -/
def spanSet (s : State) (x : Span) : W16 := (policyOf s x.policy).deltaSetNow
def setSpans (s : State) (d : BitVec 10) : List Span := s.tune.queue.filter fun x => spanSet s x == d.zeroExtend 16

/-- The spans, in order, that fit a number of patches. -/
def fitSpans (p : Plan) : Nat → List Span → List Span
  | _, [] => []
  | room, x :: t =>
    let n := spanPatches p x.length.toNat
    if n ≤ room then x :: fitSpans p (room - n) t else []

def patchesOf (p : Plan) (xs : List Span) : Nat := xs.foldl (fun n x => n + spanPatches p x.length.toNat) 0

/-- The set may form micro-batches: it is tuned and its Tuning Plan is loaded. -/
def forms (s : State) (d : BitVec 10) : Bool :=
  (dsetOf s d).tuning == 1 && (planOf s (dsetOf s d).tuningPlan).st == .loaded

/-- Forms one micro-batch of a set. -/
def formBatch (s : State) (d : BitVec 10) : State :=
  let ds := dsetOf s d
  let p := planOf s ds.tuningPlan
  let xs := fitSpans p s.tune.patches.toNat (setSpans s d)
  if xs.isEmpty then s
  else
    let n := patchesOf p xs
    let b : Batch :=
      { seq := s.tune.nextSeq, set := d, spans := xs, patches := n, cost := n * p.costTune.toNat, plan := ds.tuningPlan }
    tuneCount { s with tune := { s.tune with
      nextSeq := s.tune.nextSeq + 1, batches := s.tune.batches ++ [b]
      queue := s.tune.queue.filter fun x => !xs.contains x } } 3 1

/-- Forms micro-batches of a set while its queued spans fill one. -/
def formFull : Nat → State → BitVec 10 → State
  | 0, s, _ => s
  | fuel + 1, s, d =>
    if forms s d ∧ s.tune.patches.toNat ≤ patchesOf (planOf s (dsetOf s d).tuningPlan) (setSpans s d) then
      formFull fuel (formBatch s d) d
    else s

/-- Every tuned set forms the micro-batches its queue fills (R398). -/
def formAll (s : State) : State :=
  if s.tune.enableNow = 0 then s
  else (s.tune.sets.map (·.1)).foldl (fun s d => formFull (s.tune.queue.length + 1) s (BitVec.ofNat 10 d)) s

/-- Tiles of the forward and the backward pass, in table order. -/
def tuningTiles (p : Plan) : List Nat :=
  (List.range p.tiles.length).filter fun i => (p.tiles[i]?).any fun t => t.role == 4 || t.role == 5

def batchOf (s : State) (seq : W64) : Option Batch := s.tune.batches.find? fun b => b.seq == seq
def modBatch (s : State) (seq : W64) (f : Batch → Batch) : State :=
  { s with tune := { s.tune with batches := s.tune.batches.map fun b => if b.seq = seq then f b else b } }

/-- What the tiles of a micro-batch merge: the version current at T_n, on the screens of its spans' policy (log 95). -/
def batchUse (s : State) (b : Batch) : DeltaUse :=
  { version := setCurrentNum (dsetOf s b.set), dset := b.set.zeroExtend 16
    screens := ((b.spans.head?).map fun x => (policyOf s x.policy).screensNow).getD 0xFFFFFFFF }

/-- A placed micro-batch starts: its tags, its tiles and the reads of its spans (R395, R400). -/
def startBatch (s : State) (b : Batch) : State :=
  let p := planOf s b.plan
  let tiles := tuningTiles p
  let screens := ((tiles.filterMap fun i => (p.tiles[i]?).map (·.screen)).eraseDups).map fun x => (x, screenVersion s x)
  let block := (dsetOf s b.set).calBlock
  let scales := if block = 0xFFFF then [] else
    (List.range 64).map fun j => calScale s (49152 + 64 * block.toNat + j) s.tick.cur
  let k := s.req.nextPlace
  let s := planTiles { s with req := { s.req with nextPlace := k + 1 } } (tilesAt p tiles)
  let s := modBatch s b.seq fun b => { b with
    placed := true, order := k, tick := s.tick.cur, deltaTag := setCurrentNum (dsetOf s b.set), backboneTags := screens
    use := batchUse s b, block := block, scales := scales, todo := tiles }
  ((List.range b.spans.length).zip b.spans).foldl (fun s x =>
    startJob s (.span b.seq x.1) x.2.port x.2.addr x.2.length.toNat) s

/-- Bulk work placed in the latest plan, in 1/256 su. -/
def placedBulk (s : State) : Nat := s.fns.foldl (fun n e => n + e.2.placedSu) 0

/-- Tuning capacity left in the current plan, in 1/256 su (R399). -/
def tuneRoom (s : State) : Int :=
  let used : Nat := s.tune.batches.foldl (fun n b => if b.placed ∧ b.tick = s.tick.cur then n + b.cost else n) 0
  ((s.acct.capacity.toNat * 256 : Nat) : Int) - ((s.tick.reduce + placedBulk s + used : Nat) : Int)

/-- Places waiting micro-batches in sequence order, each whole (R399). -/
def placeBatches (s : State) : List Batch → State
  | [] => s
  | b :: t =>
    if b.placed then placeBatches s t
    else if (b.cost : Int) ≤ tuneRoom s ∧ (s.tune.batches.filter (·.placed)).length < 16
        ∧ enginesTake s (tilesAt (planOf s b.plan) (tuningTiles (planOf s b.plan))) false then
      placeBatches (startBatch s b) t
    else s

/-- A set's oldest queued span has crossed Fill Ticks boundaries: at intake close a micro-batch is formed, and placed
if the plan has been issued already in this cycle (R398). -/
def execFillTicksExpiry (set : BitVec 10) (s : State) : Host.Outcome State Fault Refusal :=
  let close := s.tick.at_ + s.tick.intakeClose.toNat
  let on := if s.tick.intakeClosed then s.tune.enableNow else s.tune.enable
  let old := ((setSpans s set).head?).any fun x => decide (s.tune.fillTicks.toNat ≤ x.crossed)
  if operational s ∧ s.tick.opTick ∧ on = 1 ∧ forms s set ∧ old
      ∧ (s.time.now = close ∨ (s.time.now > close ∧ ¬ s.tick.intakeClosed)) then
    let s := formBatch s set
    .next (if s.tick.intakeClosed then placeBatches s s.tune.batches else s)
  else .next s

/-! ## Completion (R401, R402, R409, R410, R426) -/

/-- The escape threshold of a format that Bruvar writes (09 R315). -/
def escapeLimit (s : State) (fmt : Nat) : Option Rat :=
  if s.eng.escapeMult = 0 ∨ (escapeCode fmt).isNone then none
  else some (((s.eng.escapeMult.toNat : Nat) : Rat) / 256 * fmtMax fmt)

/-- Events of a tile: the counts of 0x2505, the notices at its engine, and the statistics of its slot. -/
def noteNumeric (s : State) (e id : Nat) (n : Num) : State :=
  let s := { s with eng := { s.eng with numeric := n.counts.foldl (fun t x => cntAdd t x.1 x.2.toNat) s.eng.numeric } }
  n.notices.foldl (fun s c => raise s c (enginePlace e 0) id) s

structure AdamSet where
  b1 : F32
  b2 : F32
  lr : F32
  eps : F32
  wd : F32
  t : Nat

/-- One element of the optimiser step: m, v and w after it (R410). -/
def adam (p : AdamSet) (g m v w : F32) : F32 × F32 × F32 :=
  let one : F32 := .fin 1
  let m := (p.b1.mul m).add ((one.sub p.b1).mul g)
  let v := (p.b2.mul v).add (((one.sub p.b2).mul g).mul g)
  let mh := m.div (one.sub (p.b1.pow p.t))
  let vh := v.div (one.sub (p.b2.pow p.t))
  (m, v, w.sub (p.lr.mul ((mh.div (vh.sqrt.add p.eps)).add (p.wd.mul w))))

def writeMaster (x : F32) : W16 :=
  e8m7Word (match x with
    | .fin v => flush (roundBits 7 (-126) v)
    | .inf n => if n then -e8m7Max else e8m7Max
    | .nan => 0)

/-- The slot that counts what a micro-batch writes under a local slot, none once the set has given its block back (R409),
and the scale of the tick in whose plan it started (10 R331). -/
def batchSlot (s : State) (b : Batch) (j : Nat) : Option Nat :=
  if b.block = 0xFFFF ∨ (dsetOf s b.set).calBlock ≠ b.block then none else some (49152 + 64 * b.block.toNat + j)
def batchScale (b : Batch) (j : Nat) : Scale := b.scales.getD j 0x7F00
def slotScale (s : State) (k : Option Nat) (t : TickRef) : Scale :=
  match k with
  | some k => calScale s k t
  | none => 0x7F00
def recordAt (s : State) (k : Option Nat) (st : Stat) : State :=
  match k with
  | some k => calRecord s k st
  | none => s

/-- The engine and the id of the last backward tile of a micro-batch. -/
def lastTile (s : State) (b : Batch) : Nat × Nat :=
  let ts := (planOf s b.plan).tiles
  match (b.done.reverse.filterMap fun i => ts.find? fun t => t.id == i && t.role == 5).head? with
  | some t => (t.engine.toNat, t.id.toNat)
  | none => (0, 0)

/-! ### Randomness (R411) -/

/-- Dropout keeps element i of a tile: its group of 8 output bits lies below the plan's threshold. -/
def keepBit (s : State) (set : W16) (seq : W64) (tile : W16) (threshold : Byte) (i : Nat) : Bool :=
  let block := set.toNat * 2 ^ 112 + seq.toNat % 2 ^ 48 * 2 ^ 64 + tile.toNat * 2 ^ 48 + i / 128 % 2 ^ 48
  let out := Config.aes128 s.tune.seed (BitVec.ofNat 128 block)
  decide (bitsOf out.toNat (8 * (Config.dropGroup (i % 128)).val) 8 < threshold.toNat)

/-! ### The optimiser step (R408, R410) -/

/-- The gradients of a stored tensor of `n` elements, FP8 E5M2 in groups of 64, and what reading them meets. -/
def readGrads (b : List Byte) (n : Nat) : List Rat × Num :=
  let x := readTensor 2 (fun _ _ => none) (readStored b 2 1 (ceilDiv n 64) 64).rows 0 {}
  (x.1.flatten, x.2)
def readMoment1 (gs : List Group) (n : Num) : List Rat × Num :=
  let x := readRow 6 gs n
  (x.1.map flush, x.2)
def readMoment2 (gs : List Group) : List Rat :=
  gs.flatMap fun g =>
    if wideScale g.scale then g.side.map fun w => (e8m7Read w {}).1
    else g.codes.map fun c => if g.scale.toNat / 256 = 0 then 0 else u8lRead (scaleVal g.scale) c.toNat

/-- The optimiser step of a micro-batch. -/
def applyStep (s : State) (b : Batch) (res : BatchResult) : State :=
  let d := dsetOf s b.set
  let p : AdamSet :=
    { b1 := f32Read s.tune.beta1, b2 := f32Read s.tune.beta2, lr := f32Read s.tune.lr, eps := f32Read s.tune.eps
      wd := f32Read s.tune.decay, t := d.steps.toNat + 1 }
  let w0 := masterOf d
  let g := readGrads res.grads w0.length
  let m0 := readMoment1 d.moment1 g.2
  let v0 := readMoment2 d.moment2
  let xs := (List.range w0.length).map fun i =>
    adam p (.fin (g.1.getD i 0)) (.fin (m0.1.getD i 0)) (.fin (v0.getD i 0)) (.fin (e8m7Val (w0.getD i 0)))
  let side := takeWord s 2
  let s := side.2
  let thr := escapeLimit s 6
  let w1 := (cutList 64 (xs.map (·.1))).foldl (fun w g =>
    writeNarrow 6 (batchScale b 62) 0 thr s.eng.culletCap.toNat side.1.toNat [g] w) ({ num := m0.2 } : Written)
  let w2 := (cutList 64 (xs.map fun x => x.2.1)).foldl (fun w g => writeU8l (batchScale b 63) g w)
    ({ num := w1.num } : Written)
  let at_ := lastTile s b
  let s := noteNumeric s at_.1 at_.2 w2.num
  let s := recordAt (recordAt s (batchSlot s b 62) w1.stat) (batchSlot s b 63) w2.stat
  setDset s b.set { dsetOf s b.set with
    master := xs.map fun x => writeMaster x.2.2, moment1 := w1.groups.flatten, moment2 := w2.groups.flatten
    momentCap := if thr.isSome then s.eng.culletCap.truncate 4 else 0, steps := d.steps + 1, stepsSinceCut := true }

/-- A micro-batch ends: its holds and its spans are finished. -/
def endBatch (s : State) (b : Batch) : State :=
  let s := { s with
    tune := { s.tune with batches := s.tune.batches.filter fun x => x.seq != b.seq }
    jobs := s.jobs.filter fun j => match j.key with
      | .span q _ => q != b.seq
      | _ => true }
  finishSpans s (b.spans.map (·.seq))

def staleDiscard (s : State) (b : Batch) : State :=
  tuneCount (raise s .staleDiscarded {} b.seq.toNat b.set.toNat) 6 1

/-- The step of a finished micro-batch is applied, applied as stale, or dropped as stale (R426). -/
def settleBatch (s : State) (b : Batch) (res : BatchResult) : State :=
  let s :=
    if b.doomed then staleDiscard s b
    else if b.stale then
      if b.drop then staleDiscard s b
      else tuneCount (raise (applyStep s b res) .staleApplied {} b.seq.toNat b.set.toNat) 5 1
    else tuneCount (applyStep s b res) 4 1
  endBatch s b

/-- A tag of the micro-batch is no longer CURRENT (R426). -/
def batchStale (s : State) (b : Batch) : Bool :=
  b.deltaTag != setCurrentNum (dsetOf s b.set) || b.backboneTags.any fun x => screenVersion s x.1 != x.2

/-- The loss of a span whose head gives y, and that of a micro-batch, the mean over its spans; none where an output is no
number (R397). -/
def spanLoss (y : Rat) (target : W16) : Rat :=
  let d := y - ((target.toNat : Nat) : Rat) / 65535
  d * d / 2
def batchLoss (b : Batch) (ys : List W32) : Option Rat :=
  let vs := ys.filterMap fun y => match f32Read y with
    | .fin v => some v
    | _ => none
  if vs.length < ys.length then none
  else some (((vs.zip b.spans).map fun x => spanLoss x.1 x.2.target).sum / ((b.spans.length : Nat) : Rat))

/-- The loss or a gradient is NaN or infinite, or a tile's result carries FAULT (R402). -/
def batchFault (s : State) (b : Batch) (res : BatchResult) : Bool :=
  b.fault || (batchLoss b res.ys).isNone || (readGrads res.grads (masterOf (dsetOf s b.set)).length).2.fault

/-- Every tile of a micro-batch has completed (R401). Its step waits while a cut reads the master (R417). -/
def execMicroBatchComplete (seq : W64) (result : BatchResult) (s : State) : Host.Outcome State Fault Refusal :=
  match batchOf s seq with
  | none => .next s
  | some b =>
    if ¬ coreRuns s ∨ ¬ b.placed ∨ ¬ b.todo.isEmpty ∨ b.running ≠ 0 ∨ b.finished then .next s
    else if batchFault s b result then
      let s := tuneCount (raise s .tuneFault {} seq.toNat) 9 1
      done (endBatch (if b.doomed then staleDiscard s b else s) b)
    else
      let b := { b with stale := batchStale s b, drop := s.tune.stalePolicy == 1, finished := true }
      let s := modBatch s seq fun _ => b
      let d := dsetOf s b.set
      if d.staging = .cutting ∧ ¬ b.doomed then
        .next (setDset s b.set { d with cutWait := d.cutWait ++ [(seq, result)] })
      else done (settleBatch s b result)

/-- The steps that waited for a cut, in completion order (R417). -/
def releaseSteps (s : State) (set : BitVec 10) : State :=
  let ws := (dsetOf s set).cutWait
  let s := setDset s set { dsetOf s set with cutWait := [] }
  ws.foldl (fun s w => match batchOf s w.1 with
    | some b => settleBatch s b w.2
    | none => s) s

/-! ## Versions of a delta set (R414 to R418, R424) -/

/-- Every micro-batch of the set is to be discarded when it completes; one that waits for a cut has completed. -/
def doomBatches (s : State) (set : BitVec 10) : State :=
  releaseSteps { s with tune := { s.tune with
    batches := s.tune.batches.map fun b => if b.set = set ∧ b.placed then { b with doomed := true } else b } } set
/-- A DELETE dooms those that still wait for a plan, too: nothing is left to train (R415). -/
def doomWaiting (s : State) (set : BitVec 10) : State :=
  { s with tune := { s.tune with
    batches := s.tune.batches.map fun b => if b.set = set then { b with doomed := true } else b } }

/-- The training state starts afresh from the current version (R424); a set that is not tuned has none. -/
def restartTuning (s : State) (set : BitVec 10) : State :=
  let d := dsetOf s set
  let m := if d.tuning = 1 then ((d.current.map versionMaster).getD []) else []
  let s := setDset s set { d with master := m, moment1 := [], moment2 := [], steps := 0, stepsSinceCut := false }
  doomBatches s set

/-- The staging version becomes CURRENT. -/
def promoteStaging (s : State) (set : BitVec 10) : State :=
  let d := dsetOf s set
  match d.stagingV with
  | none => s
  | some v =>
    let s := setDset s set { d with
      current := some v, previous := if d.current.isSome then d.current else d.previous, staging := .empty
      stagingV := none, stagingNum := 0, firstDue := false }
    if v.fromCut then s else restartTuning s set

/-- The PREVIOUS version becomes CURRENT again. -/
def rollback (s : State) (set : BitVec 10) : State :=
  let d := dsetOf s set
  let s := setDset s set { d with current := d.previous, previous := d.current }
  if d.previous.any (·.fromCut) then s else restartTuning s set

/-- A load or a cut has completed (R418). -/
def stagingReady (s : State) (set : BitVec 10) (v : DVersion) : State :=
  let d := dsetOf s set
  let s := setDset s set { d with staging := .ready, stagingV := some v, last := 1, firstDue := d.current.isNone }
  if d.current.isNone ∧ ¬ operational s then promoteStaging s set else s

def pendingNamesStaging (d : DeltaSet) : Bool := d.staging != .empty && d.pending.any fun p => p.version == d.stagingNum

def selectedSet (s : State) : BitVec 10 := s.tune.setSel.truncate 10

/-- The staging version is freed, and a load or cut of it stopped. -/
def freeStaging (s : State) (set : BitVec 10) : State :=
  let s := dropJob s (.delta set)
  let s := setDset s set { dsetOf s set with staging := .empty, stagingV := none, stagingNum := 0, firstDue := false }
  releaseSteps s set

def deltaLoad (s : State) : WriteRes :=
  let set := selectedSet s
  guardWrite s (pendingNamesStaging (dsetOf s set)) rsInUse fun s =>
    if (dsetOf s set).loadVersion.toNat ≤ (dsetOf s set).highest.toNat then .abort abRange 0 s
    else
      let s := freeStaging s set
      let d := dsetOf s set
      let s := setDset s set { d with staging := .loading, stagingNum := d.loadVersion, highest := d.loadVersion }
      .ok (startJob s (.delta set) (weightPort s) d.addr d.len.toNat)

/-- A cut starts: the master is read as it stands in this cycle (R417). -/
def startCut (s : State) (set : BitVec 10) : State :=
  let s := freeStaging s set
  let d := dsetOf s set
  let n := d.highest + 1
  setDset s set { d with
    staging := .cutting, stagingNum := n, highest := n, stagingV := some (cutVersion d n), cutTicks := 0, cutAt := s.time.now
    stepsSinceCut := false }

/-- A CUT of the set aborts (R414). -/
def cutAborts (d : DeltaSet) : Bool := pendingNamesStaging d || d.staging == .loading

def deltaCut (s : State) : WriteRes :=
  let set := selectedSet s
  guardWrite s (pendingNamesStaging (dsetOf s set)) rsInUse fun s =>
    guardWrite s ((dsetOf s set).staging == .loading) rsBusy fun s => .ok (startCut s set)

def dropStaging (s : State) : WriteRes :=
  let set := selectedSet s
  let d := dsetOf s set
  guardWrite s (pendingNamesStaging d) rsInUse fun s =>
    guardWrite s (d.staging == .empty && (d.current.isSome || d.previous.isSome)) 0 fun s =>
      let s := freeStaging s set
      .ok (setDset s set { dsetOf s set with last := 1 })

/-- A valid policy binds the set. -/
def setBound (s : State) (set : BitVec 10) : Bool :=
  s.acct.policies.any fun e => e.2.valid && (e.2.deltaSet == set.zeroExtend 16 || e.2.deltaSetNow == set.zeroExtend 16)

/-- Versions of a set that a hold still keeps. -/
def heldOf (s : State) (set : BitVec 10) (vs : List DVersion) : List DVersion := vs.filter fun v => deltaHeld s set v.version

def deltaDelete (s : State) : WriteRes :=
  let set := selectedSet s
  guardWrite s (setBound s set || (dsetOf s set).tuning == 1) rsInUse fun s =>
    let d := dsetOf s set
    let vs := d.current.toList ++ d.previous.toList ++ d.stagingV.toList
    let held := heldOf s set (d.held ++ vs)
    let kept := (trainingPages set.toNat d).filter fun p => s.stream.copySet.contains p
    let s := { s with stream := { s.stream with freePending := s.stream.freePending ++ kept } }
    let s := freeStaging (doomBatches (doomWaiting s set) set) set
    let d := dsetOf s set
    .ok (setDset s set { d with
      current := none, previous := none, pending := none, master := [], moment1 := [], moment2 := [], steps := 0
      stepsSinceCut := false, cutTicks := 0, autoCut := 0, autoPublish := 0, last := 1, held := held })

def execDeltaLoad (path : Path) (s : State) : Host.Outcome State Fault Refusal := mgmtWrite s path 0x2710 2 deltaLoad
def execDeltaCut (path : Path) (s : State) : Host.Outcome State Fault Refusal := mgmtWrite s path 0x2710 2 deltaCut
def execDropStaging (path : Path) (s : State) : Host.Outcome State Fault Refusal := mgmtWrite s path 0x2710 2 dropStaging
def execDeltaDelete (path : Path) (s : State) : Host.Outcome State Fault Refusal := mgmtWrite s path 0x2710 2 deltaDelete

/-- A cut has read the master at 512 bytes per ac and quantised it (R417): steps that waited are applied. -/
def execCutComplete (set : BitVec 10) (s : State) : Host.Outcome State Fault Refusal :=
  let d := dsetOf s set
  match d.stagingV with
  | some v =>
    if coreRuns s ∧ d.staging = .cutting ∧ d.cutAt + ceilDiv (2 * (masterOf d).length) 512 ≤ s.time.now then
      done (releaseSteps (tuneCount (stagingReady s set v) 0x0B 1) set)
    else .next s
  | none => .next s

/-- Auto Cut Interval ticks have passed and a step has been applied: at T_n a CUT starts (R425). -/
def execAutoCut (set : BitVec 10) (s : State) : Host.Outcome State Fault Refusal :=
  let d := dsetOf s set
  if coreRuns s ∧ s.tick.cur.idx ≠ 0 ∧ s.time.now = s.tick.at_ ∧ d.autoCut ≠ 0 ∧ d.autoCut.toNat ≤ d.cutTicks
      ∧ d.stepsSinceCut ∧ ¬ cutAborts d then done (startCut s set)
  else .next s

/-! ## Images (R416, R421; 09 R298) -/

/-- A delta block record (08 R261). -/
def readBlock (img : List Byte) (o : Nat) : DBlock :=
  { row := BitVec.ofNat 16 (leAt img o 2), col := BitVec.ofNat 16 (leAt img (o + 2) 2)
    scales := (List.range 16).map fun i => BitVec.ofNat 16 (leAt img (o + 8 + 2 * i) 2)
    codes := (List.range 256).map fun i => BitVec.ofNat 4 (leAt img (o + 40 + i / 2) 1 / (if i % 2 = 0 then 1 else 16)) }

/-- A matrix entry of a delta image: the matrix, its record count and the offset of its records. -/
def readMatrix (img : List Byte) (o : Nat) : DMatrix × Nat × Nat :=
  let n := leAt img (o + 12) 4
  let at_ := 64 * leAt img (o + 24) 4
  ({ screen := BitVec.ofNat 16 (leAt img o 2), layer := BitVec.ofNat 16 (leAt img (o + 2) 2)
     rows := BitVec.ofNat 32 (leAt img (o + 4) 4), cols := BitVec.ofNat 32 (leAt img (o + 8) 4)
     weightOffset := BitVec.ofNat 48 (leAt img (o + 16) 6)
     blocks := (List.range n).map fun i => readBlock img (at_ + 192 * i) }, n, at_)

def readMatrices (img : List Byte) : List (DMatrix × Nat × Nat) :=
  (List.range (leAt img 4 4)).map fun i => readMatrix img (64 * leAt img 12 4 + 32 * i)

def deltaHeaderBad (img : List Byte) (len : Nat) : Bool :=
  let n := img.length
  let count := leAt img 4 4
  decide (n < 64) || leAt img 0 2 != 1 || leAt img 60 4 != (crc32c (img.take 60)).toNat || leAt img 16 4 != len
    || count == 0 || decide (count > 65536) || decide (64 * leAt img 12 4 + 32 * count > n)
    || ((List.range count).any fun i =>
      let o := 64 * leAt img 12 4 + 32 * i
      decide (64 * leAt img (o + 24) 4 + 192 * leAt img (o + 12) 4 > n))
    || (List.range count).foldl (fun t i => t + leAt img (64 * leAt img 12 4 + 32 * i + 12) 4) 0 != leAt img 8 4

/-- The records of a matrix ascend and lie within it. -/
def ascending : List DBlock → Bool
  | a :: b :: t => decide (a.row.toNat < b.row.toNat ∨ (a.row = b.row ∧ a.col.toNat < b.col.toNat)) && ascending (b :: t)
  | _ => true
def layoutBad (m : DMatrix) : Bool :=
  !ascending m.blocks || m.blocks.any fun b =>
    decide (m.rows.toNat ≤ b.row.toNat) || decide (m.cols.toNat ≤ b.col.toNat)
def tooDense (m : DMatrix) : Bool := decide (m.rows.toNat * m.cols.toNat / 8 < m.blocks.length)

/-- The result of a delta load and, for DENSITY, the matrix (R416). -/
def deltaCheck (s : State) (set : BitVec 10) (img : List Byte) (len : Nat) : Nat × Nat :=
  if deltaHeaderBad img len then (0x40, 0)
  else
    let ms := (readMatrices img).map (·.1)
    if ms.any layoutBad then (0x41, 0)
    else match (List.range ms.length).find? fun i => (ms[i]?).any tooDense with
      | some i => (0x42, i)
      | none =>
        let others := deltaPages s - ceilDiv (dsetOf s set).len.toNat 65536
        if regionPages s 1 < others + ceilDiv img.length 65536 then (0x43, 0) else (1, 0)

/-- A pending PUBLISH lapses because its version is freed (R423). -/
def lapse (s : State) (p : Pub) : State :=
  violateAt s (tickOf s) 0
    { code := .publishRefused, port := BitVec.ofNat 5 p.port.val, descType := 10, descSeq := p.seq, stamp := p.stamp
      detailA := 3, detailB := p.version.zeroExtend 64 }

def failDelta (s : State) (set : BitVec 10) (code : Nat × Nat) : State :=
  let d := dsetOf s set
  let gone := if pendingNamesStaging d then d.pending else none
  let s := setDset s set { d with
    staging := .empty, stagingV := none, stagingNum := 0, last := BitVec.ofNat 8 code.1
    pending := if gone.isSome then none else d.pending }
  let s := raise s .deltaImageBad {} set.toNat code.1
  let s := if code.1 = 0x42 then raise s .deltaDensity {} (set.toNat * 2 ^ 32 + d.stagingNum.toNat) code.2 else s
  match gone with
  | some p => lapse s p
  | none => s

/-- A delta load has read its image (R416). -/
def execDeltaLoadDone (set : BitVec 10) (s : State) : Host.Outcome State Fault Refusal :=
  match jobOf s (.delta set) with
  | some j =>
    let d := dsetOf s set
    if ¬ (coreRuns s ∧ j.over ∧ d.staging = .loading) then .next s
    else
      let check := deltaCheck s set (jobImage s j) j.len
      let code := (loadCode j check.1 0x44, check.2)
      let s := jobTaken (dropJob s (.delta set)) j
      if code.1 = 1 then
        done (stagingReady s set
          { version := d.stagingNum, fromCut := false, matrices := (readMatrices j.bytes).map (·.1) })
      else done (failDelta s set code)
  | none => .next s

/-! ### Backbone screens (R420, R421) -/

/-- The parts that a tensor header names: offset and bytes (09 R295 to R300). -/
def tensorParts (img : List Byte) (o : Nat) : List (Nat × Nat) :=
  let f (b n : Nat) : Nat := leAt img (o + b) n
  let outer := f 4 4
  let red := f 8 4
  let fmt := f 0 1 % 16
  let grouping := f 1 1 % 8
  let groups := ceilDiv outer (groupRows grouping) * ceilDiv red (groupLen grouping red)
  [(f 16 4, packedLen (fmtBits fmt) (outer * red)), (f 20 4, (if 9 ≤ fmt ∧ fmt ≤ 11 then 1 else 2) * groups), (f 24 4, groups)
   , (f 28 4, 4 * (f 2 1 % 16) * groupRows grouping * groups), (f 32 4, 2 * groupSize grouping red * f 12 4)
   , (f 36 4, 4 * ceilDiv groups 256)]

/-- A tensor whose header or a part of it lies beyond the image. -/
def tensorBeyond (img : List Byte) (o : Nat) : Bool :=
  decide (o + 64 > img.length)
    || (tensorParts img o).any fun p => p.1 != 0 && decide (o + 64 * p.1 + p.2 > img.length)

def screenHeaderBad (img : List Byte) (len : Nat) (screen : Nat) : Bool :=
  let n := img.length
  let count := leAt img 4 4
  let table := 64 * leAt img 8 4
  decide (n < 64) || leAt img 0 2 != 1 || leAt img 60 4 != (crc32c (img.take 60)).toNat || leAt img 12 4 != len
    || leAt img 2 2 != screen || count == 0 || decide (count > 65536) || decide (table + 4 * count > n)
    || (List.range count).any fun i => tensorBeyond img (64 * leAt img (table + 4 * i) 4)

/-- The result of a backbone load (R421). -/
def screenCheck (s : State) (b : BitVec 10) (img : List Byte) (len : Nat) : Nat :=
  let table := 64 * leAt img 8 4
  if screenHeaderBad img len b.toNat then 0x48
  else if (List.range (leAt img 4 4)).any fun i =>
      let o := 64 * leAt img (table + 4 * i) 4
      leAt img (o + 60) 4 != (crc32c ((img.drop o).take 60)).toNat then 0x49
  else if regionPages s 0 < backbonePages s then 0x4A
  else 1

def selectedScreen (s : State) : BitVec 10 := s.tune.screenSel.truncate 10

def pendingNamesOther (x : Screen) : Bool := x.other != .empty && x.pending.any fun p => p.version == x.otherV

/-- OTHER is in use: a hold or a pending PUBLISH. -/
def otherUsed (s : State) (b : BitVec 10) : Bool :=
  let x := screenOf s b
  x.other != .empty && (screenHeld s b x.otherV || pendingNamesOther x)

def backboneLoad (s : State) : WriteRes :=
  let b := selectedScreen s
  guardWrite s (otherUsed s b) rsInUse fun s =>
    guardWrite s ((screenOf s b).other == .loading) rsBusy fun s =>
      let x := screenOf s b
      if x.loadVersion.toNat ≤ x.highest.toNat then .abort abRange 0 s
      else
        let s := setScreen s b { x with
          other := .loading, otherV := x.loadVersion, highest := x.loadVersion, otherLen := x.len.toNat, otherImage := []
          firstDue := false }
        .ok (startJob s (.backbone b) (weightPort s) x.addr x.len.toNat)

def freeOther (s : State) (b : BitVec 10) : State :=
  let s := dropJob s (.backbone b)
  setScreen s b { screenOf s b with other := .empty, otherV := 0, otherLen := 0, otherImage := [], firstDue := false }

def dropOther (s : State) : WriteRes :=
  let b := selectedScreen s
  guardWrite s (otherUsed s b) rsInUse fun s => .ok (freeOther s b)

def execBackboneLoad (path : Path) (s : State) : Host.Outcome State Fault Refusal := mgmtWrite s path 0x2720 2 backboneLoad
def execDropOther (path : Path) (s : State) : Host.Outcome State Fault Refusal := mgmtWrite s path 0x2720 2 dropOther

/-- CURRENT and OTHER change places (R420). -/
def publishScreen (s : State) (b : BitVec 10) : State :=
  let x := screenOf s b
  let old := oldestWork s
  let past := if x.current = 0 then x.past else x.past ++ [(s.tick.cur.idx - 1, x.current)]
  let s := setScreen s b { x with
    current := x.otherV, image := x.otherImage, otherV := x.current, otherLen := x.image.length, otherImage := x.image
    other := if x.current = 0 then .empty else .previous, firstDue := false
    past := past.filter fun h => decide (old ≤ h.1) }
  startPegRewrites s (b.zeroExtend 16)

def failScreen (s : State) (b : BitVec 10) (code : Nat) : State :=
  let x := screenOf s b
  let gone := if pendingNamesOther x then x.pending else none
  let s := setScreen (freeOther s b) b { screenOf (freeOther s b) b with
    last := BitVec.ofNat 8 code, pending := if gone.isSome then none else x.pending }
  let s := raise s .backboneImageBad {} b.toNat code
  match gone with
  | some p => lapse s p
  | none => s

/-- A backbone load has read its image (R421); the first version of a screen becomes CURRENT under R418. -/
def execBackboneLoadDone (screen : BitVec 10) (s : State) : Host.Outcome State Fault Refusal :=
  match jobOf s (.backbone screen) with
  | some j =>
    let x := screenOf s screen
    if ¬ (coreRuns s ∧ j.over ∧ x.other = .loading) then .next s
    else
      let code := loadCode j (screenCheck s screen (jobImage s j) j.len) 0x4B
      let s := jobTaken (dropJob s (.backbone screen)) j
      if code = 1 then
        let s := setScreen s screen { x with
          other := .ready, otherLen := j.len, otherImage := j.bytes, last := 1, firstDue := x.current == 0 }
        done (if x.current = 0 ∧ ¬ operational s then publishScreen s screen else s)
      else done (failScreen s screen code)
  | none => .next s

/-! ## Publication (R418, R422 to R425; 03 R84) -/

/-- The target of a PUBLISH: its loaded versions and the current one. -/
def targetVersions (s : State) (screen : Bool) (t : Nat) : List W32 × W32 :=
  if screen then
    let x := screenOf s (BitVec.ofNat 10 t)
    ([x.otherV, x.current].filter fun v => v != 0, x.current)
  else
    let d := dsetOf s (BitVec.ofNat 10 t)
    ([d.stagingNum, setCurrentNum d, (d.previous.map (·.version)).getD 0].filter fun v => v != 0, setCurrentNum d)

def setPendingPub (s : State) (screen : Bool) (t : Nat) (p : Option Pub) : State :=
  let k := BitVec.ofNat 10 t
  if screen then setScreen s k { screenOf s k with pending := p } else setDset s k { dsetOf s k with pending := p }

/-- PUBLISH (R423). -/
def execPublish (d : Desc) (s : State) : Host.Outcome State Fault Refusal :=
  match stampStage s d 10 with
  | (s, none) => done s
  | (s, some x) =>
    let screen := pfield d 12 0 1 == 1
    let t := pfield d 14 0 16
    let v := BitVec.ofNat 32 (pfield d 16 0 32)
    let tick := BitVec.ofNat 48 (pfield d 20 0 48)
    let vs := targetVersions s screen t
    if t > 1023 ∨ vs.1.isEmpty then done (violate s d x.type x.stamp x.tick .publishRefused 1 v.toNat)
    else if ¬ vs.1.contains v then done (violate s d x.type x.stamp x.tick .publishRefused 2 v.toNat)
    else
      let s := reportTickField s x
      if v = vs.2 then done (setPendingPub s screen t none)
      else
        let past := decide (s.tick.cur.idx ≠ 0) && !numAfter tick s.tick.cur.num
        let s := if past then
            violate s d x.type x.stamp x.tick .publishPast tick.toNat (s.tick.cur.num + 1).toNat
          else s
        done (setPendingPub s screen t
          (some { version := v, tick := tick, atNext := past, port := d.port, seq := d.portSeq, stamp := x.stamp }))

/-- The publication is due at the tick just registered. -/
def pubDue (s : State) (p : Pub) : Bool := p.atNext || !numAfter p.tick s.tick.cur.num

def defer (s : State) (t : Nat) (v : W32) : State := tuneCount (raise s .publishDeferred {} t v.toNat) 0x0D 1

/-- One delta set at T_n: a first version, then its pending or automatic publication. -/
def publishSet (s : State) (k : Nat) : State :=
  let set := BitVec.ofNat 10 k
  let d := dsetOf s set
  let s := if d.firstDue ∧ d.staging = .ready ∧ operational s then promoteStaging s set else s
  let d := dsetOf s set
  let auto : Option Pub := if d.autoPublish = 1 ∧ d.staging = .ready ∧ d.stagingV.any (·.fromCut) then
      some { version := d.stagingNum, tick := 0, atNext := true, port := 0, seq := 0, stamp := 0, byAuto := true } else none
  match (if d.pending.any (pubDue s) then d.pending else auto) with
  | none => s
  | some p =>
    let wait (s : State) : State :=
      let s := if p.byAuto then s else setDset s set { d with pending := some { p with atNext := true } }
      defer s k p.version
    let clear (s : State) : State := if p.byAuto then s else setDset s set { dsetOf s set with pending := none }
    if d.staging ≠ .empty ∧ p.version = d.stagingNum then
      if d.staging ≠ .ready then wait s
      else if d.previous.any fun v => deltaHeld s set v.version then wait s
      else tuneCount (clear (promoteStaging s set)) 0x0C 1
    else if d.previous.any fun v => v.version == p.version then tuneCount (clear (rollback s set)) 0x0C 1
    else clear s

/-- One backbone screen at T_n. -/
def publishOther (s : State) (k : Nat) : State :=
  let b := BitVec.ofNat 10 k
  let x := screenOf s b
  let s := if x.firstDue ∧ x.other = .ready ∧ operational s then publishScreen s b else s
  let x := screenOf s b
  match (if x.pending.any (pubDue s) then x.pending else none) with
  | none => s
  | some p =>
    if x.other ≠ .empty ∧ p.version = x.otherV then
      if x.other = .loading then
        defer (setScreen s b { x with pending := some { p with atNext := true } }) k p.version
      else
        let s := publishScreen s b
        tuneCount (setScreen s b { screenOf s b with pending := none }) 0x0C 1
    else setScreen s b { x with pending := none }

/-- What a policy's bound set has CURRENT at T_n (12 R380): the settings change (12 R382), and what earlier ticks use is
kept while their work is unfinished (02 R42). -/
def refreshPolicies (s : State) : State :=
  let old := oldestWork s
  let one (_ : Nat) (p : Policy) : Policy :=
    let was := useNow p
    let version := if p.deltaSet = 0xFFFF then 0 else setCurrentNum (dsetOf s (p.deltaSet.truncate 10))
    let p := { p with screensNow := p.screens, deltaSetNow := p.deltaSet, deltaVersion := version }
    let past := if useNow p = was then p.past else p.past ++ [(s.tick.cur.idx - 1, was)]
    { p with past := past.filter fun h => decide (old ≤ h.1) }
  { s with acct := { s.acct with policies := Tbl.mapVals {} one s.acct.policies } }

/-- The tuning side of T_n: the publications, the spans' boundaries, the ticks of the auto cut (R398, R422, R425). -/
def tuneTick (s : State) : State :=
  let s := (s.tune.sets.map (·.1)).foldl publishSet s
  let s := (s.tune.screens.map (·.1)).foldl publishOther s
  let age (_ : Nat) (d : DeltaSet) : DeltaSet := if d = {} then d else { d with cutTicks := d.cutTicks + 1 }
  let cross (x : Span) : Span := { x with crossed := x.crossed + 1 }
  let s := { s with tune := { s.tune with
    sets := Tbl.mapVals {} age s.tune.sets, queue := s.tune.queue.map cross } }
  let free (s : State) (k : Nat) : State :=
    let set := BitVec.ofNat 10 k
    let d := dsetOf s set
    if d.held.isEmpty then s else setDset s set { d with held := heldOf s set d.held }
  refreshPolicies ((s.tune.sets.map (·.1)).foldl free s)

/-- A pinned request has reached Pin Limit ticks since its admission at T_n (R422, R428). -/
def execPinLimitExpiry (slot : Slot) (s : State) : Host.Outcome State Fault Refusal :=
  let r := reqOf s slot
  let plan := planOf s (fnOf s r.fn).act.plan
  if coreRuns s ∧ s.tick.cur.idx ≠ 0 ∧ s.time.now = s.tick.at_ ∧ r.st ≠ .free ∧ r.pinned
      ∧ (fnOf s r.fn).act.pinLimit.toNat ≤ r.pinTicks then
    .next (modReq s slot fun r => { r with
      pinned := false, deltaVersion := (policyOf s r.policy).deltaVersion, deltaUse := {}
      promptVersion := screenVersion s plan.promptId, watcherVersion := screenVersion s plan.watcherId })
  else .next s

/-! ## Settings of tuning (R403, R409, R412, R413) -/

/-- 0x2700:01. -/
def tuningEnable (value : Byte) (s : State) : WriteRes :=
  if value.toNat > 1 then .abort abRange 0 s else .ok { s with tune := { s.tune with enable := value } }

def execTuningEnable (path : Path) (value : Byte) (s : State) : Host.Outcome State Fault Refusal :=
  mgmtWrite s path 0x2700 1 (tuningEnable value)

/-- The lowest free block of tuning slots (R409). -/
def freeBlock (s : State) : Option Nat :=
  (List.range 256).find? fun b => !s.tune.sets.any fun e => e.2.calBlock == BitVec.ofNat 16 b

/-- Initialises a block: formats of R408 and of the Tuning Plan's tensors (R409). -/
def initBlock (s : State) (set : BitVec 10) (b : Nat) : State :=
  let ts := (planOf s (dsetOf s set).tuningPlan).decl.tensors
  let fmt (j : Nat) : BitVec 4 :=
    if j = 61 then 2 else if j = 62 then 6 else if j = 63 then 8
    else ((ts.find? fun t => t.slot.toNat == j).map (·.fmt)).getD 0
  (List.range 64).foldl (fun s j => setCal s (49152 + 64 * b + j)
    { owner := 2, ownerId := set.zeroExtend 16, fmt := fmt j, scale := 0x7F00, next := 0x7F00, floor := 0x0100 }) s

def freeCalBlock (s : State) (b : Nat) : State :=
  { s with cal := { s.cal with
      slots := s.cal.slots.filter fun e => !(decide (49152 + 64 * b ≤ e.1) && decide (e.1 < 49152 + 64 * b + 64)) } }

/-- Tuning 0x2710:0B of the selected set (R403, R409). -/
def setTuning (value : Byte) (s : State) : WriteRes :=
  let set := selectedSet s
  let d := dsetOf s set
  if value.toNat > 1 then .abort abRange 0 s
  else if value = d.tuning then .ok s
  else if value = 1 then
    match freeBlock s with
    | none => .abort abState rsNoBlock s
    | some b =>
      .ok (initBlock (setDset s set { d with tuning := 1, calBlock := BitVec.ofNat 16 b, master := masterOf d }) set b)
  else
    let gone := (setSpans s set).map (·.seq)
    let s := freeCalBlock (setDset s set { d with tuning := 0, calBlock := 0xFFFF }) d.calBlock.toNat
    let s := tuneCount { s with tune := { s.tune with
      queue := s.tune.queue.filter fun x => !gone.contains x.seq } } 0x0A gone.length
    .ok (finishSpans s gone)

end Sys2Proof.Machine
end

