-- ==== Sys2Proof/Machine/Checkpoint.lean ====
section
/-! DEFINITION. The checkpoint shard: sections, fragment, writing and restoring (14). -/
namespace Sys2Proof.Machine
open Sys2Proof

/-! ## Sections (R430 to R432; 09 R298 to R300) -/

/-- A moment tensor: one group of 64 on each row (log 25). -/
def momentTensor (fmt cap : Nat) (gs : List Group) : Stored :=
  let x : Stored := { fmt := fmt, grouping := 1, cap := cap, outer := gs.length, red := 64, groups := gs.map fun g => [g] }
  { x with wideCap := x.wides.length }

/-- The groups of a moment tensor that the bytes begin with, and its bytes. -/
def momentRead (fmt : Nat) (b : List Byte) : Stored × Nat :=
  let x := readStored b fmt 1 (leAt b 4 4) 64
  (x, x.bytes.length)

/-- CRC of a set's layout (R431). -/
def layoutCrc (v : Option DVersion) : W32 :=
  crc32c (((v.map (·.matrices)).getD []).flatMap fun m => m.blocks.flatMap fun b =>
    leBytes 2 m.screen.toNat ++ leBytes 2 m.layer.toNat ++ leBytes 2 b.row.toNat ++ leBytes 2 b.col.toNat)

def layoutBlocks (v : Option DVersion) : Nat := ((v.map (·.matrices)).getD []).foldl (fun n m => n + m.blocks.length) 0

def controlSection (s : State) : List Byte :=
  let b := leBytes 16 s.tune.seed.toNat ++ leBytes 8 s.tune.nextSeq.toNat ++ leBytes 8 s.tune.position.toNat
  b ++ List.replicate 32 0

def deltaSection (k : Nat) (d : DeltaSet) : List Byte :=
  leBytes 2 k ++ [0, 0] ++ leBytes 4 (setCurrentNum d).toNat ++ leBytes 8 d.steps.toNat ++ leBytes 4 (layoutBlocks d.current)
    ++ leBytes 4 (layoutCrc d.current).toNat ++ List.replicate 40 0
    ++ (masterOf d).flatMap (fun w => leBytes 2 w.toNat)
    ++ (momentTensor 6 d.momentCap.toNat d.moment1).bytes ++ (momentTensor 8 0 d.moment2).bytes

def calRecordBytes (k : Nat) (c : CalSlot) : List Byte :=
  leBytes 2 k ++ [c.owner, c.fmt.zeroExtend 8] ++ leBytes 2 c.ownerId.toNat ++ leBytes 1 c.window.length ++ (List.replicate 1 0 : List Byte)
    ++ leBytes 2 c.floor.toNat ++ leBytes 2 c.scale.toNat ++ leBytes 2 c.next.toNat ++ (List.replicate 2 0 : List Byte) ++ leBytes 8 c.sats.toNat
    ++ leBytes 4 c.triggers.toNat ++ (List.replicate 4 0 : List Byte)
    ++ (List.range 16).flatMap fun i => leBytes 4 (match c.window[i]? with
      | some x => (f32Word (f32Round x)).toNat
      | none => 0)

def calSection (s : State) : List Byte :=
  (s.cal.slots.filter fun e => e.2.owner != 0).flatMap fun e => calRecordBytes e.1 e.2

/-- The sets with Tuning 1. -/
def tunedSets (s : State) : List (Nat × DeltaSet) := s.tune.sets.filter fun e => e.2.tuning == 1

/-- The sections as they stand (R430). -/
def captureSections (s : State) : List (W16 × W16 × List Byte) :=
  (1, 0, controlSection s) :: (tunedSets s).map (fun e => (2, BitVec.ofNat 16 e.1, deltaSection e.1 e.2))
    ++ [(3, 0, calSection s)]

/-- Sections and their offsets from the start of the slot, each 64-byte aligned. -/
def placeSections : Nat → List (W16 × W16 × List Byte) → List (Nat × W16 × W16 × List Byte)
  | _, [] => []
  | o, x :: t => (o, x) :: placeSections (o + 64 * ceilDiv x.2.2.length 64) t

/-- The bytes from slot offset 4,096 to the end of the last section. -/
def shardBytes : List (W16 × W16 × List Byte) → List Byte
  | [] => []
  | [x] => x.2.2
  | x :: t => pad64 x.2.2 ++ shardBytes t

/-! ## The fragment (R433 to R435) -/

def slotNum (b : Bool) : Nat := if b then 1 else 0

/-- Bytes 0 to 4,087 of the fragment. -/
def fragmentHead (s : State) : List Byte :=
  let c := s.ckpt
  let secs := placeSections 4096 c.sections
  let shard := shardBytes c.sections
  let dir := secs.flatMap fun x =>
    leBytes 2 x.2.1.toNat ++ leBytes 2 x.2.2.1.toNat ++ [0, 0, 0, 0] ++ leBytes 8 x.1 ++ leBytes 8 x.2.2.2.length
      ++ leBytes 4 (crc32c x.2.2.2).toNat ++ [0, 0, 0, 0]
  let pos := ((c.sections.head?).map fun x => leAt x.2.2 24 8).getD 0
  let head := leBytes 2 1 ++ [0, 0] ++ leBytes 4 4096 ++ leBytes 8 c.newSeq.toNat ++ leBytes 6 c.newTick.toNat
    ++ leBytes 1 (slotNum c.target) ++ leBytes 1 secs.length ++ leBytes 48 s.boot.identity.toNat ++ [0xB0, 0]
    ++ leBytes 2 s.boot.tileVersion.toNat ++ leBytes 4 s.boot.lilenVersion.toNat ++ leBytes 8 pos
    ++ leBytes 8 shard.length ++ leBytes 32 (Config.sha256 shard).toNat ++ dir
  head ++ List.replicate (4088 - head.length) 0

/-- The commit word over the rest of the fragment. -/
def commitWord (frag : List Byte) : Nat := (crc32c (frag.take 4088)).toNat * 2 ^ 32 + leAt frag 8 4

/-- A slot is valid, but for the digest of its sections (R435). -/
def fragmentValid (f : List Byte) : Bool :=
  decide (f.length ≥ 4096) && leAt f 4088 8 == commitWord f && leAt f 0 2 == 1 && leAt f 4 4 == 4096 && leAt f 72 1 == 0xB0

def fragSeq (f : List Byte) : Nat := leAt f 8 8

def slotBase (s : State) (b : Bool) : W64 := if b then s.ckpt.baseB else s.ckpt.baseA
def slotSize (s : State) (b : Bool) : W64 := if b then s.ckpt.sizeB else s.ckpt.sizeA
def slotSet (s : State) (b : Bool) : Bool := slotBase s b != 0 && slotSize s b != 0

/-- The valid slots, the higher sequence first. -/
def validSlots (s : State) (fa fb : List Byte) : List (Bool × List Byte) :=
  let a := if slotSet s false ∧ fragmentValid fa then [(false, fa)] else []
  let b := if slotSet s true ∧ fragmentValid fb then [(true, fb)] else []
  match a, b with
  | [x], [y] => if fragSeq x.2 < fragSeq y.2 then [y, x] else [x, y]
  | _, _ => a ++ b

/-! ## Writing (R436 to R440) -/

/-- 0x2800:01 ← CHECKPOINT, with the fragments that the two slots hold (R437 step 1). -/
def checkpointCmd (fragA fragB : List Byte) (s : State) : WriteRes :=
  guardWrite s (s.ckpt.st != .idle) rsBusy fun s =>
    let vs := validSlots s fragA fragB
    let target := match vs with
      | [] => false
      | x :: _ => !x.1
    if ¬ slotSet s target then .ok { s with ckpt := { s.ckpt with last := 0x50 } }
    else
      let seq := ((vs.head?).map fun x => fragSeq x.2 + 1).getD 1
      .ok { s with ckpt := { s.ckpt with
        st := .snapshotPending, target := target, newSeq := BitVec.ofNat 64 seq, applied := s.time.now } }

def execCheckpoint (path : Path) (fragA fragB : List Byte) (s : State) : Host.Outcome State Fault Refusal :=
  mgmtWrite s path 0x2800 1 (checkpointCmd fragA fragB)

/-- The copy set: the pages of every tuned set's training state (R437 step 2). -/
def copySetOf (s : State) : List (BitVec 22) := (tunedSets s).flatMap fun e => trainingPages e.1 e.2

/-- The snapshot cycle, at the first T_n after the write was applied, and step 3 (R437). -/
def snapshotTick (s : State) : State :=
  let c := s.ckpt
  if c.st = .snapshotPending ∧ c.applied < s.time.now then
    let s := { s with
      ckpt := { c with
        st := .writing, step := .zeroCommit, newTick := s.tick.cur.num, sections := captureSections s
        tuned := (tunedSets s).length }
      stream := { s.stream with copySet := copySetOf s, staged := [], freePending := [] } }
    sendBytes s (weightPort s) .checkpoint (slotBase s c.target + 4088) (List.replicate 8 0)
  else s

/-- Ends a checkpoint or restore with a result; what it read is dropped. -/
def closeCheckpoint (s : State) (code : Byte) : State :=
  dropJob (dropJob (endCheckpoint s code) (.shard false)) (.shard true)

/-- The WRITEs of a step are complete: the next step (R437, R440). -/
def checkpointNext (s : State) : State :=
  let c := s.ckpt
  let base := slotBase s c.target
  let port := weightPort s
  match c.step with
  | .zeroCommit =>
    if c.tuned > 64 then closeCheckpoint s 0x57
    else if 4096 + (shardBytes c.sections).length > (slotSize s c.target).toNat then closeCheckpoint s 0x51
    else
      sendBytes { s with ckpt := { c with step := .sections } } port .checkpoint (base + 4096) (shardBytes c.sections)
  | .sections =>
    let f := fragmentHead s
    sendBytes { s with
        ckpt := { c with step := .fragment, fragment := f }
        stream := { s.stream with copySet := [], freePending := [] } } port .checkpoint base f
  | .fragment =>
    sendBytes { s with ckpt := { c with step := .commit } } port .checkpoint (base + 4088)
      (leBytes 8 (commitWord c.fragment))
  | .commit =>
    closeCheckpoint { s with ckpt := { c with
      snapTick := c.newTick.zeroExtend 64, sequence := c.newSeq, lastSlot := BitVec.ofNat 8 (slotNum c.target) } } 1

def execCheckpointWriteDone (s : State) : Host.Outcome State Fault Refusal :=
  if coreRuns s ∧ s.ckpt.st = .writing ∧ ¬ writesLeft s .checkpoint then done (checkpointNext s) else .next s

/-! ## Restoring (R442 to R444) -/

def shardJob (s : State) (b : Bool) (off len : Nat) : State :=
  startJob s (.shard b) (weightPort s) (slotBase s b + BitVec.ofNat 64 off) len

/-- 0x2800:01 ← RESTORE: the fragments are read. -/
def restoreCmd (s : State) : WriteRes :=
  guardWrite s (s.ckpt.st != .idle) rsBusy fun s =>
    guardWrite s (s.mgmt.nmt != .preOperational) rsPreop fun s =>
      guardWrite s (s.tune.enable != 0) 0 fun s =>
        let s := { s with ckpt := { s.ckpt with st := .restoring, chosen := none, cands := [] } }
        let s := if slotSet s false then shardJob s false 0 4096 else s
        .ok (if slotSet s true then shardJob s true 0 4096 else s)

def execRestore (path : Path) (s : State) : Host.Outcome State Fault Refusal := mgmtWrite s path 0x2800 1 restoreCmd

/-- The newest candidate's sections are read; without one the restore ends. -/
def readCandidate (s : State) (cands : List (Bool × List Byte)) : State :=
  match cands with
  | [] => closeCheckpoint s 0x54
  | (b, f) :: _ => shardJob { s with ckpt := { s.ckpt with cands := cands, chosen := some b, fragment := f } } b 4096 (leAt f 88 8)

/-- A DELTA_SET section is installed, or skipped (R444). -/
def installSet (s : State) (b : List Byte) : State × Bool :=
  let set := BitVec.ofNat 10 (leAt b 0 2)
  let d := dsetOf s set
  if d.current.isSome ∧ (setCurrentNum d).toNat = leAt b 4 4 ∧ (layoutCrc d.current).toNat = leAt b 20 4 then
    let n := 256 * leAt b 16 4
    let m1 := b.drop (64 + 2 * n)
    let x := momentRead 6 m1
    let y := momentRead 8 (m1.drop x.2)
    (setDset s set { d with
      master := (List.range n).map fun i => BitVec.ofNat 16 (leAt b (64 + 2 * i) 2)
      moment1 := x.1.groups.flatten, momentCap := BitVec.ofNat 4 x.1.cap, moment2 := y.1.groups.flatten
      steps := BitVec.ofNat 64 (leAt b 8 8) }, true)
  else (s, false)

/-- The values of a CALIBRATION record over a slot (R444). -/
def installSlot (c : CalSlot) (b : List Byte) : CalSlot :=
  { c with
    scale := BitVec.ofNat 16 (leAt b 10 2), next := BitVec.ofNat 16 (leAt b 12 2), sats := BitVec.ofNat 64 (leAt b 16 8)
    triggers := BitVec.ofNat 32 (leAt b 24 4)
    window := (List.range (min 16 (leAt b 6 1))).map fun i => match f32Read (BitVec.ofNat 32 (leAt b (32 + 4 * i) 4)) with
      | .fin x => x
      | _ => 0 }

def installCal (s : State) (b : List Byte) : State × Bool :=
  let k := leAt b 0 2
  let id := leAt b 4 2
  if leAt b 2 1 = 1 then
    let c := calOf s k
    if (planOf s (BitVec.ofNat 8 id)).st = .loaded ∧ c.owner = 1 ∧ c.fmt.toNat = leAt b 3 1 % 16 then
      (setCal s k (installSlot c b), true)
    else (s, false)
  else
    let block := (dsetOf s (BitVec.ofNat 10 id)).calBlock
    if leAt b 2 1 = 2 ∧ block ≠ 0xFFFF then
      let j := 49152 + 64 * block.toNat + (k - 49152) % 64
      (setCal s j (installSlot (calOf s j) b), true)
    else (s, false)

def countSkips (f : State → List Byte → State × Bool) (s : State × Nat) (b : List Byte) : State × Nat :=
  let x := f s.1 b
  (x.1, if x.2 then s.2 else s.2 + 1)

/-- One section of the shard. -/
def installSection (shard : List Byte) (s : State × Nat) (e : List Byte) : State × Nat :=
  let b := (shard.drop (leAt e 8 8 - 4096)).take (leAt e 16 8)
  match leAt e 0 2 with
  | 1 =>
    ({ s.1 with tune := { s.1.tune with
        seed := BitVec.ofNat 128 (leNat (b.take 16)), nextSeq := BitVec.ofNat 64 (leAt b 16 8)
        position := BitVec.ofNat 64 (leAt b 24 8) } }, s.2)
  | 2 => countSkips installSet s b
  | 3 => ((List.range (b.length / 96)).map fun i => (b.drop (96 * i)).take 96).foldl (countSkips installCal) s
  | _ => s

/-- The restore installs the chosen shard (R443, R444). -/
def installShard (s : State) (slot : Bool) (frag shard : List Byte) : State :=
  let tile := leAt frag 74 2
  let lilen := leAt frag 76 4
  let s := if tile ≠ s.boot.tileVersion.toNat ∨ lilen ≠ s.boot.lilenVersion.toNat then
      raise s .restoreVersions {} tile lilen else s
  let dir := (List.range (leAt frag 23 1)).map fun i => (frag.drop (128 + 32 * i)).take 32
  let x := dir.foldl (installSection shard) (s, 0)
  let s := { x.1 with ckpt := { x.1.ckpt with
    snapTick := BitVec.ofNat 64 (leAt frag 16 6), sequence := BitVec.ofNat 64 (fragSeq frag)
    lastSlot := BitVec.ofNat 8 (slotNum slot), skipped := BitVec.ofNat 16 x.2 } }
  closeCheckpoint s (if x.2 = 0 then 1 else 0x58)

/-- The sections of the candidate have been read: digest, identity, install (R442 to R444). -/
def judgeShard (s : State) (slot : Bool) (j : Job) : State :=
  let f := s.ckpt.fragment
  let shard := j.bytes
  if (Config.sha256 shard).toNat ≠ leAt f 96 32 then
    readCandidate (dropJob s (.shard slot)) s.ckpt.cands.tail
  else if leAt f 24 48 ≠ s.boot.identity.toNat then
    raise { s with ckpt := { s.ckpt with st := .awaitingAck, foreign := BitVec.ofNat 384 (leAt f 24 48) } }
      .foreignShard {} (fragSeq f) (slotNum slot)
  else installShard s slot f shard

/-- The reads of a restore have come back. -/
def execRestoreReadDone (s : State) : Host.Outcome State Fault Refusal :=
  let js := s.jobs.filter fun j => match j.key with
    | .shard _ => true
    | _ => false
  if ¬ (coreRuns s ∧ s.ckpt.st = .restoring ∧ js.all (·.over)) then .next s
  else if js.any (·.failed.isSome) then done (closeCheckpoint s 0x55)
  else match s.ckpt.chosen with
    | none =>
      let frag (b : Bool) : List Byte := ((jobOf s (.shard b)).map Job.bytes).getD []
      let vs := validSlots s (frag false) (frag true)
      done (readCandidate (dropJob (dropJob s (.shard false)) (.shard true)) vs)
    | some b => match jobOf s (.shard b) with
      | some j => done (judgeShard s b j)
      | none => .next s

/-- 0x2803:01 (R443). -/
def foreignAck (value : W16) (s : State) : WriteRes :=
  guardWrite s (s.ckpt.st != .awaitingAck) 0 fun s =>
    if value = 0x5A3C then
      match s.ckpt.chosen with
      | some b => .ok (installShard s b s.ckpt.fragment (((jobOf s (.shard b)).map Job.bytes).getD []))
      | none => .ok (closeCheckpoint s 0x54)
    else .ok (closeCheckpoint s 0x56)

def execForeignAcknowledgement (path : Path) (value : W16) (s : State) : Host.Outcome State Fault Refusal :=
  mgmtWrite s path 0x2803 1 (foreignAck value)

end Sys2Proof.Machine
end

