-- ==== Sys2Proof/Machine/Functions.lean ====
section
/-! DEFINITION. START and STOP of screening functions (04 R123 to R130; 15 R453, R454). -/
namespace Sys2Proof.Machine
open Sys2Proof

/-- A version that Version Pins name is CURRENT, READY or PREVIOUS in the plan's screen (13 R427, R558). -/
def pinResident (s : State) (screen : W16) (v : W32) : Bool :=
  let x := screenOf s (screen.truncate 10)
  v == 0 || (screen != 0xFFFF && (v == x.current || ((x.other == .ready || x.other == .previous) && v == x.otherV)))

/-- The first failing check of 04 R127 by its code; 1 when all pass. -/
def startCheck (s : State) (f : Fin 64) : Byte :=
  let x := fnOf s f
  let c := x.set
  let p := planOf s c.plan
  let out (lo hi v : Nat) : Bool := decide (v < lo) || decide (hi < v)
  if x.st = .starting ∨ x.st = .running ∨ x.st = .stopping then 0x10
  else if s.boot.verState = 1 then 0x11
  else if p.st ≠ .loaded then 0x12
  else if p.format.toNat < s.boot.planMin.toNat ∨ s.boot.planMax.toNat < p.format.toNat then 0x13
  else if (List.range 48).any fun e => p.assigns e && !(engOf s e).pool then 0x14
  else if 2 < c.mode.toNat then 0x15
  else if out 1 16 c.lag.toNat then 0x16
  else if 15 < c.dp.toNat ∨ 15 < c.dw.toNat then 0x17
  else if wordBad c.defaultAction then 0x18
  else if 1 < c.faultPref.toNat then 0x19
  else if c.parkLimit = 0 then 0x1A
  else if out 1 64 c.share.toNat ∨ out 1 64 c.margin.toNat ∨ 4096 < c.latencyLimit.toNat then 0x1B
  else if 1 < c.pinMode.toNat ∨ c.pinLimit = 0 ∨ ¬ pinResident s p.promptId c.pinPrompt
      ∨ ¬ pinResident s p.watcherId c.pinWatcher then 0x1C
  else 1

/-- A START is applied (04 R126, R128): the code, and the state after it. -/
def applyStart (s : State) (f : Fin 64) : Byte × State :=
  let c := startCheck s f
  if c = 1 then (1, modFn s f fun v => { v with st := .starting, lastStart := 1 })
  else if c = 0x10 then (c, s)
  else (c, modFn s f fun v => { v with st := .idle, lastStart := c })

/-- START after the node has entered Operational again (15 R454). -/
def restartFn (s : State) (f : Fin 64) : State :=
  let x := applyStart (modFn s f fun v => { v with mark := false }) f
  if x.1 = 1 then x.2 else raise x.2 .startRefused {} f.val x.1.toNat

/-- A tile of the function is on an engine. -/
def fnTiles (s : State) (f : Fin 64) : Bool :=
  s.eng.engines.any fun e => e.2.running.any fun r => r.fn == some f

/-- A STOPPING function whose last tile has ended is STOPPED (04 R126); a marked one is started at once in Operational
(15 R454). -/
def checkStopped (s : State) (f : Fin 64) : State :=
  if (fnOf s f).st = .stopping ∧ ¬ fnTiles s f then
    let s := modFn s f fun v => { v with st := .stopped }
    if s.mgmt.nmt = .operational ∧ (fnOf s f).mark then restartFn s f else s
  else s

/-- A STOP is applied (04 R126). -/
def applyStop (s : State) (f : Fin 64) : State :=
  match (fnOf s f).st with
  | .starting => modFn s f fun v => { v with st := .stopped }
  | .running => checkStopped (modFn s f fun v => { v with st := .stopping }) f
  | _ => s

/-- F+0x00:01 ← START (04 R124, R128; 15 R454). -/
def functionStart (f : Fin 64) (s : State) : WriteRes :=
  if s.mgmt.nmt ≠ .operational then .abort abState rsNotOp s
  else
    let x := applyStart s f
    if x.1 = 1 then .ok x.2 else .abort abState (x.1.zeroExtend 16) x.2

/-- F+0x00:01 ← STOP (04 R124; 15 R454). -/
def functionStop (f : Fin 64) (s : State) : WriteRes :=
  if s.mgmt.nmt ≠ .operational then .ok (modFn s f fun v => { v with mark := false }) else .ok (applyStop s f)

/-- Index F of a function slot (16 R486). -/
def fnIndex (f : Fin 64) : W16 := 0x4000 + 0x20 * BitVec.ofNat 16 f.val

def execFunctionStart (path : Path) (f : Fin 64) (s : State) : Host.Outcome State Fault Refusal :=
  mgmtWrite s path (fnIndex f) 1 (functionStart f)

def execFunctionStop (path : Path) (f : Fin 64) (s : State) : Host.Outcome State Fault Refusal :=
  mgmtWrite s path (fnIndex f) 1 (functionStop f)

end Sys2Proof.Machine
end

