-- ==== Sys2Proof/Machine/Nmt.lean ====
section
/-! DEFINITION. NMT states, the checks of a Start, the cascade ring probe, heartbeat, EMCY and TPDO frames
(15 R445 to R456, R469 to R473; 07 R242; 19 R548, R550). -/
namespace Sys2Proof.Machine
open Sys2Proof

/-! ## The checks of a Start (15 R452) -/

/-- Step Tick Configuration (02 R39). -/
def tickConfigGood (t : TickState) : Bool :=
  decide (t.intakeClose.toNat < t.maskDeadline.toNat) && decide (t.maskDeadline.toNat < t.verdictDeadline.toNat)
    && decide (t.verdictDeadline.toNat ≤ t.minPeriod.toNat * 2000) && decide (t.minPeriod.toNat ≤ t.maxPeriod.toNat)

def shareSum (s : State) (lo n : Nat) : Nat :=
  (List.range n).foldl (fun a k => a + (engOf s (lo + k)).share.toNat) 0

/-- Latency shares (08 R280). -/
def sharesGood (s : State) : Bool :=
  decide (shareSum s 32 16 ≤ 512) && decide (shareSum s 48 8 ≤ 256) && decide (0 < shareSum s 48 8)

/-- Two regions have no page in common. -/
def apart (a b : Region) : Bool :=
  decide (a.base.toNat + a.pages.toNat ≤ b.base.toNat) || decide (b.base.toNat + b.pages.toNat ≤ a.base.toNat)
    || a.pages == 0 || b.pages == 0

def allApart : List Region → Bool
  | [] => true
  | r :: t => t.all (apart r) && allApart t

/-- HBM regions (11 R375). -/
def regionsGood (s : State) : Bool :=
  s.stream.regions.all (fun r => decide (r.base.toNat + r.pages.toNat ≤ 524288)) && allApart s.stream.regions
    && decide (64 ≤ regionHalf s 7)

/-- The first check that fails: its detail code and arg_a. -/
def startFails (s : State) : Option (ErrCode × Nat) :=
  if s.boot.verState = 1 ∧ s.boot.pair.toNat / 2 ^ 14 = 1 then some (.versions, s.boot.pair.toNat)
  else if ¬ tickConfigGood s.tick then some (.tickConfig, 0)
  else if ¬ sharesGood s then some (.latencyShare, 0)
  else if ¬ regionsGood s then some (.hbmRegions, 0)
  else if s.mortise.size.toNat ≤ s.mortise.position.toNat then some (.cascadeRing, 0)
  else none

/-! ## Changes of state (15 R451, R453 to R455) -/

/-- The restart of marked functions, in slot order (15 R454). -/
def restartMarked (s : State) : State :=
  ((s.fns.filter fun e => e.2.mark && e.2.st == .stopped).map (·.1)).foldl (fun s k => restartFn s (Fin.ofNat 64 k)) s

/-- The node enters Operational: floors are raised at the first entry (19 R550), a calibration period begins
(10 R328), marked functions start. -/
def enterOperational (s : State) : State :=
  let s := { s with
    mgmt := { s.mgmt with nmt := .operational }
    tick := { s.tick with opEntry := s.time.now, opTick := false, afterEntry := true, absentCount := 0 } }
  let s := if ¬ s.boot.everOperational ∧ s.boot.verState = 0 then raiseFloors s else s
  restartMarked (openPeriod { s with boot := { s.boot with everOperational := true } })

/-- A failed Start: the node is Pre-operational, with a CONFIG-class EMCY (15 R451). -/
def startFailed (s : State) (code : ErrCode) (place : Place) (a : Nat) : State :=
  let was := s.mgmt.nmt
  let s := { s with mgmt := { s.mgmt with nmt := .preOperational } }
  raise (if was = .preOperational then s else rewriteShadow s) code place a

/-- A pending ring probe is given up by another command. -/
def dropProbe (s : State) : State :=
  if s.mortise.probe.isSome then { s with mortise := { s.mortise with probe := none, ring := .unused } } else s

/-- The ring probe of this stack, as it is sent. -/
def ownProbe (s : State) : Probe := { origin := s.mortise.position.truncate 2 }

/-- Start (0x01). With Cascade Size 2 or more the ring probe is sent, and the node waits for it (07 R242). -/
def nmtStart (s : State) : State :=
  if s.mgmt.nmt = .initialisation ∨ s.mgmt.nmt = .operational ∨ s.mortise.probe.isSome then s
  else match startFails s with
    | some (code, a) => startFailed s code {} a
    | none =>
      if cascaded s then { s with mortise := { s.mortise with
        probe := some s.time.now, ring := .probing, outFrames := .probe (ownProbe s) :: s.mortise.outFrames } }
      else enterOperational s

/-- The node leaves Operational (15 R453; 10 R328): functions that start or run are stopped and marked. -/
def leaveOperational (s : State) (next : Nmt) : State :=
  let was := s.mgmt.nmt
  let s := { s with mgmt := { s.mgmt with nmt := next } }
  if was ≠ .operational then s
  else
    let s := { s with cal := { s.cal with periodOpen := false } }
    ((s.fns.filter fun e => e.2.st == .starting || e.2.st == .running).map (·.1)).foldl (fun s k =>
      let f := Fin.ofNat 64 k
      applyStop (modFn s f fun v => { v with mark := true }) f) s

/-- The EMCY queue is discarded, each EMCY counted (15 R469). -/
def discardEmcy (s : State) : State :=
  { s with mgmt := { s.mgmt with
      emcyLost := s.mgmt.emcyLost + BitVec.ofNat 64 s.mgmt.emcyQueue.length, emcyQueue := [] } }

/-- Stop (0x02). -/
def nmtStop (s : State) : State :=
  if s.mgmt.nmt = .initialisation ∨ s.mgmt.nmt = .stopped then s
  else discardEmcy (leaveOperational (dropProbe s) .stopped)

/-- Enter Pre-operational (0x80). -/
def nmtPreop (s : State) : State :=
  if s.mgmt.nmt = .initialisation then s
  else if s.mgmt.nmt = .preOperational then dropProbe s
  else rewriteShadow (leaveOperational (dropProbe s) .preOperational)

/-- Reset Communication (0x82) and Reset Node (0x81): 0x1000 to 0x1FFF at their defaults, the CAN settings applied,
an open CAN session dropped (15 R455). -/
def nmtReset (s : State) : State :=
  if s.mgmt.nmt = .initialisation then s
  else
    let s := rewriteShadow (discardEmcy (leaveOperational (dropProbe s) .preOperational))
    let m := s.mgmt
    sendBootUp { s with mgmt := { m with
      cobEmcy := none, inhibitEmcy := 0, heartbeatMs := 100, errorList := [], tpdos := []
      activeNode := m.nodeId, nominalNow := m.nominal, dataRateNow := m.dataRate
      sessCan := none, lastEmcy := none, lastHeartbeat := s.time.gtAccepted } }

/-! ## NMT commands (15 R451) -/

/-- An NMT frame reaches the node: addressed to it or to all, and its controller is not in bus monitoring mode
(15 R448). -/
def nmtHeard (s : State) (node : BitVec 7) : Bool :=
  coreRuns s && s.mgmt.activeNode != 0 && !s.pwr.stopped.contains .service
    && (node == 0 || node.zeroExtend 8 == s.mgmt.activeNode)

def nmtCommand (via : NmtVia) (f : State → State) (s : State) : Host.Outcome State Fault Refusal :=
  match via with
  | .frame node => if nmtHeard s node then done (f s) else .next s
  | .object p => mgmtWrite s p 0x2001 1 fun s => .ok (f s)

def execStartRemoteNode (via : NmtVia) (s : State) : Host.Outcome State Fault Refusal := nmtCommand via nmtStart s
def execStopRemoteNode (via : NmtVia) (s : State) : Host.Outcome State Fault Refusal := nmtCommand via nmtStop s
def execEnterPreOperational (via : NmtVia) (s : State) : Host.Outcome State Fault Refusal := nmtCommand via nmtPreop s
def execResetNode (via : NmtVia) (s : State) : Host.Outcome State Fault Refusal := nmtCommand via nmtReset s
def execResetCommunication (via : NmtVia) (s : State) : Host.Outcome State Fault Refusal := nmtCommand via nmtReset s

/-! ## The cascade ring probe (07 R242; 15 R452) -/

/-- The probe has met Size - 1 other stacks, each with this Size, at the positions that follow in ring order. -/
def probeGood (s : State) (hops : List (Nat × Nat)) : Bool :=
  let n := s.mortise.size.toNat
  let p := s.mortise.position.toNat
  hops == (List.range (n - 1)).map fun i => (n, (p + 1 + i) % n)

def probeFailed (s : State) : State :=
  startFailed { s with mortise := { s.mortise with probe := none, ring := .failed } } .cascadeRing (hostPlace 10) 0

/-- A probe of another stack goes on, with this stack's Size and Position. -/
def forwardProbe (s : State) (p : Probe) : State :=
  let own := (s.mortise.size.toNat, s.mortise.position.toNat)
  let p := { p with hops := p.hops ++ [own] }
  { s with mortise := { s.mortise with outFrames := .probe p :: s.mortise.outFrames } }

/-- A ring probe arrives: this stack's own, with the size and position of each stack it has passed, or another stack's,
which is forwarded in every NMT state except Initialisation. -/
def execCascadeProbeReturn (probe : Probe) (s : State) : Host.Outcome State Fault Refusal :=
  if probe.origin ≠ (ownProbe s).origin then
    if coreRuns s ∧ s.mgmt.nmt ≠ .initialisation then .next (forwardProbe s probe) else .next s
  else match s.mortise.probe with
  | none => .next s
  | some t =>
    if ¬ coreRuns s ∨ t + 2000000 ≤ s.time.now then .next s
    else if probeGood s probe.hops then
      done (enterOperational { s with mortise := { s.mortise with probe := none, ring := .up } })
    else done (probeFailed s)

/-- The probe has not come back 2,000,000 ac after it was sent. -/
def execCascadeProbeTimeout (s : State) : Host.Outcome State Fault Refusal :=
  match s.mortise.probe with
  | none => .next s
  | some t => if coreRuns s ∧ t + 2000000 ≤ s.time.now then done (probeFailed s) else .next s

/-! ## Frames that the node sends (15 R446, R469 to R471) -/

/-- The CAN FD controller may send: Active Node-ID is not 0 and its clock runs (15 R448). -/
def canSends (s : State) : Bool := coreRuns s && s.mgmt.activeNode != 0 && !s.pwr.stopped.contains .service

/-- `us` µs of accepted global time have passed since `t`. -/
def elapsed (s : State) (t : W64) (us : Nat) : Bool := decide (t.toNat + us ≤ s.time.gtAccepted.toNat)

/-- Heartbeat code (15 R450). -/
def nmtByte : Nmt → Byte
  | .initialisation => 0
  | .preOperational => 0x7F
  | .operational => 5
  | .stopped => 4

def sendFrame (s : State) (f : CanFrame) : State := { s with mgmt := { s.mgmt with canOut := f :: s.mgmt.canOut } }

/-- Producer heartbeat (15 R470). -/
def execHeartbeat (s : State) : Host.Outcome State Fault Refusal :=
  let m := s.mgmt
  if canSends s ∧ m.nmt ≠ .initialisation ∧ m.heartbeatMs ≠ 0 ∧ elapsed s m.lastHeartbeat (1000 * m.heartbeatMs.toNat) then
    .next (sendFrame { s with mgmt := { m with lastHeartbeat := s.time.gtAccepted } }
      (.heartbeat m.activeNode (nmtByte m.nmt)))
  else .next s

/-- COB-ID EMCY 0x1014 (16 R477). -/
def cobEmcyOf (m : MgmtState) : W32 := m.cobEmcy.getD (0x80 + m.activeNode.zeroExtend 32)

/-- The oldest queued EMCY is sent once the inhibit time has passed (15 R469). -/
def execEmcyTransmit (s : State) : Host.Outcome State Fault Refusal :=
  let m := s.mgmt
  match m.emcyQueue with
  | [] => .next s
  | e :: rest =>
    if canSends s ∧ (m.nmt = .preOperational ∨ m.nmt = .operational) ∧ ¬ (cobEmcyOf m).getLsbD 31
        ∧ m.lastEmcy.all (fun t => elapsed s t (100 * m.inhibitEmcy.toNat)) then
      .next (sendFrame { s with mgmt := { m with emcyQueue := rest, lastEmcy := some s.time.gtAccepted } }
        (.emcy (cobEmcyOf m) e))
    else .next s

def tpdoOf (m : MgmtState) (n : Nat) : Tpdo := Tbl.get {} m.tpdos n
def setTpdo (s : State) (n : Nat) (v : Tpdo) : State :=
  { s with mgmt := { s.mgmt with tpdos := Tbl.put {} s.mgmt.tpdos n v } }

/-- COB-ID of TPDO n + 1 (15 R446). -/
def cobTpdoOf (m : MgmtState) (n : Nat) : W32 :=
  (tpdoOf m n).cobId.getD
    (if n < 4 then BitVec.ofNat 32 (0x180 + 0x100 * n) + m.activeNode.zeroExtend 32 else 0x80000000)

/-- Bytes of a telemetry object (15 R473). -/
def telemetrySize (k : Nat) : Nat :=
  if k = 0 ∨ k = 7 ∨ k = 8 then 8 else if k = 2 then 2 else if k = 9 then 1 else 4

/-- The value of a mapping entry as it stood at the latest T_n registered in Operational. -/
def mappedBytes (s : State) (e : W32) : List Byte :=
  let k := e.toNat / 2 ^ 16 - 0x6000
  leBytes (telemetrySize k) (Tbl.get 0 s.mgmt.telemetry k).toNat

/-- The first `count` mapping entries of a TPDO. -/
def tpdoEntries (t : Tpdo) (count : Nat) : List W32 := (List.range count).map fun k => Tbl.get 0 t.entries (k + 1)

/-- The event timer of a TPDO expires (15 R471). -/
def execTpdoEventTimer (n : Fin 8) (s : State) : Host.Outcome State Fault Refusal :=
  let t := tpdoOf s.mgmt n.val
  let since := t.lastSent.getD 0
  if canSends s ∧ s.mgmt.nmt = .operational ∧ ¬ (cobTpdoOf s.mgmt n.val).getLsbD 31 ∧ t.timer ≠ 0
      ∧ elapsed s since (1000 * t.timer.toNat) ∧ elapsed s since (100 * t.inhibit.toNat) then
    let s := setTpdo s n.val { t with lastSent := some s.time.gtAccepted }
    .next (sendFrame s (.tpdo (cobTpdoOf s.mgmt n.val) ((tpdoEntries t t.count.toNat).flatMap (mappedBytes s))))
  else .next s

end Sys2Proof.Machine
end

