-- ==== Sys2Proof/Machine/Tiles.lean ====
section
/-! DEFINITION. Tiles on engines: their operands, their start, their arithmetic and their completion (08 R253 to R272, R282
to R284; 09 R302 to R320; 13 R404 to R406, R411). -/
namespace Sys2Proof.Machine
open Sys2Proof

/-! ## What a tile reads (R259, R261 to R264, R270; 12 R381) -/

/-- The image of a version of a backbone screen that HBM holds (13 R420). -/
def screenImage (s : State) (sid : W16) (v : W32) : List Byte :=
  let x := screenOf s (sid.truncate 10)
  if v = 0 then [] else if x.current = v then x.image else if x.otherV = v then x.otherImage else []

/-- The B operand as stored: the tensor at the tile's weight offset of the version that the tile reads, or a tensor of the
block's own. -/
def tileWeights (s : State) (rt : RunTile) (l : TileLoad) : List Byte :=
  l.b.getD ((screenImage s rt.tile.screen rt.version).drop rt.tile.weightOffset.toNat)

/-- A version of a delta set that is live, or held after a DELETE (13 R415, R418). -/
def deltaByNum (d : DeltaSet) (v : W32) : Option DVersion :=
  (d.current.toList ++ d.previous.toList ++ d.stagingV.toList ++ d.held).find? fun x => x.version == v

/-- The entry that a tile takes: of its screen and layer, the one of largest weight_offset not above its own
(13 R416). -/
def tileEntry (v : DVersion) (t : Tile) : Option DMatrix :=
  (v.matrices.filter fun m => m.screen == t.screen && m.layer == t.layer
    && decide (m.weightOffset.toNat ≤ t.weightOffset.toNat)).foldl (fun best m => match best with
      | none => some m
      | some x => if x.weightOffset.toNat < m.weightOffset.toNat then some m else some x) none

/-- The policy's deltas reach the tile's screen and layer, and the shim may merge them (R263; 12 R381). -/
def tileDeltas (s : State) (t : Tile) (u : DeltaUse) : Option DMatrix :=
  if t.deltaCapable ∧ u.dset ≠ 0xFFFF ∧ (u.screens.extractLsb' 16 16 = t.screen ∨ u.screens.extractLsb' 0 16 = t.screen) then
    (deltaByNum (dsetOf s (u.dset.truncate 10)) u.version).bind fun v => tileEntry v t
  else none

/-- The delta of an element of a matrix: code and row scale. -/
def matrixDelta (m : DMatrix) (r c : Nat) : Option (BitVec 4 × W16) :=
  (m.blocks.find? fun b => b.row.toNat == r / 16 && b.col.toNat == c / 16).map fun b =>
    (b.codes.getD (r % 16 * 16 + c % 16) 0, b.scales.getD (r % 16) 0)

/-- Lengths of the stored B operand, outer and reduction: a transposed load reads it along the other axis. -/
def storedDims (t : Tile) : Nat × Nat := if t.kind = 1 then (t.k.toNat, t.n.toNat) else (t.n.toNat, t.k.toNat)

/-- Rows of the matrix before the tile's tensor: those of the tensors of its layer that the plan places between (log 93). -/
def rowsBefore (p : Plan) (m : DMatrix) (t : Tile) : Nat :=
  let ts := p.tiles.filter fun x => x.screen == t.screen && x.layer == t.layer
    && decide (m.weightOffset.toNat ≤ x.weightOffset.toNat ∧ x.weightOffset.toNat < t.weightOffset.toNat)
  (ts.foldl (fun (l : Tbl Nat) x => Tbl.ins l x.weightOffset.toNat (storedDims x).1) []).foldl (fun n e => n + e.2) 0

/-- The grouping of an operand: of 32 for the formats that have no UE8M8 scales, the whole reduction where the plan has the
tile on the integer path (09 R293, R295). -/
def operandGrouping (t : Tile) (fmt : Nat) : Nat :=
  if fmt = 0 ∨ 9 ≤ fmt then 0 else if t.intPath then 4 else t.grouping.toNat

/-- The scale stream as it meets the data stream: group blocks of 32 groups in the order of their bursts (09 R316, R317). -/
def meetBursts (order : List Nat) (x : Stored) : Stored :=
  let from_ (g : Nat) : List Group := x.groups.getD (order.getD (g / 32) (g / 32) * 32 + g % 32) []
  let one (g : Nat) (own : List Group) : List Group := (List.range own.length).map fun k =>
    let o := own.getD k {}
    let s := (from_ g).getD k o
    { o with scale := s.scale, zp := s.zp, cullets := s.cullets, side := s.side }
  { x with groups := (List.range x.groups.length).map fun g => one g (x.groups.getD g []) }

/-- The tag of a burst: the low 8 bits of tile_id, then those of the group-block counter (09 R316). -/
def burstTag (t : Tile) (n : Nat) : W16 := BitVec.ofNat 16 (t.id.toNat % 256 * 256 + n % 256)

/-- The first pair of bursts whose tags differ. -/
def skewOf (t : Tile) (l : TileLoad) : Option (W16 × W16) :=
  match l.bursts with
  | none => none
  | some order =>
    ((List.range order.length).map fun i => (burstTag t (order.getD i i), burstTag t i)).find? fun p => p.1 != p.2

/-- The B operand, read. -/
def readB (s : State) (rt : RunTile) (l : TileLoad) : Stored :=
  let t := rt.tile
  let d := storedDims t
  let x := readStored (tileWeights s rt l) t.fmtB.toNat (operandGrouping t t.fmtB.toNat) d.1 d.2
  match l.bursts with
  | some order => meetBursts order x
  | none => x

def readA (t : Tile) (l : TileLoad) : Stored :=
  readStored l.a t.fmtA.toNat (operandGrouping t t.fmtA.toNat) t.m.toNat t.k.toNat

def turned {α : Type} (d : α) (n : Nat) (rows : List (List α)) : List (List α) :=
  (List.range n).map fun j => rows.map fun r => r.getD j d

/-! ## Arithmetic -/

/-- What a tile leaves: the accumulators, the stored tensor, its events and statistics. -/
structure TileRes where
  acc : List (List W32) := []
  out : Stored := { fmt := 15, grouping := 0, outer := 0, red := 0 }
  num : Num := {}
  stat : Stat := {}
deriving DecidableEq, Repr, Inhabited

/-- A stored tensor of what has been written. -/
def writtenTensor (o : TileOut) (cap m n : Nat) (w : Written) : Stored :=
  { fmt := o.fmt.toNat, grouping := o.grouping.toNat, cap := cap, outer := m, red := n, wideCap := o.wideCap
    groups := w.groups }

/-- One scale group written in its format (09 R294, R311, R318). -/
def writeGroup (o : TileOut) (scale : Scale) (thr : Option Rat) (cap : Nat) (g : List (List F32)) (w : Written) : Written :=
  let f := o.fmt.toNat
  if f = 0 ∨ 12 ≤ f then writeWideFmt f g.flatten w
  else if 9 ≤ f then writeMx f g.flatten w
  else writeNarrow f scale o.zp thr cap o.wideCap g w

/-- Rows of values written in an output format. Activations for the integer path, grouped by the whole reduction, are
written with escape disabled (09 R310). -/
def writeRows (s : State) (o : TileOut) (scale : Scale) (n : Nat) (rows : List (List F32)) (num : Num) : TileRes :=
  let thr := if o.grouping = 4 then none else escapeLimit s o.fmt.toNat
  let cap := if thr.isSome then s.eng.culletCap.toNat else 0
  let w := (cutGroups o.grouping.toNat rows).foldl (fun w g => writeGroup o scale thr cap g w) { num := num }
  { out := writtenTensor o cap rows.length n w, num := w.num, stat := w.stat }

/-- round_even(n / d) for a positive d. -/
def roundDiv (n : Int) (d : Nat) : Int := roundEven ((n : Rat) / ((d : Nat) : Rat))

/-- One element of an integer-path output: code, saturation, and the value that the marver sees (R308; 10 R325). -/
def intElem (fmt : Nat) (sOut : Rat) (zp : Byte) (acc : Int) (p : Nat × Nat) : Int × Bool × Rat :=
  let q := roundDiv (acc * p.1) (2 ^ p.2)
  let l := (fmtMax fmt).floor
  let c := q + zeroPoint fmt zp
  (max (-l) (min l c), decide (c < -l ∨ c > l), ((q : Int) : Rat) * sOut)

/-- One scale group of an integer-path output in INT8 or INT4 (R308, R314). -/
def writeIntGroup (fmt : Nat) (scale : Scale) (zp : Byte) (g : List (List (Int × Bool × Rat))) (w : Written) : Written :=
  let limit := scaleVal scale * fmtMax fmt
  let stat := g.flatten.foldl (fun st e =>
    let st := st.add e.2.2 limit
    if e.2.1 then st.satur else st) w.stat
  let num := g.flatten.foldl (fun n e => if e.2.1 then n.count 1 else n) w.num
  let zero := g.flatten.all fun e => e.2.2 == 0
  ({ w with num := num, stat := stat } : Written).push (g.map fun xs =>
    { scale := if zero then 0 else scale, zp := zp, codes := xs.map fun e => intWord fmt e.1 })

/-- The accumulators of a kind of tile whose arithmetic the spec does not give: free values (log 96). -/
def freeAcc (s : State) (m n : Nat) : List (List W32) :=
  (List.range m).map fun i => (List.range n).map fun j =>
    (Config.freeWord (0x300000000 + i * n + j) s.time.freeIdx).truncate 32

/-- The kind multiplies its operands (R268): the others are WATCH_STEP and REDUCE. -/
def multiplies (t : Tile) : Bool := decide (t.kind.toNat ≤ 1)

/-- Where a tile writes its output: a calibrated tensor has zero point 0 (10 R324). -/
def outOf (rt : RunTile) (l : TileLoad) : TileOut := if rt.outSlot.isSome then { l.out with zp := 0 } else l.out

/-- The float path (R262; 09 R302 to R304, R311; 13 R411). -/
def floatTile (s : State) (rt : RunTile) (e : Nat) (l : TileLoad) : TileRes :=
  let t := rt.tile
  let a := readTensor t.fmtA.toNat (fun _ _ => none) (readA t l).rows 0 {}
  let delta : Nat → Nat → Option (BitVec 4 × W16) := match tileDeltas s t rt.use with
    | some m => fun r c => matrixDelta m (rowsBefore (planOf s rt.plan) m t + r) c
    | none => fun _ _ => none
  let b := readTensor t.fmtB.toNat delta (readB s rt l).rows 0 a.2
  let cols := if t.kind = 1 then turned 0 t.n.toNat b.1 else b.1
  let order := sumOrder (planOf s rt.plan).image t.id.toNat e t.k.toNat
  let sums := if multiplies t then a.1.map fun r => cols.map fun c => dotFloat order r c
    else (freeAcc s t.m.toNat t.n.toNat).map fun r => r.map f32Read
  let kept (i j : Nat) (x : F32) : F32 := match rt.of_, l.keep with
    | .batch q, some thr => if keepBit s rt.use.dset q t.id thr (i * t.n.toNat + j) then x else .fin 0
    | _, _ => x
  let out := (List.range sums.length).map fun i =>
    let r := sums.getD i []
    (List.range r.length).map fun j => kept i j (r.getD j .nan)
  { writeRows s (outOf rt l) rt.outScale t.n.toNat out b.2 with acc := sums.map fun r => r.map f32Word }

def readIntRows (fmt : Nat) (acts : Bool) : List (List Group) → Num → List (List Int) × Num
  | [], n => ([], n)
  | r :: t, n =>
    let a := readIntRow fmt acts r n
    let b := readIntRows fmt acts t a.2
    (a.1 :: b.1, b.2)

def dotRow (order : List Nat) (r : List Int) : List (List Int) → Num → List Int × Num
  | [], n => ([], n)
  | c :: t, n =>
    let a := dotInt order r c n
    let b := dotRow order r t a.2
    (a.1 :: b.1, b.2)

def dotRows (order : List Nat) (cols : List (List Int)) : List (List Int) → Num → List (List Int) × Num
  | [], n => ([], n)
  | r :: t, n =>
    let a := dotRow order r cols n
    let b := dotRows order cols t a.2
    (a.1 :: b.1, b.2)

/-- The rescale pairs of a tile's columns, and whether each is out of range (09 R307). -/
def tilePairs (b : Stored) (sa : Scale) (sOut : Rat) : List (Nat × Nat × Bool) :=
  b.rows.map fun c => rescalePair (scaleVal sa * rowScale c / sOut)

def outScaleVal (o : BitVec 4) (scale : Scale) : Rat := if o = 6 ∨ o = 7 then scaleVal scale else 1

/-- The integer path (R305 to R310). -/
def intTile (s : State) (rt : RunTile) (e : Nat) (l : TileLoad) : TileRes :=
  let t := rt.tile
  let o := outOf rt l
  let f := o.fmt.toNat
  let a := readIntRows t.fmtA.toNat true (readA t l).rows {}
  let stored := readB s rt l
  let b := readIntRows t.fmtB.toNat false stored.rows a.2
  let acc := if multiplies t then dotRows (sumOrder (planOf s rt.plan).image t.id.toNat e t.k.toNat) b.1 a.1 b.2
    else ((freeAcc s t.m.toNat t.n.toNat).map fun r => r.map BitVec.toInt, b.2)
  let ps := (tilePairs stored rt.aScale (outScaleVal o.fmt rt.outScale)).map fun p => (p.1, p.2.1)
  let at_ (xs : List Int) (i : Nat) : Int × (Nat × Nat) := (xs.getD i 0, ps.getD i (0, 0))
  let words := acc.1.map fun r => r.map (BitVec.ofInt 32)
  if f = 6 ∨ f = 7 then
    let sOut := scaleVal rt.outScale
    let es := acc.1.map fun xs => (List.range xs.length).map fun i => intElem f sOut o.zp (at_ xs i).1 (at_ xs i).2
    let w := (cutGroups o.grouping.toNat es).foldl (fun w g => writeIntGroup f rt.outScale o.zp g w) { num := acc.2 }
    { acc := words, out := writtenTensor o 0 acc.1.length t.n.toNat w, num := w.num, stat := w.stat }
  else
    let real (xs : List Int) : List F32 := (List.range xs.length).map fun i =>
      let x := at_ xs i
      f32Round (((x.1 * x.2.1 : Int) : Rat) / ((2 ^ x.2.2 : Nat) : Rat))
    { writeRows s o rt.outScale t.n.toNat (acc.1.map real) acc.2 with acc := words }

/-- The headers of both operands are good and agree with the tile record (R318). -/
def headersGood (s : State) (rt : RunTile) (l : TileLoad) : Bool :=
  let t := rt.tile
  headerAgrees l.a t.fmtA.toNat (operandGrouping t t.fmtA.toNat)
    && headerAgrees (tileWeights s rt l) t.fmtB.toNat (operandGrouping t t.fmtB.toNat)

/-- The path that a tile takes: deltas for its layer and stream state pages put it on the float path (R263; 10 R324). -/
def onIntPath (s : State) (t : Tile) (u : DeltaUse) (l : TileLoad) : Bool :=
  t.intPath && (tileDeltas s t u).isNone && !l.aPage

/-- A tile's results and events. -/
def runTile (s : State) (rt : RunTile) (e : Nat) (l : TileLoad) : TileRes :=
  let r := if onIntPath s rt.tile rt.use l then intTile s rt e l else floatTile s rt e l
  let num := if headersGood s rt l then r.num else r.num.notice .tensorHeader true
  let num := if (skewOf rt.tile l).isSome then { num.count 7 with fault := true } else num
  { r with num := num }

/-! ## Rescale pairs at T_n (09 R307, R318) -/

/-- The local slots that a plan's tensor descriptors name for a tile. -/
def tileSlots (p : Plan) (t : W16) : TileSlots := (p.decl.slots.find? fun x => x.tile == t).getD { tile := t }

/-- The gaffer forms the pairs of an integer-path tile of a screening plan from the scales that the tick uses: each column
out of range is counted, with one notice for the tile. -/
def gafferTile (k : Nat) (p : Plan) (s : State) (t : Tile) : State :=
  if ¬ t.intPath ∨ (t.role ≠ 0 ∧ t.role ≠ 2) then s
  else
    let x := tileSlots p t.id
    let slot (j : Option Byte) : Option Nat := j.map fun j => 192 * k + j.toNat
    let out := slot x.out
    let fmt : BitVec 4 := (out.map fun j => (calOf s j).fmt).getD 15
    let rt : RunTile := { of_ := .items [], tile := t, start := 0, version := screenVersion s t.screen }
    let ps := tilePairs (readB s rt {}) (slotScale s (slot x.a) s.tick.cur) (outScaleVal fmt (slotScale s out s.tick.cur))
    let bad := (List.range ps.length).filter fun i => (ps[i]?).any fun p => p.2.2
    let s := { s with eng := { s.eng with numeric := if bad.isEmpty then s.eng.numeric else cntAdd s.eng.numeric 9 bad.length } }
    match bad.head? with
    | some c => raise s .rescaleRange (enginePlace t.engine.toNat 0) t.id.toNat c
    | none => s

def gafferPairs (s : State) : State :=
  s.eng.plans.foldl (fun s e => if e.2.st = .loaded then e.2.tiles.foldl (gafferTile e.1 e.2) s else s) s

/-! ## Start (R256, R264, R269, R282 to R284; 02 R43 to R45; 05 R172) -/

/-- The first tile of a list that runs on an engine, if what it waits for has completed. -/
def readyTile (p : Plan) (e : Nat) (todo : List Nat) (met : W16 → Bool) : Option (Nat × Tile) :=
  match todo.find? fun i => (p.tiles[i]?).any fun t => decide (t.engine.toNat = e) with
  | none => none
  | some i => match p.tiles[i]? with
    | none => none
    | some t => if t.waitValid && !met t.waitFor then none else some (i, t)

/-- A placed item still has the tile of an id to complete. -/
def itemOwes (p : Plan) (x : WorkItem) (id : W16) : Bool :=
  x.placed && (tilesAt p (roleTiles p x.role)).any (fun t => t.id == id) && !x.done.contains id

/-- What a tile of an item waits for has completed: by the item itself, or, for a tile of the other role, by every item of
its request that runs that role (R269). -/
def itemMet (s : State) (p : Plan) (i : WorkItem) (id : W16) : Bool :=
  i.done.contains id
    || (!(tilesAt p (roleTiles p i.role)).any (fun t => t.id == id)
      && !s.req.items.any fun x => x.slot == i.slot && x.n != i.n && itemOwes p x id)

/-- No tile of a placed item has started. -/
def untouched (i : WorkItem) : Bool := i.placed && i.running == 0 && i.done.isEmpty

def earlier (a b : WorkItem) : Bool := decide (a.stamp < b.stamp ∨ (a.stamp = b.stamp ∧ a.n < b.n))

/-- A pegged watcher set takes new tokens in stamp order, one every 1,100 ac (05 R172). -/
def tokenTurn (s : State) (e : Nat) (i : WorkItem) (t : Tile) : Bool :=
  if t.role ≠ 2 ∨ ¬ untouched i ∨ pegBytes s e t.screen = 0 then true
  else
    let plan (x : WorkItem) : Byte := (fnOf s x.fn).act.plan
    decide ((engOf s e).nextToken ≤ s.time.now)
      && !s.req.items.any fun x => untouched x && x.role == 2 && earlier x i && (planOf s (plan x)).watcherId == t.screen

/-- The tile of an item that an engine may start. -/
def itemTile (s : State) (e : Nat) (i : WorkItem) : Option (Nat × Tile) :=
  if i.placed ∧ (fnOf s i.fn).st = .running then
    let p := planOf s (fnOf s i.fn).act.plan
    (readyTile p e i.todo (itemMet s p i)).filter fun x => tokenTurn s e i x.2
  else none

/-- The tile of a micro-batch that an engine may start: one not started yet waits for the tick's plan (02 R45). -/
def batchTile (s : State) (e : Nat) (b : Batch) : Option (Nat × Tile) :=
  let reading := s.jobs.any fun j => match j.key with
    | .span q _ => q == b.seq
    | _ => false
  let p := planOf s b.plan
  let own (id : W16) : Bool := (tilesAt p (tuningTiles p)).any fun t => t.id == id
  if b.placed ∧ ¬ reading ∧ (b.started ∨ s.tick.intakeClosed) then
    readyTile p e b.todo fun id => b.done.contains id || !own id
  else none

/-- Least of a list by an order. -/
def leastBy {α : Type} (lt : α → α → Bool) (xs : List α) : Option α :=
  xs.foldl (fun m x => match m with
    | none => some x
    | some y => if lt x y then some x else some y) none

/-- The latency-class item that an engine takes next: the earliest in stamp order (02 R44; 05 R172). -/
def nextLatency (s : State) (e : Nat) : Option WorkItem :=
  leastBy earlier (s.req.items.filter fun i => i.latency && (itemTile s e i).isSome)

/-- The bulk item that an engine takes next: the first placed, so work of earlier ticks comes first (02 R43, R45). -/
def nextBulk (s : State) (e : Nat) : Option WorkItem :=
  leastBy (fun a b => decide (a.order < b.order)) (s.req.items.filter fun i => !i.latency && (itemTile s e i).isSome)

/-- The micro-batch that an engine takes next; tuning comes after bulk work (02 R43, R45). -/
def nextBatch (s : State) (e : Nat) : Option Batch :=
  leastBy (fun a b => decide (a.order < b.order)) (s.tune.batches.filter fun b => (batchTile s e b).isSome)

/-- Latency-class work waits for the engine, and bulk work or tuning does. -/
def latencyReady (s : State) (e : Nat) : Bool := (nextLatency s e).isSome
def bulkReady (s : State) (e : Nat) : Bool := (nextBulk s e).isSome || (nextBatch s e).isSome

/-- Latency-class work goes first; on a reserved stream engine the classes alternate once its share is used, and with share
64 it takes bulk tiles of the screens pegged on it only (R282 to R284; 02 R43). -/
def mayTake (s : State) (e : Nat) (lat tuning : Bool) (screen : W16) : Bool :=
  let v := engOf s e
  let turn := decide (32 ≤ e) && alternates s v && v.lastLat
  if lat then !(turn && bulkReady s e)
  else
    (e < 32 || v.share.toNat < 64 || (!tuning && pegBytes s e screen != 0)) && (!latencyReady s e || turn)

/-- The version of its screen that a piece of work reads. -/
def tagOf (tags : List (W16 × W32)) (screen : W16) (other : W32) : W32 :=
  ((tags.find? fun x => x.1 == screen).map (·.2)).getD other

/-- The items whose rows a tile can hold: of one function, tick, class and role, with one delta set and version (R264;
01 R16). -/
def sameRows (a b : WorkItem) : Bool :=
  a.fn == b.fn && a.latency == b.latency && a.role == b.role && a.tick == b.tick && a.use == b.use
    && a.backbone == b.backbone

/-- The tile that an engine starts for items: the one that its next item is ready for, with the rows of others that are
ready for it too. -/
def startItems (s : State) (e : Nat) (ns : List Nat) : Option (WorkItem × Nat × Tile) :=
  let is := ns.filterMap (itemByN s)
  match is with
  | [] => none
  | i :: rest =>
    let next := if i.latency then nextLatency s e else nextBulk s e
    match itemTile s e i with
    | none => none
    | some x =>
      if is.length = ns.length ∧ ns.eraseDups = ns ∧ next.any (fun y => y.n == i.n)
          ∧ rest.all (fun y => sameRows i y && (itemTile s e y).any fun z => z.1 == x.1) ∧ mayTake s e i.latency false x.2.screen then
        some (i, x.1, x.2)
      else none

/-- What runs on an engine when it starts work: the tile, its index, and the work's tick, versions and scales. -/
def startOf (s : State) (e : Nat) (work : TileOf) : Option (Nat × RunTile) :=
  match work with
  | .items ns => match startItems s e ns with
    | none => none
    | some (i, k, t) =>
      let plan := (fnOf s i.fn).act.plan
      let x := tileSlots (planOf s plan) t.id
      let slot (j : Option Byte) : Option Nat := j.map fun j => 192 * plan.toNat + j.toNat
      let v := tagOf i.backbone t.screen (screenVersionAt s t.screen i.tick)
      let fresh : Bool := !(engOf s e).rewriting.any fun y => y.1 == t.screen
      some (k, { of_ := work, tile := t, plan := plan, start := s.time.now, tick := i.tick, use := i.use
                 fn := some i.fn, lat := i.latency
                 aScale := slotScale s (slot x.a) i.tick, outScale := slotScale s (slot x.out) i.tick
                 outSlot := (slot x.out).map fun j => (j, plan.zeroExtend 16), version := v
                 fromSlice := fresh && Tbl.find (engOf s e).copies t.screen.toNat == some v })
  | .batch q => match nextBatch s e with
    | none => none
    | some b =>
      match batchTile s e b with
      | none => none
      | some (k, t) =>
        if b.seq ≠ q ∨ (nextBulk s e).isSome ∨ mayTake s e false true t.screen = false then none
        else
          let x := tileSlots (planOf s b.plan) t.id
          let scale (j : Option Byte) : Scale := (j.map fun j => batchScale b j.toNat).getD 0x7F00
          let v := tagOf b.backboneTags t.screen (screenVersion s t.screen)
          let fresh : Bool := !(engOf s e).rewriting.any fun y => y.1 == t.screen
          some (k, { of_ := work, tile := t, plan := b.plan, start := s.time.now, tick := b.tick, use := b.use
                     aScale := scale x.a, outScale := scale x.out
                     outSlot := x.out.bind fun j => (batchSlot s b j.toNat).map fun k => (k, b.set.zeroExtend 16), version := v
                     fromSlice := fresh && Tbl.find (engOf s e).copies t.screen.toNat == some v })

/-- Bytes of a half of the weight buffer, of the activation buffer and of the accumulator (R255). -/
def bufferBytes (e : Nat) : Nat × Nat × Nat := if e < 32 then (262144, 131072, 65536) else (131072, 65536, 32768)

/-- The operands and the results fit the buffers, and the output is of a format and a grouping that a tile writes (R254 to
R256; 09 R293, R295, R309). -/
def loadFits (e : Nat) (t : Tile) (int : Bool) (l : TileLoad) : Bool :=
  let b := bufferBytes e
  let o := l.out
  decide (packedLen (fmtBits t.fmtB.toNat) (t.k.toNat * t.n.toNat) ≤ b.1)
    && decide (packedLen (fmtBits t.fmtA.toNat) (t.m.toNat * t.k.toNat) ≤ b.2.1)
    && decide (4 * (t.m.toNat * t.n.toNat) ≤ b.2.2)
    && o.fmt != 8 && !(decide (12 ≤ o.fmt.toNat) && o.fmt != 15) && decide (o.grouping.toNat ≤ 4)
    && (!(o.fmt == 0 || decide (9 ≤ o.fmt.toNat)) || o.grouping == 0)
    && (!int || o.fmt == 6 || o.fmt == 7 || o.fmt == 15)

/-- An item's tile starts: error records of its engine count for its function (01 R17). -/
def takeItem (e i : Nat) (s : State) (n : Nat) : State :=
  let s := match itemByN s n with
    | some x => modFn s x.fn fun f => f.runsOn s.err.tickErrs (Fin.ofNat 56 e)
    | none => s
  modItem s n fun x => { x with todo := x.todo.filter (fun j => j != i), running := x.running + 1 }

/-- Positions of a watcher item. -/
def itemTokens (i : WorkItem) : Nat := match i.kind with
  | .watch ps => ps.length
  | .prompt _ _ => 0

/-- The engines that peg a watcher's screen take their next token 1,100 ac after each of these (05 R172). -/
def spaceTokens (s : State) (e : Nat) (t : Tile) (ns : List Nat) : State :=
  let n := ((ns.filterMap (itemByN s)).filter untouched).foldl (fun n i => n + itemTokens i) 0
  if t.role ≠ 2 ∨ n = 0 ∨ pegBytes s e t.screen = 0 then s
  else (List.range 48).foldl (fun s e =>
    if pegBytes s e t.screen = 0 then s else modEng s e fun v => { v with nextToken := s.time.now + 1100 * n }) s

/-- A tile leaves the list of tiles to start. -/
def takeTile (s : State) (e : Nat) (w : TileOf) (i : Nat) (t : Tile) : State :=
  match w with
  | .items ns => ns.foldl (takeItem e i) (spaceTokens s e t ns)
  | .batch q => modBatch s q fun b => { b with
      todo := b.todo.filter (fun j => j != i), running := b.running + 1, started := true }

/-- An engine starts a tile (R256): its operands are in the half of the buffers that now feeds the array (R255). -/
def execTileStart (engine : Fin 48) (work : TileOf) (load : TileLoad) (s : State) : Host.Outcome State Fault Refusal :=
  let e := engine.val
  let v := engOf s e
  match startOf s e work with
  | none => .next s
  | some (i, rt) =>
    let t := rt.tile
    if ¬ gafferRuns s ∨ v.running.isSome ∨ ¬ v.pool ∨ loadFits e t (onIntPath s t rt.use load) load = false then .next s
    else
      let turn := rt.lat && decide (32 ≤ e) && alternates s v
      let half : BufHalf := { load := load }
      .next (modEng (takeTile s e work i t) e fun v => { v with
        running := some rt, lastLat := rt.lat, feed := !v.feed
        half0 := if v.feed then half else v.half0
        half1 := if v.feed then v.half1 else half
        overrunBeats := if turn then v.overrunBeats + 1 else v.overrunBeats })

/-! ## Completion -/

/-- Errors that a tile can meet (17 R506). -/
def tileErr (e : DetErr) : Bool :=
  match e.code with
  | .eccCorrected | .eccUncorrected | .parity | .hbmCorrected | .hbmUncorrected | .calibrationSlot => true
  | _ => false

/-- An uncorrectable marver slot keeps its scale for the next tick and loses its window (17 R506). -/
def badSlot (s : State) (e : DetErr) : State :=
  if e.code = .calibrationSlot then
    let k := e.argA.toNat % 65536
    let c := calOf s k
    setCal s k { c with window := [], next := c.scale, m := 0, a := 0, sat := 0, counted := false }
  else s

def raiseErrs (errs : List DetErr) (s : State) : State :=
  errs.foldl (fun s e =>
    raiseRec (badSlot s e) { code := e.code, place := placeOf s e.place, argA := e.argA, argB := e.argB }) s

/-- The counts, notices and statistics of a tile. A slot that another owner has meanwhile counts nothing (13 R409). -/
def noteTile (s : State) (e : Nat) (rt : RunTile) (l : TileLoad) (r : TileRes) : State :=
  let id := rt.tile.id.toNat
  let s := noteNumeric s e id r.num
  let s := match skewOf rt.tile l with
    | some (sc, da) => raise s .scaleSkew (enginePlace e 1) id (sc.toNat * 2 ^ 16 + da.toNat)
    | none => s
  let f := l.out.fmt.toNat
  match rt.outSlot with
  | some (k, owner) =>
    if 1 ≤ f ∧ f ≤ 8 ∧ (calOf s k).owner ≠ 0 ∧ (calOf s k).ownerId = owner then calRecord s k r.stat else s
  | none => s

/-! ### The lehr (13 R404 to R406) -/

/-- SRAM In Use and Overflow Pages In Use (13 R407). -/
def lehrSram (s : State) : Nat := s.tune.batches.foldl (fun n b => b.stash.foldl (fun n x => n + x.2.1) n) 0
def lehrPages (s : State) : Nat := s.tune.batches.foldl (fun n b => b.stash.foldl (fun n x => n + x.2.2) n) 0

/-- A micro-batch is aborted because its stash does not fit (R406). -/
def stashFull (s : State) (b : Batch) : State :=
  let first := ((b.spans.head?).map (·.seq)).getD 0
  let last := ((b.spans.getLast?).map (·.seq)).getD 0
  let s := raiseRec s { code := .stashFull, argA := b.seq, argB := first, argC := last }
  endBatch (tuneCount s 7 1) b

/-- What an operation of a layer keeps in normal mode (R404). -/
def partBytes (x : StashPart) : Nat :=
  match x.kind with
  | .matmul | .smooth | .normalise | .softmax => x.input
  | .relu | .dropout => ceilDiv x.elems 8
  | .residual => 0
/-- The bytes of a stash write: in recompute mode only the layer's input at its boundary (R405). -/
def stashBytes (recompute : Bool) (x : StashWrite) : Nat :=
  if recompute then x.boundary else x.parts.foldl (fun n p => n + partBytes p) 0

/-- A forward pass stashes a layer. -/
def stashWrite (s : State) (seq : W64) (x : StashWrite) : State :=
  match batchOf s seq with
  | none => s
  | some b =>
    let n := stashBytes (b.recompute.any fun l => l != x.layer) x
    let pages := ceilDiv n 65536
    let sram := decide (lehrSram s + n ≤ 16777216)
    if ¬ sram ∧ lehrPages s + pages > regionPages s 4 then stashFull s b
    else
      let s := modBatch s seq fun b => { b with
        stash := b.stash ++ [if sram then (x.layer, n, 0) else (x.layer, 0, pages)] }
      if b.recompute.isNone ∧ s.tune.watermark.toNat ≤ lehrSram s then
        tuneCount (modBatch s seq fun b => { b with recompute := some x.layer }) 8 1
      else s

/-- The backward tiles of a layer have all completed: its stash is freed. -/
def freeLayer (s : State) (seq : W64) (t : Tile) : State :=
  match batchOf s seq with
  | none => s
  | some b =>
    let ts := (planOf s b.plan).tiles
    let left (i : Nat) : Bool := (ts[i]?).any fun x => x.role == 5 && x.layer == t.layer
    let onEngine := s.eng.engines.any fun e => e.2.running.any fun r =>
      r.of_ == .batch seq && r.tile.role == 5 && r.tile.layer == t.layer
    if t.role ≠ 5 ∨ b.todo.any left ∨ onEngine then s
    else modBatch s seq fun b => { b with stash := b.stash.filter fun x => x.1 != t.layer }

/-! ### The end of a tile -/

/-- Heads that an item's last stage delivers: one for each position, one for a prompt. -/
def headCount (i : WorkItem) : Nat := match i.kind with
  | .watch ps => ps.length
  | .prompt _ _ => 1

/-- A tile of an item has completed. -/
def itemDone (s : State) (n : Nat) (t : Tile) (heads : List Heads) (fault : Bool) : State :=
  finishItem (modItem s n fun x => { x with
    running := x.running - 1, done := x.done ++ [t.id], fault := x.fault || fault
    heads := if heads.isEmpty then x.heads else heads }) n

/-- The items whose rows a tile held take its heads in turn (R264). -/
def itemsDone (t : Tile) (fault : Bool) : List Nat → List Heads → State → State
  | [], _, s => s
  | n :: ns, heads, s =>
    let k := ((itemByN s n).map headCount).getD 0
    itemsDone t fault ns (heads.drop k) (itemDone s n t (heads.take k) fault)

/-- The work goes on with the tile's results. -/
def tileDone (s : State) (w : TileOf) (t : Tile) (heads : List Heads) (stash : Option StashWrite) (fault : Bool) : State :=
  match w with
  | .items ns => itemsDone t fault ns heads s
  | .batch q =>
    let s := modBatch s q fun b => { b with
      running := b.running - 1, done := b.done ++ [t.id], fault := b.fault || fault }
    let s := match stash with
      | some x => if t.role = 4 then stashWrite s q x else s
      | none => s
    freeLayer s q t

/-- The half of the buffers that feeds the array. -/
def feedHalf (v : Engine) : BufHalf := if v.feed then v.half1 else v.half0

/-- The first cycle in which the last accumulator drain of a tile can end: MATMUL and MATMUL_T take their multiplies at the
array's rate (R253, R256, R259). -/
def tileEnd (s : State) (e : Nat) (rt : RunTile) (l : TileLoad) : Nat :=
  if multiplies rt.tile then rt.start + tileAc e rt.tile (onIntPath s rt.tile rt.use l) else rt.start

/-- A tile's last accumulator drain ends (R256). -/
def execTileComplete (engine : Fin 48) (heads : List Heads) (stash : Option StashWrite) (errs : List DetErr)
    (s : State) : Host.Outcome State Fault Refusal :=
  let e := engine.val
  match (engOf s e).running with
  | none => .next s
  | some rt =>
    let l := (feedHalf (engOf s e)).load
    if ¬ coreRuns s ∨ s.time.now < tileEnd s e rt l then .next s
    else
      let errs := errs.filter tileErr
      let r := runTile s rt e l
      let fault := rt.fault || r.num.fault || errs.any fun x => errCls x.code == 1
      let half : BufHalf := { load := l, acc := r.acc }
      let s := modEng s e fun v => { v with
        running := none, stash := r.out.bytes, tilesRun := v.tilesRun + 1
        half0 := if v.feed then v.half0 else half
        half1 := if v.feed then half else v.half1
        busy := v.busy + BitVec.ofNat 64 (s.time.now - rt.start)
        latBusy := if rt.lat then v.latBusy + (s.time.now - max rt.start s.tick.at_) else v.latBusy }
      let s := { s with time := { s.time with freeIdx := if multiplies rt.tile then s.time.freeIdx else s.time.freeIdx + 1 } }
      let s := noteTile (raiseErrs errs s) e rt l r
      let s := match rt.fn with
        | some f => checkStopped s f
        | none => s
      done (tileDone s rt.of_ rt.tile heads stash fault)

end Sys2Proof.Machine
end

