-- ==== Sys2Proof/Machine/Dict.lean ====
section
/-! DEFINITION. The shape of a dictionary object and of the checks of 15 R466 that every object shares; the objects of
the node, of the environment and of the errors (15 R447, R465 to R473; 16 R474 to R478, R482 to R484). -/
namespace Sys2Proof.Machine
open Sys2Proof

/-! ## Objects -/

/-- One subindex: its value (none: write only), its length in bytes (none: any), the reason of a stated condition that
does not hold, and what a write of its bytes does (none: read only). -/
structure Obj where
  value : Option (List Byte)
  len : Option Nat
  cond : Option W16 := none
  write : Option (List Byte → State → WriteRes) := none

/-- An index: one object, or subindexes with the highest of them in :00, or an object in :00 and subindexes. -/
inductive Entry
  | var (o : Obj)
  | record (top : Nat) (f : Nat → Option Obj)
  | array (head : Obj) (f : Nat → Option Obj)

def ro (n v : Nat) : Obj := { value := some (leBytes n v), len := some n }
def roW {w : Nat} (n : Nat) (v : BitVec w) : Obj := ro n v.toNat
def roBytes (b : List Byte) : Obj := { value := some b, len := none }
def wo (n : Nat) (f : Nat → State → WriteRes) : Obj :=
  { value := none, len := some n, write := some fun b => f (leNat b) }
/-- A value of `n` bytes that is written under a condition. -/
def rwIf (c : Option W16) (n v : Nat) (f : Nat → State → WriteRes) : Obj :=
  { value := some (leBytes n v), len := some n, cond := c, write := some fun b => f (leNat b) }
def rw_ (n v : Nat) (f : Nat → State → WriteRes) : Obj := rwIf none n v f

/-- "rw P" (16 R476). -/
def preop (s : State) : Option W16 := if s.mgmt.nmt = .preOperational then none else some rsPreop
def rwP (s : State) (n v : Nat) (f : Nat → State → WriteRes) : Obj := rwIf (preop s) n v f

/-- A value inside its range is stored; one outside aborts. -/
def store (ok : Bool) (f : State → State) (s : State) : WriteRes := if ok then .ok (f s) else .abort abRange 0 s
def between (lo hi v : Nat) : Bool := decide (lo ≤ v) && decide (v ≤ hi)
def bv (w v : Nat) : BitVec w := BitVec.ofNat w v

/-! ## Communication objects (16 R477) -/

def setMgmt (f : MgmtState → MgmtState) (s : State) : State := { s with mgmt := f s.mgmt }

/-- 0x1003:00: writing 0 clears the list. -/
def errorListWrite (v : Nat) (s : State) : WriteRes := store (v == 0) (setMgmt fun m => { m with errorList := [] }) s

def execErrorListClear (path : Path) (s : State) : Host.Outcome State Fault Refusal :=
  mgmtWrite s path 0x1003 0 (errorListWrite 0)

/-- A byte in decimal, as text. -/
def decText (v : Nat) : List Byte :=
  let d (k : Nat) : Byte := bv 8 (0x30 + k % 10)
  if v < 10 then [d v] else if v < 100 then [d (v / 10), d v] else [d (v / 100), d (v / 10), d v]

/-- 0x100A: the four bytes of the Lilen version. -/
def versionText (v : W32) : List Byte :=
  let n := v.toNat
  decText (bitsOf n 24 8) ++ [0x2E] ++ decText (bitsOf n 16 8) ++ [0x2E] ++ decText (bitsOf n 8 8) ++ [0x2E]
    ++ decText (bitsOf n 0 8)

def obj1018 (s : State) : Nat → Option Obj
  | 1 => some (ro 4 0x00000F4A)
  | 2 => some (ro 4 0x00000B52)
  | 3 => some (ro 4 0x00B00000)
  | 4 => some (roW 4 s.sensed.serial)
  | _ => none

def modTpdo (n : Nat) (f : Tpdo → Tpdo) (s : State) : State := setTpdo s n (f (tpdoOf s.mgmt n))

def obj1800 (s : State) (n : Nat) : Nat → Option Obj
  | 1 => some (rw_ 4 (cobTpdoOf s.mgmt n).toNat fun v => store true (modTpdo n fun t => { t with cobId := some (bv 32 v) }))
  | 2 => some (rw_ 1 (tpdoOf s.mgmt n).kind.toNat fun v =>
      store (v == 0xFE || v == 0xFF) (modTpdo n fun t => { t with kind := bv 8 v }))
  | 3 => some (rw_ 2 (tpdoOf s.mgmt n).inhibit.toNat fun v => store true (modTpdo n fun t => { t with inhibit := bv 16 v }))
  | 5 => some (rw_ 2 (tpdoOf s.mgmt n).timer.toNat fun v => store true (modTpdo n fun t => { t with timer := bv 16 v }))
  | _ => none

/-- A mapping may be changed: the TPDO is disabled and :00 is 0 (15 R472). -/
def mapOpen (s : State) (n : Nat) : Option W16 :=
  if (cobTpdoOf s.mgmt n).getLsbD 31 ∧ (tpdoOf s.mgmt n).count = 0 then none else some 0

/-- A mapping entry: a telemetry object, :01, with its length in bits (15 R472). -/
def mapEntry (n k v : Nat) (s : State) : WriteRes :=
  let i := v / 2 ^ 16
  if i < 0x6000 ∨ 0x6009 < i ∨ bitsOf v 8 8 ≠ 1 then .abort abMap 0 s
  else if bitsOf v 0 8 ≠ 8 * telemetrySize (i - 0x6000) then .abort abRange 0 s
  else .ok (modTpdo n (fun t => { t with entries := Tbl.put 0 t.entries k (bv 32 v) }) s)

/-- 0x1A00+n:00 (15 R472). -/
def mapCount (n v : Nat) (s : State) : WriteRes :=
  let t := tpdoOf s.mgmt n
  if 16 < v then .abort abRange 0 s
  else if 512 < (tpdoEntries t v).foldl (fun a e => a + bitsOf e.toNat 0 8) 0 then .abort abMapLen 0 s
  else .ok (modTpdo n (fun t => { t with count := bv 8 v }) s)

/-- A :00 of 0 is written at any time while the TPDO is disabled or not; a non-zero one only to an open mapping. -/
def mapHead (s : State) (n : Nat) : Obj :=
  { value := some [(tpdoOf s.mgmt n).count], len := some 1
    write := some fun b s =>
      let v := leNat b
      match mapOpen s n with
      | some r => if v = 0 then mapCount n 0 s else .abort abState r s
      | none => mapCount n v s }

def obj1A00 (s : State) (n k : Nat) : Option Obj :=
  if between 1 16 k then some (rwIf (mapOpen s n) 4 (Tbl.get 0 (tpdoOf s.mgmt n).entries k).toNat (mapEntry n k)) else none

/-- 0x1000 to 0x1FFF. -/
def commObjects (s : State) (i : Nat) : Option Entry :=
  let m := s.mgmt
  if 0x1800 ≤ i ∧ i ≤ 0x1807 then some (.record 5 (obj1800 s (i - 0x1800)))
  else if 0x1A00 ≤ i ∧ i ≤ 0x1A07 then some (.array (mapHead s (i - 0x1A00)) (obj1A00 s (i - 0x1A00)))
  else match i with
  | 0x1000 => some (.var (ro 4 0))
  | 0x1001 => some (.var (roW 1 (errorRegister s)))
  | 0x1003 => some (.array (rw_ 1 m.errorList.length errorListWrite) fun k =>
      if between 1 16 k then some (roW 4 (m.errorList.getD (k - 1) 0)) else none)
  | 0x1008 => some (.var (roBytes [0x42, 0x56, 0x2D, 0x53, 0x32]))
  | 0x1009 => some (.var (roBytes [0x42, 0x30]))
  | 0x100A => some (.var (roBytes (versionText s.boot.lilenVersion)))
  | 0x1014 => some (.var (rw_ 4 (cobEmcyOf m).toNat fun v => store true (setMgmt fun m => { m with cobEmcy := some (bv 32 v) })))
  | 0x1015 => some (.var (rw_ 2 m.inhibitEmcy.toNat fun v => store true (setMgmt fun m => { m with inhibitEmcy := bv 16 v })))
  | 0x1017 => some (.var (rw_ 2 m.heartbeatMs.toNat fun v => store true (setMgmt fun m => { m with heartbeatMs := bv 16 v })))
  | 0x1018 => some (.record 4 (obj1018 s))
  | _ => none

/-! ## Node, tick, time and environment: 0x2000 to 0x20FF (16 R478) -/

def nmtNum : Nmt → Nat
  | .initialisation => 0
  | .preOperational => 1
  | .operational => 2
  | .stopped => 3

/-- 0x2001:01 (15 R451). -/
def nmtWrite (v : Nat) (s : State) : WriteRes :=
  match v with
  | 0x01 => .ok (nmtStart s)
  | 0x02 => .ok (nmtStop s)
  | 0x80 => .ok (nmtPreop s)
  | 0x81 | 0x82 => .ok (nmtReset s)
  | _ => .abort abRange 0 s

def obj2001 (s : State) : Nat → Option Obj
  | 1 => some (wo 1 nmtWrite)
  | 2 => some (ro 1 (nmtNum s.mgmt.nmt))
  | _ => none

/-- CAN Settings: written on the mailbox path only (15 R447). -/
def obj2003 (s : State) (path : Path) : Nat → Option Obj :=
  let c : Option W16 := if path = .can then some rsPath else none
  let m := s.mgmt
  fun
  | 1 => some (rwIf c 1 m.nodeId.toNat fun v => store (between 0 127 v) (setMgmt fun m => { m with nodeId := bv 8 v }))
  | 2 => some (rwIf c 2 m.nominal.toNat fun v =>
      store ([125, 250, 500, 1000].contains v) (setMgmt fun m => { m with nominal := bv 16 v }))
  | 3 => some (rwIf c 2 m.dataRate.toNat fun v =>
      store ([1000, 2000, 4000, 5000, 8000].contains v && decide (m.nominal.toNat ≤ v))
        (setMgmt fun m => { m with dataRate := bv 16 v }))
  | 4 => some (roW 1 m.activeNode)
  | _ => none

def obj2004 (s : State) : Nat → Option Obj
  | 1 => some (roW 8 s.mgmt.collisions)
  | 2 => some (roW 8 s.mgmt.mbxRequests)
  | 3 => some (roW 8 s.mgmt.canRequests)
  | 4 => some (roW 8 s.mgmt.emcyLost)
  | _ => none

def objAbort (d : AbortDetail) : Nat → Option Obj
  | 1 => some (roW 4 d.code)
  | 2 => some (roW 2 d.reason)
  | 3 => some (roW 2 d.index)
  | 4 => some (roW 1 d.sub)
  | 5 => some (roW 4 d.aborts)
  | _ => none

def setTick (f : TickState → TickState) (s : State) : State := { s with tick := f s.tick }

def obj2010 (s : State) : Nat → Option Obj :=
  let t := s.tick
  fun
  | 1 => some (rwP s 4 t.minPeriod.toNat fun v => store (between 100 10000000 v) (setTick fun t => { t with minPeriod := bv 32 v }))
  | 2 => some (rwP s 4 t.maxPeriod.toNat fun v => store (between 100 10000000 v) (setTick fun t => { t with maxPeriod := bv 32 v }))
  | 3 => some (rwP s 4 t.intakeClose.toNat fun v =>
      store (between 1000 19999999 v) (setTick fun t => { t with intakeClose := bv 32 v }))
  | 4 => some (rwP s 4 t.maskDeadline.toNat fun v =>
      store (between 2000 19999999 v) (setTick fun t => { t with maskDeadline := bv 32 v }))
  | 5 => some (rwP s 4 t.verdictDeadline.toNat fun v =>
      store (between 2000 20000000 v) (setTick fun t => { t with verdictDeadline := bv 32 v }))
  | 6 => some (rwP s 1 t.overrunThreshold.toNat fun v =>
      store (between 1 255 v) (setTick fun t => { t with overrunThreshold := bv 8 v }))
  | _ => none

def obj2011 (s : State) : Nat → Option Obj
  | 1 => some (roW 8 s.tick.cur.num)
  | 2 => some (ro 8 s.tick.at_)
  | 3 => some (roW 8 s.tick.registered)
  | 4 => some (roW 8 s.tick.overrunTicks)
  | 5 => some (roW 4 s.tick.overrunRun)
  | _ => none

def obj2020 (s : State) : Nat → Option Obj
  | 1 => some (ro 8 s.time.now)
  | 2 => some (roW 8 s.time.gtAccepted)
  | _ => none

def obj2030 (s : State) : Nat → Option Obj
  | 1 => some (roW 2 s.pwr.hottest)
  | 2 => some (rw_ 2 s.pwr.alertAt.toNat fun v =>
      store (between 5000 10500 v) fun s => { s with pwr := { s.pwr with alertAt := bv 16 v } })
  | 3 => some (ro 2 11000)
  | 4 => some (roW 4 s.pwr.power_mW)
  | 5 => some (roW 2 s.pwr.voltage)
  | _ => none

def nodeObjects (s : State) (path : Path) (i : Nat) : Option Entry :=
  match i with
  | 0x2001 => some (.record 2 (obj2001 s))
  | 0x2003 => some (.record 4 (obj2003 s path))
  | 0x2004 => some (.record 4 (obj2004 s))
  | 0x2006 => some (.record 5 (objAbort s.mgmt.abortMbx))
  | 0x2007 => some (.record 5 (objAbort s.mgmt.abortCan))
  | 0x2010 => some (.record 6 (obj2010 s))
  | 0x2011 => some (.record 5 (obj2011 s))
  | 0x2020 => some (.record 2 (obj2020 s))
  | 0x2030 => some (.record 5 (obj2030 s))
  | _ => none

/-! ## Errors and versions: 0x2900 to 0x2AFF (16 R482 to R484; 19 R549) -/

def setErr (f : ErrState → ErrState) (s : State) : State := { s with err := f s.err }

/-- 0x2901:06 ← 01 (16 R482; 17 R504). -/
def rearmWrite (v : Nat) (s : State) : WriteRes :=
  store (v == 1) (setErr fun e => { e with captured := false, capCode := 0, capClass := 0, capDetail := 0, capStamp := 0 }) s

def execRearm (path : Path) (s : State) : Host.Outcome State Fault Refusal := mgmtWrite s path 0x2901 6 (rearmWrite 1)

def obj2901 (s : State) : Nat → Option Obj
  | 1 => some (roW 2 s.err.capCode)
  | 2 => some (roW 1 s.err.capClass)
  | 3 => some (roW 8 s.err.capDetail)
  | 4 => some (ro 8 s.err.capStamp)
  | 5 => some (ro 1 (boolBit s.err.captured))
  | 6 => some (wo 1 rearmWrite)
  | _ => none

/-- Ring settings, with `set` storing them: a write restarts the ring's indices (03 R555). -/
def ringObj (s : State) (r : RingCfg) (set : (RingCfg → RingCfg) → State → State) : Nat → Option Obj :=
  let upd (f : RingCfg → RingCfg) : State → State := set fun r => { f r with producer := 0, consumer := 0 }
  fun
  | 1 => some (rwP s 8 r.base.toNat fun v => store true (upd fun r => { r with base := bv 64 v }))
  | 2 => some (rwP s 1 r.log2.toNat fun v => store (v == 0 || between 12 20 v) (upd fun r => { r with log2 := bv 8 v }))
  | 3 => some (rwP s 8 r.doorbell.toNat fun v => store true (upd fun r => { r with doorbell := bv 64 v }))
  | 4 => some (rwP s 8 r.consumerAddr.toNat fun v => store true (upd fun r => { r with consumerAddr := bv 64 v }))
  | _ => none

def obj2905 (s : State) (k : Nat) : Option Obj :=
  if k = 5 then some (roW 8 s.err.dropped)
  else ringObj s s.err.ring (fun f => setErr fun e => { e with ring := f e.ring }) k

/-- The violation log entry that Select names, before the entries of the present cycle (16 R483); all 0 when there is
none (R482). -/
def selectedViolation (s : State) : List Byte :=
  match (s.err.log.filter fun e => decide (e.2.2 < s.time.now))[s.err.logSel.toNat]? with
  | some (rc, seq, _) => rc.bytes seq
  | none => zeros 64

def obj2910 (s : State) : Nat → Option Obj
  | 1 => some (rw_ 1 s.err.logSel.toNat fun v => store true (setErr fun e => { e with logSel := bv 8 v }))
  | 2 => some (roBytes (selectedViolation s))
  | 3 => some (ro 2 s.err.log.length)
  | 4 => some (roW 8 s.err.violations)
  | _ => none

def obj2A00 (s : State) : Nat → Option Obj
  | 1 => some (ro 1 0xB0)
  | 2 => some (roW 4 s.boot.lilenVersion)
  | 3 => some (roW 2 s.boot.tileVersion)
  | 4 => some (roW 2 s.boot.planMin)
  | 5 => some (roW 2 s.boot.planMax)
  | _ => none

/-- 0x2A10:03 (19 R549). -/
def acknowledgeWrite (v : Nat) (s : State) : WriteRes :=
  if v ≠ 0x55A7 then .abort abRange 0 s
  else guardWrite s (s.boot.verState != 1 || s.boot.pairId != s.boot.pair) 0 fun s =>
    .ok { s with boot := { s.boot with verState := 2 } }

def execAcknowledge (path : Path) (s : State) : Host.Outcome State Fault Refusal :=
  mgmtWrite s path 0x2A10 3 (acknowledgeWrite 0x55A7)

def obj2A10 (s : State) : Nat → Option Obj
  | 1 => some (roW 2 s.boot.pair)
  | 2 => some (rwP s 2 s.boot.pairId.toNat fun v => store true fun s => { s with boot := { s.boot with pairId := bv 16 v } })
  | 3 => some (wo 2 acknowledgeWrite)
  | 4 => some (roW 1 s.boot.verState)
  | _ => none

def only (k : Nat) (o : Obj) (j : Nat) : Option Obj := if j = k then some o else none

def errorObjects (s : State) (i : Nat) : Option Entry :=
  match i with
  | 0x2900 => some (.record 5 fun k => if between 1 5 k then some (roW 8 (cnt s.err.byClass k)) else none)
  | 0x2901 => some (.record 6 (obj2901 s))
  | 0x2905 => some (.record 5 (obj2905 s))
  | 0x2906 => some (.record 1 (only 1 (rw_ 2 s.err.stallLimit.toNat fun v =>
      store (between 1 65535 v) (setErr fun e => { e with stallLimit := bv 16 v }))))
  | 0x2910 => some (.record 4 (obj2910 s))
  | 0x2A00 => some (.record 5 (obj2A00 s))
  | 0x2A01 => some (.record 2 fun k =>
      if k = 1 then some (ro 4 (lilenFloor s)) else if k = 2 then some (ro 2 (tileFloor s)) else none)
  | 0x2A02 => some (.record 1 (only 1 (ro 1 (boolBit s.sensed.dbgLock))))
  | 0x2A03 => some (.record 1 (only 1 (roBytes (leBytes 48 s.boot.identity.toNat))))
  | 0x2A10 => some (.record 4 (obj2A10 s))
  | _ => none

end Sys2Proof.Machine
end

