-- ==== Sys2Proof/Machine/Objects.lean ====
section
/-! DEFINITION. The objects of engines, plans, memory, ports, the mortise array, numbers and text
(16 R479, R480 and the rules they name). -/
namespace Sys2Proof.Machine
open Sys2Proof

/-! ## Engines, plans, memory and ports: 0x2100 to 0x23FF (16 R479) -/

/-- Engine objects (08 R277, R279). -/
def obj2100 (s : State) (e : Fin 56) : Nat → Option Obj :=
  let v := engOf s e.val
  fun
  | 1 => some (rw_ 1 (boolBit v.pool) fun x => enginePool e (if x < 256 then bv 8 x else 2))
  | 2 => some (if e.val < 32 then ro 1 0 else rwP s 1 v.share.toNat fun x =>
      store (between 0 64 x) fun s => modEng s e.val fun v => { v with share := bv 8 x })
  | 3 => some (ro 4 (peggedBytes s e.val))
  | 4 => some (ro 4 (peggedScreens s e.val))
  | 5 => some (roW 8 v.tilesRun)
  | 6 => some (roW 8 v.busy)
  | 7 => some (roW 8 v.overrunBeats)
  | 8 => some (roW 4 v.corrected)
  | 9 => some (roW 4 v.detected)
  | _ => none

def loadNum : LoadSt → Nat
  | .empty => 0
  | .loading => 1
  | .loaded => 2

/-- A command: 0x01 or 0x02. -/
def command2 (a b : State → WriteRes) : Obj :=
  wo 1 fun v s => match v with
    | 1 => a s
    | 2 => b s
    | _ => .abort abRange 0 s

def modPlan (f : Plan → Plan) (s : State) : State := setPlan s (selectedPlan s) (f (planOf s (selectedPlan s)))

/-- Plan Window (08 R273). -/
def obj2140 (s : State) : Nat → Option Obj :=
  let p := planOf s (selectedPlan s)
  fun
  | 1 => some (rw_ 2 s.eng.planSel.toNat fun v =>
      store (between 0 255 v) fun s => { s with eng := { s.eng with planSel := bv 16 v } })
  | 2 => some (command2 planLoad planUnload)
  | 3 => some (ro 1 (loadNum p.st))
  | 4 => some (rw_ 8 p.addr.toNat fun v => store (v % 64 == 0) (modPlan fun p => { p with addr := bv 64 v }))
  | 5 => some (rw_ 4 p.len.toNat fun v => store true (modPlan fun p => { p with len := bv 32 v }))
  | 6 => some (roW 1 p.last)
  | 7 => some (roW 2 p.format)
  | 8 => some (roW 4 p.costPatch)
  | 9 => some (roW 4 p.costToken)
  | 10 => some (roW 4 p.costTune)
  | 11 => some (ro 8 (p.streamMask.toNat * 2 ^ 32 + p.denseMask.toNat))
  | _ => none

/-- Pages In Use of a region (11 R557). -/
def pagesInUse (s : State) (r : Nat) : Nat :=
  match r with
  | 0 => backbonePages s
  | 1 => deltaPages s
  | 2 => (streamPages s).length
  | 3 => (if s.stream.nodes.isEmpty then 0 else regionHalf s 3 / 16 * 8) + trussStates s
  | 4 => lehrPages s
  | 5 => maskPages s
  | 6 => s.stream.staged.length
  | _ => 512

/-- HBM regions are written in Pre-operational while they hold nothing; the mortise shadow at any time in it (11 R375). -/
def regionCond (s : State) (r : Nat) : Option W16 :=
  match preop s with
  | some x => some x
  | none => if r ≠ 7 ∧ pagesInUse s r ≠ 0 then some 0 else none

def modRegion (r : Nat) (f : Region → Region) (s : State) : State :=
  let s := { s with stream := { s.stream with regions := s.stream.regions.modify r f } }
  if r = 7 then rewriteShadow s else s

def obj2200 (s : State) (r : Nat) : Nat → Option Obj :=
  let x := (s.stream.regions[r]?).getD ⟨0, 0, 0⟩
  fun
  | 1 => some (rwIf (regionCond s r) 4 x.base.toNat fun v => store true (modRegion r fun x => { x with base := bv 32 v }))
  | 2 => some (rwIf (regionCond s r) 4 x.pages.toNat fun v => store true (modRegion r fun x => { x with pages := bv 32 v }))
  | 3 => some (ro 4 (pagesInUse s r))
  | 4 => some (roW 8 x.copyWaits)
  | _ => none

def setStream (f : StreamState → StreamState) (s : State) : State := { s with stream := f s.stream }

/-- Truss (11 R354). -/
def obj2210 (s : State) : Nat → Option Obj :=
  let t := s.stream
  fun
  | 1 => some (rwP s 1 t.trussOn.toNat fun v => store (between 0 1 v) (setStream fun t => { t with trussOn := bv 8 v }))
  | 2 => some (rwP s 4 t.trussQuota.toNat fun v =>
      store (decide (v ≤ trussRoom s)) (setStream fun t => { t with trussQuota := bv 32 v }))
  | 3 => some (rwP s 1 t.trussK.toNat fun v => store (between 1 255 v) (setStream fun t => { t with trussK := bv 8 v }))
  | 4 => some (rwP s 1 t.trussScope.toNat fun v => store (between 0 1 v) (setStream fun t => { t with trussScope := bv 8 v }))
  | 5 => some (ro 4 t.nodes.length)
  | 6 => some (ro 4 (trussStates s))
  | 7 => some (roW 8 t.trussHits)
  | 8 => some (roW 8 t.trussEvict)
  | 9 => some (roW 8 t.trussFalse)
  | 10 => some (roW 8 t.trussSkip)
  | _ => none

/-- Cold Tier (11 R367). -/
def obj2211 (s : State) : Nat → Option Obj
  | 1 => some (roW 8 s.stream.coldMoves)
  | 2 => some (roW 8 s.stream.coldResumes)
  | 3 => some (roW 8 s.stream.coldExpired)
  | 4 => some (roW 8 s.stream.coldFull)
  | _ => none

def linkNum : Link → Nat
  | .down => 0
  | .training => 1
  | .up => 2

def obj2300 (p : Port) : Nat → Option Obj
  | 1 => some (ro 1 (linkNum p.link))
  | 2 => some (roW 1 p.width)
  | 3 => some (roW 4 p.corrected)
  | 4 => some (roW 4 p.detected)
  | 5 => some (roW 8 p.descs)
  | 6 => some (roW 8 p.bytesOut)
  | _ => none

def ringNum : RingSt → Nat
  | .unused => 0
  | .probing => 1
  | .up => 2
  | .failed => 3

def obj2308 (s : State) : Nat → Option Obj
  | 1 => some (ro 1 (ringNum s.mortise.ring))
  | 2 => some (roW 4 s.mortise.framesDropped)
  | 3 => some (roW 4 s.mortise.timeouts)
  | _ => none

def engineObjects (s : State) (i : Nat) : Option Entry :=
  if h : 0x2100 ≤ i ∧ i < 0x2138 then some (.record 9 (obj2100 s ⟨i - 0x2100, by omega⟩))
  else if between 0x2200 0x2207 i then some (.record 4 (obj2200 s (i - 0x2200)))
  else if between 0x2300 0x2307 i then some (.record 6 (obj2300 (portOf s (Fin.ofNat 8 (i - 0x2300)))))
  else match i with
  | 0x2140 => some (.record 11 (obj2140 s))
  | 0x2210 => some (.record 10 (obj2210 s))
  | 0x2211 => some (.record 4 (obj2211 s))
  | 0x2308 => some (.record 3 (obj2308 s))
  | _ => none

/-! ## Mortise: 0x2400 to 0x2410 (16 R480) -/

def setMort (f : MortiseState → MortiseState) (s : State) : State := { s with mortise := f s.mortise }
def setWin (f : MImage → MImage) : State → State := setMort fun m => { m with winImage := f m.winImage }

/-- Mortise Configuration (07 R240). -/
def obj2400 (s : State) : Nat → Option Obj
  | 1 => some (rwP s 1 s.mortise.size.toNat fun v =>
      store (between 1 4 v) (setMort fun m => { m with size := bv 8 v, ring := if v = 1 then .unused else m.ring }))
  | 2 => some (rwP s 1 s.mortise.position.toNat fun v => store (between 0 3 v) (setMort fun m => { m with position := bv 8 v }))
  | _ => none

/-- 0x2401:02. -/
def stepWrite (v : Nat) (s : State) : WriteRes :=
  match v with
  | 1 => invalidateStep s
  | 2 => writeStep s
  | 3 => validateStep s
  | _ => .abort abRange 0 s

/-- Update Window (07 R234). Entry State is the state that the last write of :01 loaded. -/
def obj2401 (s : State) (k : Nat) : Option Obj :=
  let m := s.mortise
  let w := m.winImage
  if between 3 10 k then
    let j := k - 3
    some (rw_ 8 ((w.hi.getD j 0).toNat * 2 ^ 32 + (w.lo.getD j 0).toNat) fun v =>
      store true (setWin fun w => { w with lo := w.lo.set j (bv 32 v), hi := w.hi.set j (bv 32 (v / 2 ^ 32)) }))
  else match k with
  | 1 => some (rw_ 4 m.winEntry.toNat fun v => windowEntry (bv 32 v))
  | 2 => some (wo 1 stepWrite)
  | 11 => some (rw_ 4 (w.priority.toNat * 2 ^ 16 + w.enables.toNat) fun v =>
      store (bitsOf v 8 8 == 0 && bitsOf v 28 4 == 0)
        (setWin fun w => { w with priority := bv 12 (v / 2 ^ 16), enables := bv 8 v }))
  | 12 => some (rw_ 8 w.action.toNat fun v => store true (setWin fun w => { w with action := bv 64 v }))
  | 13 => some (roW 1 m.winState)
  | _ => none

def bulkNum : BulkSt → Nat
  | .idle => 0
  | .running => 1
  | .done => 2
  | .failed => 3

/-- Bulk Update (07 R238). -/
def obj2402 (s : State) : Nat → Option Obj
  | 1 => some (rw_ 8 s.mortise.bulkAddr.toNat fun v => store (v % 64 == 0) (setMort fun m => { m with bulkAddr := bv 64 v }))
  | 2 => some (rw_ 4 s.mortise.bulkCount.toNat fun v =>
      store (between 1 262144 v) (setMort fun m => { m with bulkCount := bv 32 v }))
  | 3 => some (wo 1 fun v s => if v = 1 then bulkRun s else .abort abRange 0 s)
  | 4 => some (ro 1 (bulkNum s.mortise.bulkSt))
  | 5 => some (roW 4 s.mortise.bulkApplied)
  | 6 => some (roW 4 s.mortise.bulkFailing)
  | _ => none

def cursorNum : CursorSt → Nat
  | .none => 0
  | .valid => 1
  | .endd => 2
  | .busy => 3
  | .fault => 4

/-- A write of the cursor's key or window (07 R231). -/
def cursorSet (f : MortiseState → MortiseState) : State → State := setMort fun m => { f m with curSt := .none }

/-- Match Cursor (07 R230). -/
def obj2403 (s : State) (k : Nat) : Option Obj :=
  let m := s.mortise
  if between 1 8 k then
    some (rw_ 4 (m.curKey.getD (k - 1) 0).toNat fun v =>
      store true (cursorSet fun m => { m with curKey := m.curKey.set (k - 1) (bv 32 v) }))
  else match k with
  | 9 => some (rw_ 4 m.curTagBase.toNat fun v => store true (cursorSet fun m => { m with curTagBase := bv 32 v }))
  | 10 => some (rw_ 4 m.curTagLimit.toNat fun v => store true (cursorSet fun m => { m with curTagLimit := bv 32 v }))
  | 11 => some (command2 cursorFirst cursorNext)
  | 12 => some (ro 1 (cursorNum m.curSt))
  | 13 => some (roW 4 m.curIndex)
  | 14 => some (roW 2 m.curPriority)
  | 15 => some (roW 8 m.curAction)
  | 16 => some (ro 1 (boolBit m.curSuspect))
  | _ => none

/-- Key Capture (07 R233). -/
def obj2404 (s : State) : Nat → Option Obj
  | 1 => some (rw_ 4 s.mortise.capHandle.toNat fun v => store true (setMort fun m => { m with capHandle := bv 32 v }))
  | 2 => some (rw_ 4 s.mortise.capPosition.toNat fun v => store true (setMort fun m => { m with capPosition := bv 32 v }))
  | 3 => some (rw_ 1 s.mortise.capStage.toNat fun v => store (between 0 2 v) (setMort fun m => { m with capStage := bv 8 v }))
  | 4 => some (rw_ 1 s.mortise.capState.toNat fun v => keyArm (bv 8 v))
  | _ => none

/-- Scrub (07 R249). -/
def obj2410 (s : State) : Nat → Option Obj
  | 1 => some (rw_ 1 s.mortise.scrubOn.toNat fun v => store (between 0 1 v) (setMort fun m => { m with scrubOn := bv 8 v }))
  | 2 => some (rw_ 2 s.mortise.scrubInterval.toNat fun v =>
      store (between 128 381 v) (setMort fun m => { m with scrubInterval := bv 16 v }))
  | 3 => some (roW 8 s.mortise.sweeps)
  | 4 => some (roW 8 s.mortise.mismatches)
  | 5 => some (ro 4 (suspectCount s))
  | 6 => some (roW 4 s.mortise.lastMismatch)
  | _ => none

/-! ## Numbers: 0x2501 to 0x2520 (09 R315, R319; 10 R335 to R337) -/

def setEngs (f : EngineState → EngineState) (s : State) : State := { s with eng := f s.eng }
def setCalS (f : CalState → CalState) (s : State) : State := { s with cal := f s.cal }

/-- 0x2501:01: the newest entries of every window stay (10 R335). -/
def windowN (v : Nat) (c : CalState) : CalState :=
  { c with windowN := bv 8 v
           slots := Tbl.mapVals {} (fun _ x => { x with window := x.window.drop (x.window.length - v) }) c.slots }

def obj2503 (s : State) : Nat → Option Obj
  | 1 => some (rwP s 2 s.eng.escapeMult.toNat fun v =>
      store (v == 0 || decide (256 ≤ v)) (setEngs fun e => { e with escapeMult := bv 16 v }))
  | 2 => some (rwP s 1 s.eng.culletCap.toNat fun v => store (between 1 8 v) (setEngs fun e => { e with culletCap := bv 8 v }))
  | _ => none

def obj2510 (s : State) (k : Nat) : Option Obj :=
  match k with
  | 5 => some (roW 8 s.cal.dropped)
  | 6 => some (roW 8 s.cal.written)
  | _ => ringObj s s.cal.ring (fun f => setCalS fun c => { c with ring := f c.ring }) k

/-- Calibration Slot Window (10 R336). -/
def obj2520 (s : State) : Nat → Option Obj :=
  let c := calOf s s.cal.sel.toNat
  fun
  | 1 => some (rw_ 2 s.cal.sel.toNat fun v => store true (setCalS fun c => { c with sel := bv 16 v }))
  | 2 => some (roW 1 c.owner)
  | 3 => some (roW 1 c.fmt)
  | 4 => some (roW 2 c.floor)
  | 5 => some (roW 2 c.scale)
  | 6 => some (roW 2 c.next)
  | 7 => some (roW 4 (f32Word (f32Round (windowMax c.window))))
  | 8 => some (roW 8 c.sats)
  | 9 => some (roW 4 c.triggers)
  | _ => none

/-! ## Text: 0x2600 to 0x2680 (06 R177, R188, R191, R195, R208) -/

def setText (f : TextState → TextState) (s : State) : State := { s with text := f s.text }
def modVocab (v : Fin 8) (f : Vocab → Vocab) (s : State) : State := setVocab s v (f (vocabOf s v))
def modGrammar (g : Fin 64) (f : Grammar → Grammar) (s : State) : State := setGrammar s g (f (grammarOf s g))

/-- A vocabulary slot is in use: it loads, or a request not in FREE names it (06 R217, R180; log 98). -/
def vocabInUse (s : State) (v : Fin 8) : Bool :=
  (vocabOf s v).st == .loading || anyReq s (fun r => r.vocab == v)
/-- A grammar slot is in use: it loads, or a request not in FREE walks its image (06 R217, R180; log 98). -/
def grammarInUse (s : State) (g : Fin 64) : Bool :=
  (grammarOf s g).st == .loading || anyReq s (fun r => r.grammarEnable && r.grammar == g)
/-- A value out of its range aborts first; then the slot's use (15 R466). -/
def storeFree (ok used : Bool) (f : State → State) (s : State) : WriteRes :=
  if ok then guardWrite s used rsInUse fun s => .ok (f s) else .abort abRange 0 s

def obj2610 (s : State) (v : Fin 8) : Nat → Option Obj :=
  let x := vocabOf s v
  fun
  | 1 => some (command2 (fun s => vocabLoad s v) fun s => vocabUnload s v)
  | 2 => some (ro 1 (loadNum x.st))
  | 3 => some (rw_ 8 x.addr.toNat fun n =>
      storeFree (n % 64 == 0) (vocabInUse s v) (modVocab v fun x => { x with addr := bv 64 n }))
  | 4 => some (rw_ 4 x.len.toNat fun n =>
      storeFree true (vocabInUse s v) (modVocab v fun x => { x with len := bv 32 n }))
  | 5 => some (roW 4 x.idCount)
  | 6 => some (ro 4 (sramEntries s v))
  | 7 => some (ro 4 (overflowEntries s v))
  | 8 => some (roW 1 x.last)
  | _ => none

def obj2620 (s : State) (g : Fin 64) : Nat → Option Obj :=
  let x := grammarOf s g
  fun
  | 1 => some (command2 (fun s => grammarLoad s g) fun s => grammarUnload s g)
  | 2 => some (ro 1 (loadNum x.st))
  | 3 => some (rw_ 8 x.addr.toNat fun n =>
      storeFree (n % 64 == 0) (grammarInUse s g) (modGrammar g fun x => { x with addr := bv 64 n }))
  | 4 => some (rw_ 4 x.len.toNat fun n =>
      storeFree true (grammarInUse s g) (modGrammar g fun x => { x with len := bv 32 n }))
  | 5 => some (rw_ 1 x.vocab.toNat fun n =>
      storeFree (between 0 7 n) (grammarInUse s g) (modGrammar g fun x => { x with vocab := bv 8 n }))
  | 6 => some (ro 4 (if x.st = .loaded then gMasks x.image else 0))
  | 7 => some (ro 4 (if x.st = .loaded then (gFallback x.image).toNat else 0xFFFFFFFF))
  | 8 => some (roW 1 x.last)
  | _ => none

/-- The strings of a stop set value; none where a length is 0 or above 128 or the value ends inside an entry. -/
def readStrings : Nat → List Byte → Option (List (List Byte))
  | 0, _ => none
  | _ + 1, [] => some []
  | fuel + 1, n :: t =>
    if n = 0 ∨ 128 < n.toNat ∨ t.length < n.toNat then none
    else (readStrings fuel (t.drop n.toNat)).map fun l => t.take n.toNat :: l

def stringBytes (l : List (List Byte)) : List Byte := l.flatMap fun x => BitVec.ofNat 8 x.length :: x

def selectedStops (s : State) : StopSet := Tbl.get {} s.text.stopSets s.text.stopSel.toNat
def modStops (f : StopSet → StopSet) (s : State) : State :=
  setText (fun t => { t with stopSets := Tbl.put {} t.stopSets t.stopSel.toNat (f (selectedStops s)) }) s
/-- The selected set is named by a request not in FREE. -/
def stopsUsed (s : State) : Bool := anyReq s fun r => r.stopSet == s.text.stopSel

/-- Stop Set Window (06 R188). -/
def obj2660 (s : State) : Nat → Option Obj :=
  let x := selectedStops s
  fun
  | 1 => some (rw_ 1 s.text.stopSel.toNat fun v => store (between 0 254 v) (setText fun t => { t with stopSel := bv 8 v }))
  | 2 => some (rw_ 1 (boolBit x.includeIt) fun v s =>
      if 1 < v then .abort abRange 0 s
      else guardWrite s (stopsUsed s) rsInUse fun s => .ok (modStops (fun x => { x with includeIt := v == 1 }) s))
  | 3 => some
      { value := some (stringBytes x.strings), len := none
        write := some fun b s => match readStrings 65 b with
          | none => .abort abRange 0 s
          | some l => guardWrite s (stopsUsed s) rsInUse fun s => .ok (modStops (fun x => { x with strings := l }) s) }
  | 4 => some (ro 1 x.strings.length)
  | _ => none

/-- Mask Area: written while no grammar image is LOADED (06 R208). -/
def obj2680 (s : State) : Nat → Option Obj :=
  let t := s.text
  let c : Option W16 := if t.grammars.any (fun e => e.2.st == .loaded) then some 0 else none
  fun
  | 1 => some (rwIf c 8 t.poolBase.toNat fun v => store (v % 4096 == 0) (setText fun t => { t with poolBase := bv 64 v }))
  | 2 => some (rwIf c 4 t.slotsPerParity.toNat fun v =>
      store (between 1 65536 v) (setText fun t => { t with slotsPerParity := bv 32 v }))
  | 3 => some (rwIf c 4 t.slotSize.toNat fun v => store (v % 64 == 0) (setText fun t => { t with slotSize := bv 32 v }))
  | 4 => some (rwIf c 8 t.indexBase.toNat fun v => store (v % 4096 == 0) (setText fun t => { t with indexBase := bv 64 v }))
  | _ => none

def unitObjects (s : State) (i : Nat) : Option Entry :=
  if between 0x2610 0x2617 i then some (.record 8 (obj2610 s (Fin.ofNat 8 (i - 0x2610))))
  else if between 0x2620 0x265F i then some (.record 8 (obj2620 s (Fin.ofNat 64 (i - 0x2620))))
  else match i with
  | 0x2400 => some (.record 2 (obj2400 s))
  | 0x2401 => some (.record 13 (obj2401 s))
  | 0x2402 => some (.record 6 (obj2402 s))
  | 0x2403 => some (.record 16 (obj2403 s))
  | 0x2404 => some (.record 4 (obj2404 s))
  | 0x2410 => some (.record 6 (obj2410 s))
  | 0x2501 => some (.record 1 (only 1 (rwP s 1 s.cal.windowN.toNat fun v => store (between 1 16 v) (setCalS (windowN v)))))
  | 0x2502 => some (.record 1 (only 1 (rwP s 2 s.cal.headroom.toNat fun v =>
      store (between 256 1024 v) (setCalS fun c => { c with headroom := bv 16 v }))))
  | 0x2503 => some (.record 2 (obj2503 s))
  | 0x2504 => some (.record 1 (only 1 (rwP s 4 s.cal.trigger.toNat fun v =>
      store true (setCalS fun c => { c with trigger := bv 32 v }))))
  | 0x2505 => some (.record 12 fun k => if between 1 12 k then some (roW 8 (cnt s.eng.numeric k)) else none)
  | 0x2510 => some (.record 6 (obj2510 s))
  | 0x2520 => some (.record 9 (obj2520 s))
  | 0x2600 => some (.record 8 fun k => if between 1 8 k then some (roW 8 (cnt s.text.counters k)) else none)
  | 0x2660 => some (.record 4 (obj2660 s))
  | 0x2670 => some (.record 1 (only 1 (rwP s 1 s.text.utf8Hold.toNat fun v =>
      store (between 0 1 v) (setText fun t => { t with utf8Hold := bv 8 v }))))
  | 0x2680 => some (.record 4 (obj2680 s))
  | _ => none

end Sys2Proof.Machine
end

