-- ==== Sys2Proof/Machine/Windows.lean ====
section
/-! DEFINITION. The objects of tuning, checkpoints, tenants, policies, functions, the Zwiup view and telemetry
(16 R481, R485 to R490 and the rules they name). -/
namespace Sys2Proof.Machine
open Sys2Proof

/-! ## Tuning: 0x2700 to 0x2720 (13 R407, R412, R413, R420) -/

def setTune (f : TuneState → TuneState) (s : State) : State := { s with tune := f s.tune }

/-- Tuning Control. -/
def obj2700 (s : State) : Nat → Option Obj :=
  let t := s.tune
  fun
  | 1 => some (rw_ 1 t.enable.toNat fun v => tuningEnable (bv 8 v))
  | 2 => some (rwP s 2 t.patches.toNat fun v => store (between 1 4096 v) (setTune fun t => { t with patches := bv 16 v }))
  | 3 => some (rwP s 1 t.fillTicks.toNat fun v => store (between 1 255 v) (setTune fun t => { t with fillTicks := bv 8 v }))
  | 4 => some (rw_ 1 t.stalePolicy.toNat fun v => store (between 0 1 v) (setTune fun t => { t with stalePolicy := bv 8 v }))
  | 5 => some (rwP s 16 t.seed.toNat fun v => store true (setTune fun t => { t with seed := bv 128 v }))
  | 6 => some (ro 4 t.queue.length)
  | 7 => some (roW 8 t.position)
  | 8 => some (roW 8 t.nextSeq)
  | _ => none

/-- The value of a REAL32 that is a number, with a test of it. -/
def real (v : Nat) (ok : Rat → Bool) : Bool :=
  match f32Read (bv 32 v) with
  | .fin q => ok q
  | _ => false

/-- Optimiser. -/
def obj2701 (s : State) : Nat → Option Obj :=
  let t := s.tune
  fun
  | 1 => some (rw_ 4 t.lr.toNat fun v =>
      store (real v fun q => decide (0 < q) && decide (q ≤ 1)) (setTune fun t => { t with lr := bv 32 v }))
  | 2 => some (rw_ 4 t.beta1.toNat fun v =>
      store (real v fun q => decide (0 ≤ q) && decide (q < 1)) (setTune fun t => { t with beta1 := bv 32 v }))
  | 3 => some (rw_ 4 t.beta2.toNat fun v =>
      store (real v fun q => decide (0 ≤ q) && decide (q < 1)) (setTune fun t => { t with beta2 := bv 32 v }))
  | 4 => some (rw_ 4 t.eps.toNat fun v => store (real v fun q => decide (0 < q)) (setTune fun t => { t with eps := bv 32 v }))
  | 5 => some (rw_ 4 t.decay.toNat fun v => store (real v fun q => decide (0 ≤ q)) (setTune fun t => { t with decay := bv 32 v }))
  | _ => none

/-- Lehr. -/
def obj2702 (s : State) : Nat → Option Obj
  | 1 => some (rwP s 4 s.tune.watermark.toNat fun v =>
      store (between 1048576 16777216 v && v % 65536 == 0) (setTune fun t => { t with watermark := bv 32 v }))
  | 2 => some (ro 4 (lehrSram s))
  | 3 => some (ro 4 (lehrPages s))
  | _ => none

def stagingNumOf : StagingSt → Nat
  | .empty => 0
  | .loading => 1
  | .cutting => 2
  | .ready => 3

def modSet (f : DeltaSet → DeltaSet) (s : State) : State := setDset s (selectedSet s) (f (dsetOf s (selectedSet s)))

/-- 0x2710:02. -/
def deltaCommand (v : Nat) (s : State) : WriteRes :=
  match v with
  | 1 => deltaLoad s
  | 2 => deltaCut s
  | 3 => dropStaging s
  | 4 => deltaDelete s
  | _ => .abort abRange 0 s

def pubNum (p : Option Pub) : W32 := ((p.map (·.version)).getD 0)

/-- Delta Set Window. -/
def obj2710 (s : State) : Nat → Option Obj :=
  let d := dsetOf s (selectedSet s)
  fun
  | 1 => some (rw_ 2 s.tune.setSel.toNat fun v => store (between 0 1023 v) (setTune fun t => { t with setSel := bv 16 v }))
  | 2 => some (wo 1 deltaCommand)
  | 3 => some (rw_ 8 d.addr.toNat fun v => store (v % 64 == 0) (modSet fun d => { d with addr := bv 64 v }))
  | 4 => some (rw_ 4 d.len.toNat fun v => store true (modSet fun d => { d with len := bv 32 v }))
  | 5 => some (rw_ 4 d.loadVersion.toNat fun v => store true (modSet fun d => { d with loadVersion := bv 32 v }))
  | 6 => some (ro 1 (stagingNumOf d.staging))
  | 7 => some (roW 4 d.stagingNum)
  | 8 => some (roW 4 (setCurrentNum d))
  | 9 => some (roW 4 ((d.previous.map (·.version)).getD 0))
  | 10 => some (roW 4 (pubNum d.pending))
  | 11 => some (rw_ 1 d.tuning.toNat fun v => setTuning (bv 8 v))
  | 12 => some (rw_ 1 d.tuningPlan.toNat fun v => store true (modSet fun d => { d with tuningPlan := bv 8 v }))
  | 13 => some (rw_ 2 d.autoCut.toNat fun v => store true (modSet fun d => { d with autoCut := bv 16 v }))
  | 14 => some (rw_ 1 d.autoPublish.toNat fun v => store (between 0 1 v) (modSet fun d => { d with autoPublish := bv 8 v }))
  | 15 => some (roW 1 d.last)
  | 16 => some (roW 8 d.steps)
  | 17 => some (roW 2 d.calBlock)
  | _ => none

def otherNum : OtherSt → Nat
  | .empty => 0
  | .loading => 1
  | .ready => 2
  | .previous => 3

def modScreen (f : Screen → Screen) (s : State) : State := setScreen s (selectedScreen s) (f (screenOf s (selectedScreen s)))

/-- Backbone Screen Window. -/
def obj2720 (s : State) : Nat → Option Obj :=
  let x := screenOf s (selectedScreen s)
  fun
  | 1 => some (rw_ 2 s.tune.screenSel.toNat fun v =>
      store (between 0 1023 v) (setTune fun t => { t with screenSel := bv 16 v }))
  | 2 => some (command2 backboneLoad dropOther)
  | 3 => some (rw_ 8 x.addr.toNat fun v => store (v % 64 == 0) (modScreen fun x => { x with addr := bv 64 v }))
  | 4 => some (rw_ 4 x.len.toNat fun v => store true (modScreen fun x => { x with len := bv 32 v }))
  | 5 => some (rw_ 4 x.loadVersion.toNat fun v => store true (modScreen fun x => { x with loadVersion := bv 32 v }))
  | 6 => some (ro 1 (otherNum x.other))
  | 7 => some (roW 4 x.otherV)
  | 8 => some (roW 4 x.current)
  | 9 => some (roW 1 x.last)
  | _ => none

/-! ## Checkpoint: 0x2800 to 0x2803 (14 R436, R443) -/

def ckNum : CkState → Nat
  | .idle => 0
  | .snapshotPending => 1
  | .writing => 2
  | .restoring => 3
  | .awaitingAck => 4

/-- 0x2800:01. The fragments that the slots hold are host memory's (log 27). -/
def ckptCommand (v : Nat) (s : State) : WriteRes :=
  match v with
  | 1 =>
    match checkpointCmd (Config.hostFragment false s.time.freeIdx) (Config.hostFragment true s.time.freeIdx) s with
    | .ok s => .ok { s with time := { s.time with freeIdx := s.time.freeIdx + 1 } }
    | r => r
  | 2 => restoreCmd s
  | _ => .abort abRange 0 s

def obj2800 (s : State) : Nat → Option Obj :=
  let c := s.ckpt
  fun
  | 1 => some (wo 1 ckptCommand)
  | 2 => some (ro 1 (ckNum c.st))
  | 3 => some (roW 1 c.last)
  | 4 => some (roW 8 c.snapTick)
  | 5 => some (roW 8 c.sequence)
  | 6 => some (roW 1 c.lastSlot)
  | 7 => some (roW 2 c.skipped)
  | _ => none

def setCkpt (f : CkptState → CkptState) (s : State) : State := { s with ckpt := f s.ckpt }

/-- A slot setting: 4 KiB steps, while State is IDLE. -/
def ckptSlot (v : Nat) (f : CkptState → CkptState) (s : State) : WriteRes :=
  if v % 4096 ≠ 0 then .abort abRange 0 s
  else guardWrite s (s.ckpt.st != .idle) rsBusy fun s => .ok (setCkpt f s)

def obj2801 (s : State) : Nat → Option Obj
  | 1 => some (rw_ 8 s.ckpt.baseA.toNat fun v => ckptSlot v fun c => { c with baseA := bv 64 v })
  | 2 => some (rw_ 8 s.ckpt.sizeA.toNat fun v => ckptSlot v fun c => { c with sizeA := bv 64 v })
  | _ => none

def obj2802 (s : State) : Nat → Option Obj
  | 1 => some (rw_ 8 s.ckpt.baseB.toNat fun v => ckptSlot v fun c => { c with baseB := bv 64 v })
  | 2 => some (rw_ 8 s.ckpt.sizeB.toNat fun v => ckptSlot v fun c => { c with sizeB := bv 64 v })
  | _ => none

def obj2803 (s : State) : Nat → Option Obj
  | 1 => some (wo 2 fun v => foreignAck (bv 16 v))
  | 2 => some (roBytes (leBytes 48 s.ckpt.foreign.toNat))
  | _ => none

def tuneObjects (s : State) (i : Nat) : Option Entry :=
  match i with
  | 0x2700 => some (.record 8 (obj2700 s))
  | 0x2701 => some (.record 5 (obj2701 s))
  | 0x2702 => some (.record 3 (obj2702 s))
  | 0x2703 => some (.record 13 fun k => if between 1 13 k then some (roW 8 (cnt s.tune.counters k)) else none)
  | 0x2710 => some (.record 17 (obj2710 s))
  | 0x2720 => some (.record 9 (obj2720 s))
  | 0x2800 => some (.record 7 (obj2800 s))
  | 0x2801 => some (.record 2 (obj2801 s))
  | 0x2802 => some (.record 2 (obj2802 s))
  | 0x2803 => some (.record 2 (obj2803 s))
  | _ => none

/-! ## Tenants and policies: 0x3000 to 0x3100 (12 R377 to R382, R390) -/

def selectedTenant (s : State) : BitVec 14 := s.acct.tenantSel.truncate 14
def modTenant (f : Tenant → Tenant) (s : State) : State :=
  setTenant s (selectedTenant s) (f (tenantOf s (selectedTenant s)))
def setAcct (f : Accounts → Accounts) (s : State) : State := { s with acct := f s.acct }

/-- Requests of a tenant not in FREE, and the cold slots they hold. -/
def tenantOpen (s : State) (t : BitVec 14) : Nat := (s.req.table.filter fun e => e.2.tenant == t).length
def tenantCold (s : State) (t : BitVec 14) : Nat :=
  (s.req.table.filter fun e => e.2.tenant == t && e.2.coldSt.slot?.isSome).length

/-- 0x3000:02 (R379). -/
def tenantValid (value : Byte) (s : State) : WriteRes :=
  let t := selectedTenant s
  if 1 < value.toNat then .abort abRange 0 s
  else if value = 0 then
    guardWrite s (decide (0 < tenantOpen s t)) rsInUse fun s => .ok (modTenant (fun x => { x with valid := false }) s)
  else if (tenantOf s t).valid then .ok s
  else
    .ok (modTenant (fun x => { x with
      valid := true, deficit := 0, bucket := 256 * (max x.budgetNow.toNat x.burstNow.toNat : Nat) }) s)

def execTenantValidWrite (path : Path) (value : Byte) (s : State) : Host.Outcome State Fault Refusal :=
  mgmtWrite s path 0x3000 2 (tenantValid value)

/-- A policy range is well formed (R377). -/
def rangeGood (v : Nat) : Bool := bitsOf v 29 3 == 0 && bitsOf v 12 4 == 0 && decide (bitsOf v 16 13 ≤ 4096)

/-- Tenant Window. -/
def obj3000 (s : State) (k : Nat) : Option Obj :=
  let t := selectedTenant s
  let x := tenantOf s t
  if between 7 10 k then
    some (rw_ 4 (Tbl.get 0 x.ranges k).toNat fun v =>
      store (rangeGood v) (modTenant fun x => { x with ranges := Tbl.put 0 x.ranges k (bv 32 v) }))
  else match k with
  | 1 => some (rw_ 2 s.acct.tenantSel.toNat fun v => store (between 0 16383 v) (setAcct fun a => { a with tenantSel := bv 16 v }))
  | 2 => some (rw_ 1 (boolBit x.valid) fun v => tenantValid (bv 8 v))
  | 3 => some (rw_ 4 x.budget.toNat fun v => store true (modTenant fun x => { x with budget := bv 32 v }))
  | 4 => some (rw_ 4 x.burst.toNat fun v => store true (modTenant fun x => { x with burst := bv 32 v }))
  | 5 => some (rw_ 1 x.weight.toNat fun v => store (between 1 255 v) (modTenant fun x => { x with weight := bv 8 v }))
  | 6 => some (rw_ 1 x.classes.toNat fun v => store (between 0 3 v) (modTenant fun x => { x with classes := bv 8 v }))
  | 11 => some (rw_ 4 x.coldTtl.toNat fun v =>
      store (between 1 86400000 v) (modTenant fun x => { x with coldTtl := bv 32 v }))
  | 12 => some (rw_ 8 x.coldBase.toNat fun v s =>
      if v % 1048576 ≠ 0 then .abort abRange 0 s
      else guardWrite s (decide (0 < tenantCold s t)) rsInUse fun s =>
        .ok (modTenant (fun x => { x with coldBase := bv 64 v }) s))
  | 13 => some (rw_ 4 x.coldSlots.toNat fun v s =>
      if 1048576 < v then .abort abRange 0 s
      else guardWrite s (decide (v < tenantCold s t)) rsInUse fun s =>
        .ok (modTenant (fun x => { x with coldSlots := bv 32 v }) s))
  | 14 => some (roW 8 (BitVec.ofInt 64 (x.bucket / 256)))
  | 15 => some (ro 4 (x.deficit / 256))
  | 16 => some (ro 8 (x.charged / 256))
  | 17 => some (roW 8 x.waits)
  | 18 => some (ro 4 (tenantOpen s t))
  | _ => none

def obj3010 (s : State) : Nat → Option Obj
  | 1 => some (rw_ 4 s.acct.quantum.toNat fun v =>
      store (between 1 16777215 v) (setAcct fun a => { a with quantum := bv 32 v }))
  | 2 => some (roW 4 s.acct.capacity)
  | 3 => some (roW 2 s.acct.lastServed)
  | _ => none

def selectedPolicy (s : State) : BitVec 12 := s.acct.policySel.truncate 12
def modPolicy (f : Policy → Policy) (s : State) : State :=
  setPolicy s (selectedPolicy s) (f (policyOf s (selectedPolicy s)))
def policyOpen (s : State) (p : BitVec 12) : Nat := (s.req.table.filter fun e => e.2.policy == p).length

/-- 0x3100:02 (R382). -/
def policyValid (v : Nat) (s : State) : WriteRes :=
  if 1 < v then .abort abRange 0 s
  else guardWrite s (v == 0 && decide (0 < policyOpen s (selectedPolicy s))) rsInUse fun s =>
    .ok (modPolicy (fun p => { p with valid := v == 1 }) s)

/-- Policy Window. -/
def obj3100 (s : State) : Nat → Option Obj :=
  let p := policyOf s (selectedPolicy s)
  fun
  | 1 => some (rw_ 2 s.acct.policySel.toNat fun v => store (between 0 4095 v) (setAcct fun a => { a with policySel := bv 16 v }))
  | 2 => some (rw_ 1 (boolBit p.valid) policyValid)
  | 3 => some (rw_ 4 p.screens.toNat fun v => store true (modPolicy fun p => { p with screens := bv 32 v }))
  | 4 => some (rw_ 2 p.deltaSet.toNat fun v =>
      store (v == 0xFFFF || between 0 1023 v) (modPolicy fun p => { p with deltaSet := bv 16 v }))
  | 5 => some (roW 4 p.deltaVersion)
  | 6 => some (rw_ 8 (p.tagLimit.toNat * 2 ^ 32 + p.tagBase.toNat) fun v =>
      store true (modPolicy fun p => { p with tagBase := bv 32 v, tagLimit := bv 32 (v / 2 ^ 32) }))
  | 7 => some (rw_ 32 p.stopSets.toNat fun v => store (decide (v < 2 ^ 255)) (modPolicy fun p => { p with stopSets := bv 256 v }))
  | 8 => some (rw_ 8 p.grammars.toNat fun v => store true (modPolicy fun p => { p with grammars := bv 64 v }))
  | 9 => some (ro 4 (policyOpen s (selectedPolicy s)))
  | _ => none

/-! ## Functions: 0x4000 to 0x47FF (16 R486; 04 R122 to R124) -/

/-- rws objects (04 R123). -/
def rwsCond (s : State) (f : Fin 64) : Option W16 :=
  let x := (fnOf s f).st
  if s.mgmt.nmt ≠ .preOperational ∧ (x = .starting ∨ x = .running ∨ x = .stopping) then some rsActive else none

def rws (s : State) (f : Fin 64) (n v : Nat) (g : Nat → FnSet → FnSet) : Obj :=
  rwIf (rwsCond s f) n v fun x => store true fun s => modFn s f fun y => { y with set := g x y.set }

/-- F+0x00. -/
def fnControl (s : State) (f : Fin 64) : Nat → Option Obj :=
  let x := fnOf s f
  fun
  | 1 => some (command2 (functionStart f) (functionStop f))
  | 2 => some (ro 1 (match x.st with
      | .idle => 0
      | .starting => 1
      | .running => 2
      | .stopping => 3
      | .stopped => 4))
  | 3 => some (roW 1 x.lastStart)
  | _ => none

/-- The objects of function slot f, by index less F. -/
def fnObjects (s : State) (f : Fin 64) (k : Nat) : Option Entry :=
  let c := (fnOf s f).set
  let w {n : Nat} (len : Nat) (v : BitVec n) (g : Nat → FnSet → FnSet) : Option Obj := some (rws s f len v.toNat g)
  match k with
  | 0 => some (.record 3 (fnControl s f))
  | 1 => some (.record 1 fun
    | 1 => w 1 c.plan fun v c => { c with plan := bv 8 v }
    | _ => none)
  | 2 => some (.record 3 fun
    | 1 => w 1 c.mode fun v c => { c with mode := bv 8 v }
    | 2 => w 1 c.lag fun v c => { c with lag := bv 8 v }
    | 3 => w 8 c.defaultAction fun v c => { c with defaultAction := bv 64 v }
    | _ => none)
  | 3 => some (.record 2 fun
    | 1 => w 1 c.dp fun v c => { c with dp := bv 8 v }
    | 2 => w 1 c.dw fun v c => { c with dw := bv 8 v }
    | _ => none)
  | 4 => some (.record 1 fun
    | 1 => w 1 c.faultPref fun v c => { c with faultPref := bv 8 v }
    | _ => none)
  | 5 => some (.record 1 fun
    | 1 => w 2 c.parkLimit fun v c => { c with parkLimit := bv 16 v }
    | _ => none)
  | 6 => some (.record 4 fun
    | 1 => w 1 c.share fun v c => { c with share := bv 8 v }
    | 2 => w 1 c.margin fun v c => { c with margin := bv 8 v }
    | 3 => w 4 c.estimate fun v c => { c with estimate := bv 32 v }
    | 4 => w 2 c.latencyLimit fun v c => { c with latencyLimit := bv 16 v }
    | _ => none)
  | 7 => some (.record 14 fun j => if between 1 14 j then some (roW 8 (cnt (fnOf s f).stats j)) else none)
  | 8 => some (.record 4 fun
    | 1 => w 1 c.pinMode fun v c => { c with pinMode := bv 8 v }
    | 2 => w 2 c.pinLimit fun v c => { c with pinLimit := bv 16 v }
    | 3 => w 4 c.pinPrompt fun v c => { c with pinPrompt := bv 32 v }
    | 4 => w 4 c.pinWatcher fun v c => { c with pinWatcher := bv 32 v }
    | _ => none)
  | _ => none

/-! ## The Zwiup view: 0x5000 to 0x5FFF (16 R488 to R490) -/

def setView (f : ViewState → ViewState) (s : State) : State := { s with view := f s.view }
def regionUnit (s : State) (r : Nat) : ViewUnit := Tbl.get {} s.view.regions r
def blockUnit (s : State) (b : Nat) : ViewUnit := Tbl.get {} s.view.blocks b
def blockOut (s : State) (b : Nat) : Bool := !(engOf s b).pool

/-- A Summary byte; `out` is bit 2. -/
def ViewUnit.summary (u : ViewUnit) (out : Bool) : Nat := boolBit u.sawC + 2 * boolBit u.sawD + 4 * boolBit out

/-- Priority, Corrected, Detected and Summary of a unit. -/
def unitObj (s : State) (u : ViewUnit) (out : Bool) (set : Byte → State → State) : Nat → Option Obj
  | 1 => some (rwP s 1 u.priority.toNat fun v => store (between 0 7 v) (set (bv 8 v)))
  | 2 => some (roW 4 u.corrected)
  | 3 => some (roW 4 u.detected)
  | 4 => some (ro 1 (u.summary out))
  | _ => none

def setRegionPrio (r : Nat) (p : Byte) : State → State :=
  setView fun v => { v with regions := Tbl.put {} v.regions r { (Tbl.get ({} : ViewUnit) v.regions r) with priority := p } }
def setBlockPrio (b : Nat) (p : Byte) : State → State :=
  setView fun v => { v with blocks := Tbl.put {} v.blocks b { (Tbl.get ({} : ViewUnit) v.blocks b) with priority := p } }
def setCellPrio (k : Nat) (p : Byte) : State → State :=
  setView fun v => { v with cells := Tbl.put {} v.cells k { (Tbl.get ({} : ViewUnit) v.cells k) with priority := p } }

def cellKey (s : State) : Nat := s.view.cellBlock.toNat * 256 + s.view.cellSel.toNat

/-- Cells: the selected one. -/
def obj5300 (s : State) : Nat → Option Obj :=
  let u : ViewUnit := Tbl.get {} s.view.cells (cellKey s)
  fun
  | 1 => some (rw_ 1 s.view.cellBlock.toNat fun v => store (between 0 47 v) (setView fun x => { x with cellBlock := bv 8 v }))
  | 2 => some (rw_ 2 s.view.cellSel.toNat fun v =>
      store (between 0 (if s.view.cellBlock.toNat < 32 then 255 else 127) v) (setView fun x => { x with cellSel := bv 16 v }))
  | 3 => some (rwP s 1 u.priority.toNat fun v => store (between 0 7 v) (setCellPrio (cellKey s) (bv 8 v)))
  | 4 => some (roW 2 u.corrected)
  | 5 => some (roW 2 u.detected)
  | 6 => some (ro 1 (u.summary false))
  | _ => none

def viewObjects (s : State) (i : Nat) : Option Entry :=
  if between 0x5100 0x5107 i then
    let r := i - 0x5100
    some (.record 4 (unitObj s (regionUnit s r) ((bentEngines r).any (blockOut s)) (setRegionPrio r)))
  else if between 0x5200 0x5237 i then
    let b := i - 0x5200
    some (.record 4 (unitObj s (blockUnit s b) (blockOut s b) (setBlockPrio b)))
  else match i with
  | 0x5000 => some (.record 2 fun
    | 1 => some (rw_ 1 s.view.summaries.toNat fun v => store (between 0 1 v) (setView fun x => { x with summaries := bv 8 v }))
    | 2 => some (rwP s 1 s.view.arbitration.toNat fun v =>
        store (between 0 1 v) (setView fun x => { x with arbitration := bv 8 v }))
    | _ => none)
  | 0x5010 => some (.record 4 (unitObj s s.view.chip false
      fun p => setView fun v => { v with chip := { v.chip with priority := p } }))
  | 0x5300 => some (.record 6 (obj5300 s))
  | _ => none

/-! ## The whole dictionary (16 R474, R475) -/

/-- The entry at an index; none when it is absent. -/
def entryAt (s : State) (path : Path) (i : Nat) : Option Entry :=
  if i < 0x2000 then commObjects s i
  else if i < 0x2100 then nodeObjects s path i
  else if i < 0x2400 then engineObjects s i
  else if i < 0x2700 then unitObjects s i
  else if i < 0x2900 then tuneObjects s i
  else if i < 0x3000 then errorObjects s i
  else if i < 0x4000 then
    match i with
    | 0x3000 => some (.record 18 (obj3000 s))
    | 0x3010 => some (.record 3 (obj3010 s))
    | 0x3100 => some (.record 9 (obj3100 s))
    | _ => none
  else if i < 0x4800 then fnObjects s (Fin.ofNat 64 ((i - 0x4000) / 32)) (i % 32)
  else if i < 0x6000 then viewObjects s i
  else if i < 0x600A then
    some (.record 1 (only 1 (ro (telemetrySize (i - 0x6000)) (Tbl.get 0 s.mgmt.telemetry (i - 0x6000)).toNat)))
  else none

/-- The object at a subindex of an entry: :00 holds the highest subindex (16 R475). -/
def Entry.at (e : Entry) (k : Nat) : Option Obj :=
  match e with
  | .var o => if k = 0 then some o else none
  | .record top f => if k = 0 then some (ro 1 top) else f k
  | .array head f => if k = 0 then some head else f k

end Sys2Proof.Machine
end

