-- ==== Sys2Proof/Machine/Manage.lean ====
section
/-! DEFINITION. USDO requests on the two paths, the mailbox, the load of global time (15 R457 to R467; 18 R516 to
R519). -/
namespace Sys2Proof.Machine
open Sys2Proof

/-! ## Access (15 R466) -/

/-- The first two rows of R466, and the bring-up objects in Initialisation (19 R543). -/
def findObj (s : State) (path : Path) (index : W16) (sub : Byte) : Obj ⊕ W32 :=
  match entryAt s path index.toNat with
  | none => .inr abNoIndex
  | some e => match e.at sub.toNat with
    | none => .inr abNoSub
    | some o => if s.mgmt.nmt = .initialisation ∧ ¬ bringUp index sub then .inr abState else .inl o

/-- A read: the bytes, or the abort code. -/
def dictRead (s : State) (path : Path) (index : W16) (sub : Byte) : List Byte ⊕ W32 :=
  match findObj s path index sub with
  | .inr code => .inr code
  | .inl o => match o.value with
    | none => .inr abWriteOnly
    | some b => .inl b

/-- The rows of R466 that a download meets before its value is known: the object, its access, and a length that is not
that of its type. -/
def writeOpen (s : State) (path : Path) (index : W16) (sub : Byte) (len : Nat) : Option W32 :=
  match findObj s path index sub with
  | .inr code => some code
  | .inl o =>
    if o.write.isNone then some abReadOnly
    else if o.len.any (fun n => n != len) then some abLength
    else none

/-- A write of a whole value, row by row. -/
def dictWrite (path : Path) (index : W16) (sub : Byte) (data : List Byte) (s : State) : WriteRes :=
  match findObj s path index sub with
  | .inr code => .abort code 0 s
  | .inl o => match o.write with
    | none => .abort abReadOnly 0 s
    | some f =>
      if o.len.any (fun n => n != data.length) then .abort abLength 0 s
      else match o.cond with
        | some r => .abort abState r s
        | none => f data s

/-! ## Transfers (15 R460, R461, R464) -/

/-- The service is not one that the session is in. -/
def abService : W32 := 0x05040001

/-- A session is opened. -/
def openSession (s : State) (path : Path) (index : W16) (sub : Byte) (upload : Bool) (data : List Byte) (total : Nat) : State :=
  setSession s path (some { index, sub, upload, data, total, since := s.time.gtAccepted })

/-- The abort of a transfer ends its session. -/
def abortSession (s : State) (path : Path) (x : Session) (code : W32) : State :=
  abortReq (setSession s path none) path code 0 x.index x.sub

/-- The opening of a segmented download. -/
def beginDownload (s : State) (path : Path) (index : W16) (sub : Byte) (total : Nat) (data : List Byte) : State :=
  if total > 65536 ∨ data.length > total then abortReq s path abLength 0 index sub
  else match writeOpen s path index sub total with
    | some code => abortReq s path code 0 index sub
    | none => respond (openSession s path index sub false data total) path 0 []

/-- A segment of a download; the last one applies the value. -/
def downloadSegment (s : State) (path : Path) (x : Session) (last : Bool) (part : List Byte) : State :=
  let data := x.data ++ part
  if data.length > x.total then abortSession s path x abLength
  else if ¬ last then respond (openSession s path x.index x.sub false data x.total) path 0 []
  else
    let s := noteWrite s path x.index
    if data.length ≠ x.total then abortSession s path x abLength
    else finishWrite path x.index x.sub (dictWrite path x.index x.sub data (setSession s path none))

/-- A write request (15 R461, R466). -/
def execRegisterWrite (path : Path) (index : W16) (sub : Byte) (xfer : Xfer) (value : List Byte) (s : State) :
    Host.Outcome State Fault Refusal :=
  if ¬ pathHeard s path then .next s
  else
    let s := countRequest s path
    match xfer, sessionOf s path with
    | .expedited, none => done (finishWrite path index sub (dictWrite path index sub value (noteWrite s path index)))
    | .expedited, some _ => done (abortReq (noteWrite s path index) path abSession 0 index sub)
    | .initiate total, none => done (beginDownload s path index sub total.toNat value)
    | .initiate _, some _ => done (abortReq s path abSession 0 index sub)
    | .segment last, some x =>
      if x.upload then done (abortSession s path x abService) else done (downloadSegment s path x last value)
    | .segment _, none => done (abortReq s path abService 0 index sub)

/-- The answer to a read that is complete in one exchange. -/
def answerRead (s : State) (path : Path) (index : W16) (sub : Byte) : State :=
  match dictRead s path index sub with
  | .inr code => abortReq s path code 0 index sub
  | .inl b => respond s path 0 b

/-- The opening of a segmented upload captures the whole value and answers with its length (15 R464). -/
def beginUpload (s : State) (path : Path) (index : W16) (sub : Byte) : State :=
  match dictRead s path index sub with
  | .inr code => abortReq s path code 0 index sub
  | .inl b => respond (openSession s path index sub true b b.length) path 0 (leBytes 4 b.length)

/-- A segment of an upload. How many bytes one carries is CiA 1301's: a free number less than what is left, and all of
it in the last (log 28). -/
def uploadSegment (s : State) (path : Path) (x : Session) (last : Bool) : State :=
  if last then respond (setSession s path none) path 0 x.data
  else
    let w := takeWord s 3
    let n := w.1.toNat % x.data.length
    respond (openSession w.2 path x.index x.sub true (x.data.drop n) x.total) path 0 (x.data.take n)

/-- A read request (15 R464). -/
def execUsdoUpload (path : Path) (index : W16) (sub : Byte) (xfer : Xfer) (s : State) : Host.Outcome State Fault Refusal :=
  if ¬ pathHeard s path then .next s
  else
    let s := countRequest s path
    match xfer, sessionOf s path with
    | .expedited, none => done (answerRead s path index sub)
    | .initiate _, none => done (beginUpload s path index sub)
    | .segment last, some x => done (if x.upload then uploadSegment s path x last else abortSession s path x abService)
    | .segment _, none => done (abortReq s path abService 0 index sub)
    | _, some _ => done (abortReq s path abSession 0 index sub)

/-- A segmented transfer has waited more than 1,000 ms of global time for its next segment (15 R460). -/
def execUsdoSegmentTimeout (path : Path) (s : State) : Host.Outcome State Fault Refusal :=
  match sessionOf s path with
  | none => .next s
  | some x =>
    if coreRuns s ∧ x.since.toNat + 1000000 < s.time.gtAccepted.toNat then done (abortSession s path x abTimeout)
    else .next s

/-! ## The mailbox (15 R457 to R459) -/

/-- MBX_POST: the frame is taken, or the post is ignored while BUSY. The request that the frame spells follows as the
management command of that path (log 29). -/
def execMbxPost (seq : W16) (frame : List Byte) (s : State) : Host.Outcome State Fault Refusal :=
  if ¬ pathHeard s .mailbox then .next s
  else if s.mgmt.mbxBusy then .next { s with mgmt := { s.mgmt with mbxRejected := true } }
  else
    .next { s with mgmt := { s.mgmt with
      mbxRequest := padTo 64 (frame.take 64), mbxPosted := seq, mbxBusy := true, mbxRejected := false
      mbxValid := false } }

/-! ## Global time (18 R516 to R519) -/

/-- GT_LOAD_LO, GT_LOAD_HI and GT_APPLY: an inverted toggle loads the count, accepted 2 or 3 ac later. -/
def execGtApply (level : Bool) (lo hi : W32) (s : State) : Host.Outcome State Fault Refusal :=
  if s.pwr.power ≠ .active ∨ s.pwr.stopped.contains .refclk then .next s
  else
    let s := { s with time := { s.time with gtLoad := hi ++ lo } }
    if level = s.time.gtApply then .next s
    else
      let b := takeBit s
      let t := b.2.time
      .next { b.2 with time := { t with gtApply := level, gt := t.gtLoad, gtLag := if b.1 then 2 else 3 } }

end Sys2Proof.Machine
end

