-- ==== Sys2Proof/Machine/Tap.lean ====
section
/-! DEFINITION. The TAP (19 R554). -/
namespace Sys2Proof.Machine
open Sys2Proof

/-- The TAP is powered: from rails good on. -/
def tapPowered (s : State) : Bool := s.pwr.power == .reset || s.pwr.power == .active

/-- An instruction is in the register: `acts` says whether it acts or selects the bypass register. The gaffer is
halted while an acting DEBUG_ACCESS is the instruction (log 16). -/
def tapSelect (s : State) (code : Byte) (acts : Bool) : State :=
  { s with tap := { s.tap with ir := code, register := if acts then code else 0xFF, halted := acts && code == 0x14 } }

/-- Selecting 0x10 to 0x14 with DBG_LOCK 0 sets DEBUGGED. -/
def tapDebug (s : State) (code : Byte) (acts : Bool) : State :=
  let s := tapSelect s code (acts && !s.sensed.dbgLock)
  if s.sensed.dbgLock then s else { s with tap := { s.tap with debugged := true } }

def whenPowered (s : State) (f : State → State) : Host.Outcome State Fault Refusal :=
  if tapPowered s then .next (f s) else .next s

/-- TRST_N resets the TAP; DEBUGGED holds until VIN is removed. -/
def execTapReset (s : State) : Host.Outcome State Fault Refusal :=
  whenPowered s fun s => { s with tap := { debugged := s.tap.debugged, mbistRun := s.tap.mbistRun, idcode := s.tap.idcode } }

def execExtest (s : State) : Host.Outcome State Fault Refusal := whenPowered s fun s => tapSelect s 0x00 s.pwr.porst
def execSamplePreload (s : State) : Host.Outcome State Fault Refusal := whenPowered s fun s => tapSelect s 0x01 true

/-- IDCODE reads 0xB0B5_214B. -/
def execIdcode (s : State) : Host.Outcome State Fault Refusal :=
  whenPowered s fun s =>
    let s := tapSelect s 0x02 true
    { s with tap := { s.tap with idcode := 0xB0B5214B } }

def execStackSelect (s : State) : Host.Outcome State Fault Refusal := whenPowered s fun s => tapDebug s 0x10 s.pwr.porst
def execWrapper (s : State) : Host.Outcome State Fault Refusal := whenPowered s fun s => tapDebug s 0x11 s.pwr.porst

/-- A memory test, while PORST_N is asserted. -/
def execMbist (s : State) : Host.Outcome State Fault Refusal :=
  whenPowered s fun s =>
    let run := s.pwr.porst && !s.sensed.dbgLock
    let s := tapDebug s 0x12 s.pwr.porst
    if run then { s with tap := { s.tap with mbistRun := true } } else s

def execScanDump (s : State) : Host.Outcome State Fault Refusal := whenPowered s fun s => tapDebug s 0x13 s.pwr.porst
def execDebugAccess (s : State) : Host.Outcome State Fault Refusal := whenPowered s fun s => tapDebug s 0x14 true

/-- Blows DBG_LOCK; it takes effect from the next PORST_N. -/
def execLockDebug (s : State) : Host.Outcome State Fault Refusal :=
  whenPowered s fun s =>
    let acts := !s.sensed.dbgLock
    let s := tapSelect s 0x20 acts
    if acts then { s with fuse := { s.fuse with dbgLock := true } } else s

def execBypass (s : State) : Host.Outcome State Fault Refusal := whenPowered s fun s => tapSelect s 0xFF false

end Sys2Proof.Machine
end

