-- ==== Sys2Proof/Machine/Ticks.lean ====
section
/-! DEFINITION. Ticks: registration and everything that takes effect at T_n, intake close and the tick plan, the cycles
of the clock (02; 04 R150, R159; 11 R368; 12 R383 to R393; 18 R517, R519). -/
namespace Sys2Proof.Machine
open Sys2Proof

/-! ## Overrun (R46 to R48) -/

/-- Screen units of an item still to run, in 1/256 su: its cost in the proportion of its tiles not completed (log 26). -/
def remaining (i : WorkItem) : Nat :=
  let left := i.todo.length + i.running
  if ¬ i.placed then i.cost else ceilDiv (i.cost * left) (left + i.done.length)

/-- Work of the latest tick, of both classes, that is placed and unfinished (R44, R47, R48). -/
def unfinished (s : State) : Nat :=
  s.req.items.foldl (fun n i => if i.placed ∧ i.tick.idx = s.tick.cur.idx then n + remaining i else n) 0

/-- The tick that ends is judged: unfinished work is counted, reported, and reduces the next plan. -/
def judgeOverrun (s : State) : State :=
  let t := s.tick
  let rest := unfinished s
  if t.cur.idx = 0 ∨ rest = 0 then
    { s with tick := { t with reduce := 0, overrunRun := 0, overrunSent := false } }
  else
    let su := ceilDiv rest 256
    raiseRec { s with tick := { t with
        reduce := rest, overrunTicks := t.overrunTicks + 1, overrunRun := t.overrunRun + 1
        overrunNum := t.cur.num, overrunSu := su } }
      { code := .tickOverrun, place := stackPlace s 15 0, argA := t.cur.num.zeroExtend 64, argB := BitVec.ofNat 64 su
        emcy := false }

/-- The consecutive count reaches the threshold: one EMCY (R48). -/
def execOverrunThreshold (s : State) : Host.Outcome State Fault Refusal :=
  let t := s.tick
  if coreRuns s ∧ t.overrunThreshold.toNat ≤ t.overrunRun.toNat ∧ ¬ t.overrunSent then
    let code := emcyCode .tickOverrun (errCls .tickOverrun)
    let s := { s with
      tick := { t with overrunSent := true }
      mgmt := { s.mgmt with
        errorList := ((BitVec.ofNat 16 (errNum .tickOverrun) ++ code) :: s.mgmt.errorList).take 16 } }
    done (emcySend s code (errorRegister s) (detailOf (stackPlace s 15 0) .tickOverrun))
  else .next s

/-! ## Registration (R24 to R30, R49) -/

def tickViolation (s : State) (code : ViolCode) (port : BitVec 5) (a b : Nat) : State :=
  violateAt s s.tick.cur 0
    { code := code, port := port, stamp := s.time.now, detailA := BitVec.ofNat 64 a, detailB := BitVec.ofNat 64 b }

/-- The number of a tick from the second in Operational on, and what its number violates (R30, R49). -/
def tickNumber (last read : W48) : W48 × Option ViolCode :=
  let d := (read - last).toNat
  if d = 1 then (read, none)
  else if 1 < d ∧ d < 2 ^ 47 then (read, some .tickSkip)
  else (last + 1, some .tickRegress)

/-- The tick is registered: its number, its cycle, the reference level, the counts of a tick. -/
def newTick (s : State) (level : Bool) (num : W48) : State :=
  let t := s.tick
  let op := s.mgmt.nmt == .operational
  { s with tick := { t with
      refLevel := level, cur := ⟨t.cur.idx + 1, num⟩, at_ := s.time.now, registered := t.registered + 1
      intakeClosed := false, absentCount := 0, opTick := t.opTick || op, afterEntry := t.afterEntry && !op } }

/-- Registers the tick and reports what its period and its number violate. -/
def numberTick (s : State) (level : Bool) (num : W48) (unstable : Bool) : State :=
  let t := s.tick
  let period := s.time.now - t.at_
  let judged := s.mgmt.nmt == .operational && t.opTick
  let n : W48 × Option ViolCode := if judged then tickNumber t.cur.num num else (num, none)
  let s := newTick s level n.1
  let s := if unstable then tickViolation s .tickNumUnstable 9 0 0 else s
  let s := if judged ∧ period < t.minPeriod.toNat * 2000 then tickViolation s .tickEarly 8 period 0 else s
  match n.2 with
  | some .tickSkip => tickViolation s .tickSkip 9 num.toNat t.cur.num.toNat
  | some .tickRegress => tickViolation s .tickRegress 9 num.toNat n.1.toNat
  | _ => s

/-! ## What takes effect at T_n -/

/-- The engines on which tiles of a function run: the first that its tiles of the new tick ran on (01 R17). -/
def enginesOf (s : State) (f : Nat) : List (Fin 56) :=
  (s.eng.engines.filter fun e => e.2.running.any fun r => r.fn.any fun x => x.val == f).map fun e => Fin.ofNat 56 e.1

/-- Misses counted since the previous tick (04 R150); the error records of the tick that ends are done with (01 R17). -/
def reportMisses (s : State) (before : W48) : State :=
  let s := s.fns.foldl (fun s e =>
    if e.2.misses = 0 then s
    else raiseRec s
      { code := .delayTarget, argA := BitVec.ofNat 64 e.1, argB := BitVec.ofNat 64 e.2.misses
        argC := before.zeroExtend 64 }) s
  { s with
    fns := Tbl.mapVals {} (fun k f => { f with misses := 0, ranOn := enginesOf s k }) s.fns
    err := { s.err with tickErrs := [] } }

/-- A closing request's entry becomes FREE (03 R71, R96; 11 R342, R368; 17 R506): what is left in its queue is judged,
its pages, pins and cold slot go, and its generation is incremented. -/
def freeRequest (s : State) (slot : Slot) : State :=
  let r := reqOf s slot
  let s := modReq s slot fun r => { r with queue := [] }
  let s := if r.entryEnd then
      raiseRec s
        { code := .requestEntry, place := stackPlace s 3 3, argA := (handleOf s slot).zeroExtend 64, argB := 1
          emcy := false }
    else r.queue.foldl (fun s q => processItem s slot q) s
  let s := stopCold (trussUnpin (dropWork (dropRecord s slot) slot) slot) slot
  let gen := genOf s slot + 1
  let s := setReq s slot {}
  { s with
    req := { s.req with gens := Tbl.put 0 s.req.gens slot.toNat gen }
    text := { s.text with
      maskWaits := s.text.maskWaits.filter (fun w => w.slot != slot)
      maskDeferred := s.text.maskDeferred.filter (fun w => w.slot != slot) } }

/-- The closing requests none of whose records still wait (03 R71). -/
def freeClosing (s : State) : State :=
  (s.req.table.filterMap fun e =>
    let slot : Slot := BitVec.ofNat 17 e.1
    if e.2.st = .closing ∧ ¬ ringWaits s slot then some slot else none).foldl freeRequest s

/-- Settings in force from this tick, and the refill of the buckets (12 R379, R383; 16 R482). What has been reported once
for a tick stays marked while work of that tick can report again (03 R62). -/
def applySettings (s : State) : State :=
  let one (_ : Nat) (t : Tenant) : Tenant :=
    let t := { t with budgetNow := t.budget, burstNow := t.burst, weightNow := t.weight }
    let b : Int := 256 * t.budgetNow.toNat
    let u : Int := 256 * t.burstNow.toNat
    if t.valid then { t with bucket := min (t.bucket + b) (max u b) } else t
  let old := oldestWork s
  { s with
    acct := { s.acct with tenants := Tbl.mapVals {} one s.acct.tenants }
    err := { s.err with
      stallNow := s.err.stallLimit, corrected := []
      once := s.err.once.filter fun e => decide (old ≤ e.2.2) } }

/-- Engines return to the pool; the busy time of the tick starts afresh (08 R278, R284). -/
def tickEngines (s : State) : State :=
  let next (e : Nat × Engine) : Nat × Engine :=
    (e.1, { e.2 with pool := e.2.pool || e.2.poolNext, poolNext := false, latBusy := 0 })
  { s with eng := { s.eng with
      engines := (s.eng.engines.map next).filter (fun e => decide (e.2 ≠ engineDefault e.1)) } }

/-- The versions that the tick's work uses, where none of it has started (02 R42; 13 R422, R428). -/
def refreshItems (s : State) : State :=
  let one (i : WorkItem) : WorkItem :=
    if i.tick.idx ≠ s.tick.cur.idx ∨ (i.placed ∧ ¬ untouched i) then i
    else
      let r := reqOf s i.slot
      let prompt := match i.kind with
        | .prompt _ _ => true
        | .watch _ => false
      { i with
        version := deltaVersionOf s r i.tick, use := deltaUseOf s r i.tick, backbone := backboneOf s r prompt i.tick }
  { s with req := { s.req with items := s.req.items.map one } }

/-- STARTING functions run, and their parked work is screened (04 R126, R129, R159), function by function in slot order
(log 104). -/
def startFunctions (s : State) : State :=
  if s.mgmt.nmt ≠ .operational then s
  else (s.fns.map (·.1)).foldl (fun s k =>
    let f := Fin.ofNat 64 k
    if (fnOf s f).st = .starting then unpark (modFn s f fun v => { v with st := .running, act := v.set }) f else s) s

/-- Tick boundaries that parked descriptors, pins and holds have crossed (03 R118; 04 R158; 13 R428). -/
def countBoundaries (s : State) : State :=
  let one (k : Nat) (r : Request) : Request :=
    let slot : Slot := BitVec.ofNat 17 k
    let age (q : QItem) : QItem := if q.parked then { q with boundaries := q.boundaries + 1 } else q
    { r with
      queue := r.queue.map age
      pinTicks := if r.admitted then r.pinTicks + 1 else r.pinTicks
      holdTicks := if isHeld s slot r then r.holdTicks + 1 else 0
      holdReported := r.holdReported && isHeld s slot r }
  { s with req := { s.req with table := Tbl.mapVals {} one s.req.table } }

/-- Failed WRITEs and READs of a port are sent again, ahead of what waits (18 R514). -/
def retryPort (weight : Bool) (now : Nat) (p : Port) : Port :=
  pumpPort weight now { p with
    retries := 0
    waiting := p.failedWrites ++ p.waiting, failedWrites := []
    readsWaiting := p.failedReads ++ p.readsWaiting, failedReads := [] }

def retryPorts (s : State) : State :=
  { s with ports := Tbl.mapVals {} (fun k p => retryPort (decide (6 ≤ k)) s.time.now p) s.ports }

/-- The consumer index of each open ring is read (03 R112). -/
def readConsumers (s : State) : State :=
  let s := s.req.table.foldl (fun s e =>
    if e.2.entryBad then s
    else
      let slot := BitVec.ofNat 17 e.1
      sendRead s e.2.home e.2.consumerAddr 4 (.consumer (.req slot (genOf s slot)))) s
  let s := if s.err.ring.absent then s else sendRead s (errPort s) s.err.ring.consumerAddr 4 (.consumer .err)
  if s.cal.ring.absent then s else sendRead s (errPort s) s.cal.ring.consumerAddr 4 (.consumer .cal)

/-- The telemetry values of T_n (15 R471, R473). -/
def telemetryValues (s : State) : List W64 :=
  let sum (ks : List Nat) : W64 := s.fns.foldl (fun n e => ks.foldl (fun n k => n + cnt e.2.stats k) n) 0
  let open_ := s.req.table.filter fun e => e.2.st != .free
  [s.tick.cur.num.zeroExtend 64, s.pwr.power_mW.zeroExtend 64, s.pwr.hottest.zeroExtend 64, BitVec.ofNat 64 open_.length
   , BitVec.ofNat 64 (open_.filter fun e => e.2.latency).length, s.tick.overrunRun.zeroExtend 64
   , s.tick.bulkPlaced.zeroExtend 64, sum [2, 3, 4, 5, 6], sum [7], (errorRegister s).zeroExtend 64]

def sampleTelemetry (s : State) : State :=
  if s.mgmt.nmt ≠ .operational then s
  else
    let vs := telemetryValues s
    { s with mgmt := { s.mgmt with
        telemetry := (List.range vs.length).foldl (fun t k => Tbl.put 0 t k (vs.getD k 0)) s.mgmt.telemetry } }

/-- The period of the tick that ends closes now if it is still open, and the scales change; not at the first tick in
Operational (10 R328, R329). -/
def tickScales (s : State) (first : Bool) (before : TickRef) : State :=
  if first then s
  else
    let s := if s.cal.periodOpen ∧ ¬ s.cal.closed ∧ before.idx ≠ 0 then closePeriod s before else s
    if s.cal.closed then promoteScales s before.idx else s

/-- Everything that takes effect in the registration cycle. -/
def tickBoundary (s : State) (first : Bool) (before : TickRef) : State :=
  let s := freeClosing (reportMisses s before.num)
  let s := gafferPairs (tickScales (tuneTick (applySettings s)) first before)
  let s := refreshItems (tickEngines s)
  let s := snapshotTick s
  let s := coldTick (startFunctions s)
  let s := maskBoundary (countBoundaries s)
  sampleTelemetry (readConsumers (retryPorts s))

/-- The STEP level differs from the reference: T_n (R24). -/
def execTickRegistration (level : Bool) (num : W48) (unstable : Bool) (s : State) : Host.Outcome State Fault Refusal :=
  if ¬ nodeUp s ∨ level = s.tick.refLevel then .next s
  else
    let before := s.tick.cur
    let first := s.mgmt.nmt == .operational && s.tick.afterEntry
    done (tickBoundary (numberTick (judgeOverrun s) level num unstable) first before)

/-- No tick for the maximum period (R49). -/
def execTickAbsent (s : State) : Host.Outcome State Fault Refusal :=
  let t := s.tick
  let from_ := if t.cur.idx = 0 then t.opEntry else max t.opEntry t.at_
  let n := t.absentCount + 1
  if operational s ∧ s.time.now ≥ from_ + n * (t.maxPeriod.toNat * 2000) then
    done (raise { s with tick := { t with absentCount := n } } .tickAbsent (stackPlace s 15 0) n)
  else .next s

/-! ## The tick plan (R43, R47; 12 R387 to R392) -/

/-- Bulk work that is not placed and belongs to the tick or an earlier one (R43; 12 R389). -/
def queuedItem (s : State) (i : WorkItem) : Bool := !i.latency && !i.placed && decide (i.tick.idx ≤ s.tick.cur.idx)

/-- An item may be placed, but for the items of its request before it (12 R388; 08 R282). -/
def itemFits (s : State) (k left : Nat) (i : WorkItem) : Bool :=
  let f := fnOf s i.fn
  decide (0 < (tenantOf s i.tenant).bucket) && f.st == .running
    && decide (f.placedSu + i.cost ≤ functionCapacity f.act k * 256) && decide (i.cost ≤ left)
    && enginesTake s (tilesAt (planOf s f.act.plan) (roleTiles (planOf s f.act.plan) i.role)) true

/-- The first eligible item of a tenant: an ineligible item blocks the later items of its own request. -/
def firstEligible (s : State) (t : BitVec 14) (k left : Nat) : List WorkItem → List Slot → Option WorkItem
  | [], _ => none
  | i :: rest, blocked =>
    if ¬ queuedItem s i ∨ i.tenant ≠ t then firstEligible s t k left rest blocked
    else if ¬ blocked.contains i.slot ∧ itemFits s k left i then some i
    else firstEligible s t k left rest (i.slot :: blocked)

def eligibleOf (s : State) (t : BitVec 14) (k left : Nat) : Option WorkItem := firstEligible s t k left s.req.items []

/-- A tenant places items while its deficit lasts. `fuel` bounds their number. -/
def serveTenant (t : BitVec 14) (k : Nat) : Nat → State → Nat → State × Nat
  | 0, s, left => (s, left)
  | fuel + 1, s, left =>
    match eligibleOf s t k left with
    | none => (s, left)
    | some i =>
      if (tenantOf s t).deficit < i.cost then (s, left)
      else
        let s := setTenant s t { tenantOf s t with deficit := (tenantOf s t).deficit - i.cost }
        let s := { s with acct := { s.acct with lastServed := t.zeroExtend 16 } }
        serveTenant t k fuel (placeItem s i.n) (left - i.cost)

/-- One tenant's turn in a round (12 R388). -/
def tenantTurn (k : Nat) (x : State × Nat) (t : BitVec 14) : State × Nat :=
  let s := x.1
  if ¬ s.req.items.any (fun i => queuedItem s i && i.tenant == t) then
    (setTenant s t { tenantOf s t with deficit := 0 }, x.2)
  else if (eligibleOf s t k x.2).isNone then x
  else
    let v := tenantOf s t
    let s := setTenant s t { v with deficit := v.deficit + s.acct.quantumNow.toNat * 256 * v.weightNow.toNat }
    serveTenant t k (s.req.items.length + 1) s x.2

/-- Rounds until no tenant has an eligible item. -/
def planRounds (k : Nat) (ts : List (BitVec 14)) : Nat → State × Nat → State × Nat
  | 0, x => x
  | fuel + 1, x =>
    if ts.any fun t => (eligibleOf x.1 t k x.2).isSome then planRounds k ts fuel (ts.foldl (tenantTurn k) x) else x

/-- Tenants with queued work, from the one after the last served (12 R388). -/
def tenantOrder (s : State) : List (BitVec 14) :=
  let ids := (s.req.items.filter (queuedItem s)).foldl (fun l i => insertAsc i.tenant.toNat l) []
  let last := s.acct.lastServed.toNat
  ((ids.filter fun t => decide (last < t)) ++ ids.filter fun t => decide (t ≤ last)).map (BitVec.ofNat 14)

/-- Rounds that suffice: each one adds a quantum to the deficit of every tenant with an eligible item. -/
def roundBound (s : State) : Nat :=
  s.req.items.foldl (fun n i => n + i.cost / (256 * max 1 s.acct.quantumNow.toNat) + 1) 1

/-- Parked work released at entry to RUNNING is placed first, without the test (12 R384). -/
def placeParked (x : State × Nat) : State × Nat :=
  let is := x.1.req.items.filter fun i => queuedItem x.1 i && i.parkedWork && (fnOf x.1 i.fn).st == .running
  is.foldl (fun x i => (placeItem x.1 i.n, x.2 - i.cost)) x

/-- The bulk part of the plan. -/
def planBulk (s : State) (k : Nat) : State :=
  let x := placeParked (s, k * 256 - s.tick.reduce)
  let x := planRounds k (tenantOrder x.1) (roundBound x.1) x
  let s := x.1
  let waitsNow (t : Nat) : Bool := s.req.items.any fun i => queuedItem s i && i.tenant.toNat == t
  let one (t : Nat) (v : Tenant) : Tenant :=
    if waitsNow t then { v with waits := if v.bucket ≤ 0 then v.waits + 1 else v.waits } else { v with deficit := 0 }
  { s with
    acct := { s.acct with tenants := Tbl.mapVals {} one s.acct.tenants }
    tick := { s.tick with bulkPlaced := BitVec.ofNat 32 (placedBulk s / 256) } }

/-- The queued bulk work of each function by tick, as the backlog test sees it (12 R392). -/
def noteBacklog (s : State) : State :=
  let one (k : Nat) (f : Fn) : Fn :=
    { f with backlog := (s.req.items.filter fun i => !i.latency && i.fn.val == k).map fun i => (i.tick.idx, remaining i) }
  { s with fns := Tbl.mapVals {} one s.fns }

/-- The plan of the tick: bulk work, then micro-batches in the time that remains. -/
def buildPlan (s : State) : State :=
  let k := bulkCapacity s
  let fresh := (s.eng.engines.map fun e => (e.1, { e.2 with planned := 0 })).filter fun e => decide (e.2 ≠ engineDefault e.1)
  let s := { s with
    acct := { s.acct with quantumNow := s.acct.quantum, capacity := BitVec.ofNat 32 k }
    tune := { s.tune with enableNow := s.tune.enable }
    fns := Tbl.mapVals {} (fun _ f => { f with placedSu := 0 }) s.fns
    eng := { s.eng with engines := fresh } }
  let s := formAll (noteBacklog (planBulk s k))
  placeBatches s s.tune.batches

/-- T_n + intake close (R43; 10 R329). A plan is built in Operational; of a tick registered before the latest entry to
Operational R29 does not say whether its intake close builds one: the model builds none (opTick, log 97). -/
def execIntakeClose (s : State) : Host.Outcome State Fault Refusal :=
  let t := s.tick
  if ¬ nodeUp s ∨ t.cur.idx = 0 ∨ t.intakeClosed ∨ s.time.now < t.at_ + t.intakeClose.toNat then .next s
  else
    let s := { s with tick := { t with intakeClosed := true } }
    let s := if s.cal.periodOpen ∧ ¬ s.cal.closed ∧ ¬ t.afterEntry then closePeriod s t.cur else s
    done (if s.mgmt.nmt = .operational ∧ t.opTick then buildPlan s else s)

/-! ## A cycle of the clock (R31; 18 R517, R519) -/

/-- The global time domain: one µs every 2,000 ac, accepted 2 or 3 ac later. -/
def timeCycle (s : State) : State :=
  if s.pwr.power ≠ .active ∨ s.pwr.stopped.contains .refclk then s
  else
    let s := if s.time.gtLag = 0 then s
      else if s.time.gtLag = 1 then { s with time := { s.time with gtLag := 0, gtAccepted := s.time.gt } }
      else { s with time := { s.time with gtLag := s.time.gtLag - 1 } }
    if s.time.gtPhase + 1 < 2000 then { s with time := { s.time with gtPhase := s.time.gtPhase + 1 } }
    else
      let b := takeBit s
      let t := b.2.time
      { b.2 with time := { t with gtPhase := 0, gt := t.gt + 1, gtLag := if b.1 then 2 else 3 } }

/-- One ac passes (log 1): what release logic has due in the cycle happens at its end (05 R170), and the cycle's error
records are reported (17 R498); then the stamp counter counts, the search arbiter grants, a Bulk Update takes its step, and the outbound crossings take what may go. -/
def acTick (s : State) : State :=
  let s := timeCycle s
  let runs := coreRuns s
  let s := report (settle (if runs then runWakes s else s))
  if runs then
    let s := bulkCycle (grantSearch { s with time := { s.time with now := s.time.now + 1 } })
    (List.range 8).foldl (fun s p => pumpAt s (Fin.ofNat 8 p)) s
  else s

end Sys2Proof.Machine
end

