-- ==== Sys2Proof/Machine/Dispatch.lean ====
section
/-! DEFINITION. One arm per command: a direct call of its meaning. -/
namespace Sys2Proof.Machine
open Sys2Proof

def exec (i : Instr) (s : State) : Host.Outcome State Fault Refusal :=
  match i with
  | .tickRegistration level num unstable => Sys2Proof.Machine.execTickRegistration level num unstable s
  | .consumerIndexReturn port tag value => Sys2Proof.Machine.execConsumerIndexReturn port tag value s
  | .overrunThreshold => Sys2Proof.Machine.execOverrunThreshold s
  | .intakeClose => Sys2Proof.Machine.execIntakeClose s
  | .tickAbsent => Sys2Proof.Machine.execTickAbsent s
  | .parkLimitExpiry slot => Sys2Proof.Machine.execParkLimitExpiry slot s
  | .pinLimitExpiry slot => Sys2Proof.Machine.execPinLimitExpiry slot s
  | .coldExpiry slot => Sys2Proof.Machine.execColdExpiry slot s
  | .fillTicksExpiry set => Sys2Proof.Machine.execFillTicksExpiry set s
  | .autoCut set => Sys2Proof.Machine.execAutoCut set s
  | .holdRing slot => Sys2Proof.Machine.execHoldRing slot s
  | .powerOnReset => Sys2Proof.Machine.execPowerOnReset s
  | .hostReset => Sys2Proof.Machine.execHostReset s
  | .resetRelease stepLevel => Sys2Proof.Machine.execResetRelease stepLevel s
  | .pllLock => Sys2Proof.Machine.execPllLock s
  | .hbmTrainingDone failed => Sys2Proof.Machine.execHbmTrainingDone failed s
  | .linkTrainingDone up half => Sys2Proof.Machine.execLinkTrainingDone up half s
  | .selfTestDone failures => Sys2Proof.Machine.execSelfTestDone failures s
  | .deviceIdDerive ok => Sys2Proof.Machine.execDeviceIdDerive ok s
  | .bootBlockRead => Sys2Proof.Machine.execBootBlockRead s
  | .imageLoad => Sys2Proof.Machine.execImageLoad s
  | .bootRetry => Sys2Proof.Machine.execBootRetry s
  | .evidenceWrite => Sys2Proof.Machine.execEvidenceWrite s
  | .vinRise => Sys2Proof.Machine.execVinRise s
  | .railsGood => Sys2Proof.Machine.execRailsGood s
  | .supplyLockout mV => Sys2Proof.Machine.execSupplyLockout mV s
  | .supplySample mV mA => Sys2Proof.Machine.execSupplySample mV mA s
  | .sensorSample readings => Sys2Proof.Machine.execSensorSample readings s
  | .clockLoss src => Sys2Proof.Machine.execClockLoss src s
  | .droop quadrant => Sys2Proof.Machine.execDroop quadrant s
  | .droopOverlimit quadrant => Sys2Proof.Machine.execDroopOverlimit quadrant s
  | .linkDown port => Sys2Proof.Machine.execLinkDown port s
  | .linkUp port half => Sys2Proof.Machine.execLinkUp port half s
  | .linkRetry port => Sys2Proof.Machine.execLinkRetry port s
  | .linkRetrain port => Sys2Proof.Machine.execLinkRetrain port s
  | .hostWriteStray port addr len => Sys2Proof.Machine.execHostWriteStray port addr len s
  | .hostRead port tag => Sys2Proof.Machine.execHostRead port tag s
  | .completion port tag data => Sys2Proof.Machine.execCompletion port tag data s
  | .completionError port tag => Sys2Proof.Machine.execCompletionError port tag s
  | .readTimeout port tag => Sys2Proof.Machine.execReadTimeout port tag s
  | .writeTimeout port tag => Sys2Proof.Machine.execWriteTimeout port tag s
  | .openReq d => Sys2Proof.Machine.execOpenReq d s
  | .prompt d => Sys2Proof.Machine.execPrompt d s
  | .tokens d errs => Sys2Proof.Machine.execTokens d errs s
  | .accept d => Sys2Proof.Machine.execAccept d s
  | .pause d => Sys2Proof.Machine.execPause d s
  | .resumeCold d => Sys2Proof.Machine.execResumeCold d s
  | .resumeHoldRelease d => Sys2Proof.Machine.execResumeHoldRelease d s
  | .cancel d => Sys2Proof.Machine.execCancel d s
  | .close d => Sys2Proof.Machine.execClose d s
  | .feedback d => Sys2Proof.Machine.execFeedback d s
  | .publish d => Sys2Proof.Machine.execPublish d s
  | .descriptorDequeue slot => Sys2Proof.Machine.execDescriptorDequeue slot s
  | .tileStart engine work load => Sys2Proof.Machine.execTileStart engine work load s
  | .tileComplete engine heads stash errs => Sys2Proof.Machine.execTileComplete engine heads stash errs s
  | .mortiseSearchResult id ecc => Sys2Proof.Machine.execMortiseSearchResult id ecc s
  | .vocabOverflowRead slot position => Sys2Proof.Machine.execVocabOverflowRead slot position s
  | .maskWriteComplete image mask => Sys2Proof.Machine.execMaskWriteComplete image mask s
  | .snapshotRestore slot => Sys2Proof.Machine.execSnapshotRestore slot s
  | .coldMoveComplete slot => Sys2Proof.Machine.execColdMoveComplete slot s
  | .coldCopyBack slot => Sys2Proof.Machine.execColdCopyBack slot s
  | .copyBeforeWrite page => Sys2Proof.Machine.execCopyBeforeWrite page s
  | .shadowRefresh entry => Sys2Proof.Machine.execShadowRefresh entry s
  | .pegRewrite engine screen => Sys2Proof.Machine.execPegRewrite engine screen s
  | .microBatchComplete seq result => Sys2Proof.Machine.execMicroBatchComplete seq result s
  | .cutComplete set => Sys2Proof.Machine.execCutComplete set s
  | .cascadeKeyFrame frame crc ecc => Sys2Proof.Machine.execCascadeKeyFrame frame crc ecc s
  | .cascadeResultFrame frame crc => Sys2Proof.Machine.execCascadeResultFrame frame crc s
  | .cascadeTimeout id => Sys2Proof.Machine.execCascadeTimeout id s
  | .cascadeProbeReturn hops => Sys2Proof.Machine.execCascadeProbeReturn hops s
  | .cascadeProbeTimeout => Sys2Proof.Machine.execCascadeProbeTimeout s
  | .scrubVisit shadowError => Sys2Proof.Machine.execScrubVisit shadowError s
  | .bulkUpdateRun path => Sys2Proof.Machine.execBulkUpdateRun path s
  | .bulkUpdateRecord => Sys2Proof.Machine.execBulkUpdateRecord s
  | .mortiseInvalidate path => Sys2Proof.Machine.execMortiseInvalidate path s
  | .mortiseWrite path => Sys2Proof.Machine.execMortiseWrite path s
  | .mortiseValidate path => Sys2Proof.Machine.execMortiseValidate path s
  | .updateWindowEntry path value => Sys2Proof.Machine.execUpdateWindowEntry path value s
  | .cursorFirst path => Sys2Proof.Machine.execCursorFirst path s
  | .cursorNext path => Sys2Proof.Machine.execCursorNext path s
  | .cursorStepDone ecc => Sys2Proof.Machine.execCursorStepDone ecc s
  | .keyCaptureArm path value => Sys2Proof.Machine.execKeyCaptureArm path value s
  | .planLoad path => Sys2Proof.Machine.execPlanLoad path s
  | .planUnload path => Sys2Proof.Machine.execPlanUnload path s
  | .planLoadDone slot decl => Sys2Proof.Machine.execPlanLoadDone slot decl s
  | .vocabLoad path v => Sys2Proof.Machine.execVocabLoad path v s
  | .vocabUnload path v => Sys2Proof.Machine.execVocabUnload path v s
  | .vocabLoadDone v => Sys2Proof.Machine.execVocabLoadDone v s
  | .grammarLoad path g => Sys2Proof.Machine.execGrammarLoad path g s
  | .grammarUnload path g => Sys2Proof.Machine.execGrammarUnload path g s
  | .grammarLoadDone g => Sys2Proof.Machine.execGrammarLoadDone g s
  | .deltaLoad path => Sys2Proof.Machine.execDeltaLoad path s
  | .deltaCut path => Sys2Proof.Machine.execDeltaCut path s
  | .dropStaging path => Sys2Proof.Machine.execDropStaging path s
  | .deltaDelete path => Sys2Proof.Machine.execDeltaDelete path s
  | .deltaLoadDone set => Sys2Proof.Machine.execDeltaLoadDone set s
  | .backboneLoad path => Sys2Proof.Machine.execBackboneLoad path s
  | .dropOther path => Sys2Proof.Machine.execDropOther path s
  | .backboneLoadDone screen => Sys2Proof.Machine.execBackboneLoadDone screen s
  | .tuningEnable path value => Sys2Proof.Machine.execTuningEnable path value s
  | .functionStart path f => Sys2Proof.Machine.execFunctionStart path f s
  | .functionStop path f => Sys2Proof.Machine.execFunctionStop path f s
  | .startRemoteNode via => Sys2Proof.Machine.execStartRemoteNode via s
  | .stopRemoteNode via => Sys2Proof.Machine.execStopRemoteNode via s
  | .enterPreOperational via => Sys2Proof.Machine.execEnterPreOperational via s
  | .resetNode via => Sys2Proof.Machine.execResetNode via s
  | .resetCommunication via => Sys2Proof.Machine.execResetCommunication via s
  | .mbxPost seq frame => Sys2Proof.Machine.execMbxPost seq frame s
  | .registerWrite path index sub xfer value => Sys2Proof.Machine.execRegisterWrite path index sub xfer value s
  | .usdoUpload path index sub xfer => Sys2Proof.Machine.execUsdoUpload path index sub xfer s
  | .usdoSegmentTimeout path => Sys2Proof.Machine.execUsdoSegmentTimeout path s
  | .heartbeat => Sys2Proof.Machine.execHeartbeat s
  | .tpdoEventTimer n => Sys2Proof.Machine.execTpdoEventTimer n s
  | .emcyTransmit => Sys2Proof.Machine.execEmcyTransmit s
  | .errorListClear path => Sys2Proof.Machine.execErrorListClear path s
  | .rearm path => Sys2Proof.Machine.execRearm path s
  | .acknowledge path => Sys2Proof.Machine.execAcknowledge path s
  | .enginePoolWrite path engine value => Sys2Proof.Machine.execEnginePoolWrite path engine value s
  | .tenantValidWrite path value => Sys2Proof.Machine.execTenantValidWrite path value s
  | .gtApply level lo hi => Sys2Proof.Machine.execGtApply level lo hi s
  | .checkpoint path fragA fragB => Sys2Proof.Machine.execCheckpoint path fragA fragB s
  | .checkpointWriteDone => Sys2Proof.Machine.execCheckpointWriteDone s
  | .restore path => Sys2Proof.Machine.execRestore path s
  | .restoreReadDone => Sys2Proof.Machine.execRestoreReadDone s
  | .foreignAcknowledgement path value => Sys2Proof.Machine.execForeignAcknowledgement path value s
  | .tapReset => Sys2Proof.Machine.execTapReset s
  | .extest => Sys2Proof.Machine.execExtest s
  | .samplePreload => Sys2Proof.Machine.execSamplePreload s
  | .idcode => Sys2Proof.Machine.execIdcode s
  | .stackSelect => Sys2Proof.Machine.execStackSelect s
  | .wrapper => Sys2Proof.Machine.execWrapper s
  | .mbist => Sys2Proof.Machine.execMbist s
  | .scanDump => Sys2Proof.Machine.execScanDump s
  | .debugAccess => Sys2Proof.Machine.execDebugAccess s
  | .lockDebug => Sys2Proof.Machine.execLockDebug s
  | .bypass => Sys2Proof.Machine.execBypass s
  | .unknownType d type => Sys2Proof.Machine.execUnknownType d type s
  | .hostMessageReservedOp port op => Sys2Proof.Machine.execHostMessageReservedOp port op s
  | .fuseSenseDone check => Sys2Proof.Machine.execFuseSenseDone check s
  | .internalResetRelease => Sys2Proof.Machine.execInternalResetRelease s
  | .clockReturn src => Sys2Proof.Machine.execClockReturn src s
  | .droopRecovery quadrant => Sys2Proof.Machine.execDroopRecovery quadrant s
  | .hbm4CatastrophicTemperature stack => Sys2Proof.Machine.execHbm4CatastrophicTemperature stack s

end Sys2Proof.Machine
end

