-- ==== Sys2Proof/Machine/Step.lean ====
section
/-! DEFINITION. One step: the command at the front of the queue, or one cycle of the core timing clock when no
command waits. -/
namespace Sys2Proof.Machine
open Sys2Proof

/-- One step. With a command in front, that command runs on the state whose queue is the rest. With none, one ac
passes (02 R31; DESIGN CHOICE, log 1). -/
def step (s : State) : Host.Outcome State Fault Refusal :=
  match s.pending with
  | [] => done (acTick s)
  | i :: rest => exec i { s with pending := rest }

/-- The state with the command that a word spells in front of the queue; no word spells one. -/
def State.withFetchWord (s : State) (nbits w : Nat) : State :=
  match decodeTableWord nbits w with
  | some i => { s with pending := i :: s.pending }
  | none => s

end Sys2Proof.Machine
end

