-- ==== Sys2Proof/Safety.lean ====
section
/-! DEFINITION. The terms that statements use: when the state is settled between commands, what an ordinary command
never touches, which parts of the state a command leaves alone, and when a management write is served. -/
namespace Sys2Proof.Machine
open Sys2Proof

/-- Between commands every error record is among those of its cycle (17 R498). -/
def Settled (s : State) : Prop := s.err.raised = []

/-- The error records of the cycle wait in ascending order of their details (17 R498). -/
def InOrder (s : State) : Prop := s.err.cycle.Pairwise Raised.before

/-- A cycle has ended: none of its error records waits, and the error register has been formed (17 R498, R503). -/
def Reported (s : State) : Prop := s.err.raised = [] ∧ s.err.cycle = [] ∧ s.err.lastReg = errorRegister s

/-- What a command keeps that is no reset, supply, tick, clock or TAP command: the queue, the fuses but for the floors,
the TAP, what has been sensed, the power state and the resets, the stamp counter, the latest tick. -/
structure Kept where
  pending : List Instr
  uds : BitVec 384
  keyHash : BitVec 384
  serial : W32
  dbgLock : Bool
  tap : TapState
  sensed : SensedState
  power : Power
  porst : Bool
  hrst : Bool
  now : Nat
  cur : TickRef
  at_ : Nat
  refLevel : Bool
  registered : W64

def State.kept (s : State) : Kept :=
  ⟨s.pending, s.fuse.uds, s.fuse.keyHash, s.fuse.serial, s.fuse.dbgLock, s.tap, s.sensed, s.pwr.power, s.pwr.porst,
   s.pwr.hrst, s.time.now, s.tick.cur, s.tick.at_, s.tick.refLevel, s.tick.registered⟩

/-- The parts of the state. -/
inductive Part
  | pending | time | tick | ports | jobs | req | fns | acct | mortise | text | eng | cal | stream | tune | ckpt | err
  | mgmt | view | pwr | boot | fuse | sensed | tap
deriving DecidableEq, Repr

/-- A part is the same in two states. -/
def Part.same (s t : State) : Part → Prop
  | .pending => t.pending = s.pending
  | .time => t.time = s.time
  | .tick => t.tick = s.tick
  | .ports => t.ports = s.ports
  | .jobs => t.jobs = s.jobs
  | .req => t.req = s.req
  | .fns => t.fns = s.fns
  | .acct => t.acct = s.acct
  | .mortise => t.mortise = s.mortise
  | .text => t.text = s.text
  | .eng => t.eng = s.eng
  | .cal => t.cal = s.cal
  | .stream => t.stream = s.stream
  | .tune => t.tune = s.tune
  | .ckpt => t.ckpt = s.ckpt
  | .err => t.err = s.err
  | .mgmt => t.mgmt = s.mgmt
  | .view => t.view = s.view
  | .pwr => t.pwr = s.pwr
  | .boot => t.boot = s.boot
  | .fuse => t.fuse = s.fuse
  | .sensed => t.sensed = s.sensed
  | .tap => t.tap = s.tap

/-- Every part but the named ones is the same. -/
def Frame (but : List Part) (s t : State) : Prop := ∀ p, p ∉ but → p.same s t

/-- A write request on a path, of an object that the node's state serves, meets no open transfer (15 R460, R466;
19 R543). -/
def Served (s : State) (path : Path) (index : W16) (sub : Byte) : Prop :=
  pathHeard s path = true ∧ sessionOf s path = none ∧ (s.mgmt.nmt ≠ .initialisation ∨ bringUp index sub = true)

/-- The state in which a served write takes effect: the request is counted and noted (15 R462, R465). -/
def heard (s : State) (path : Path) (index : W16) : State := noteWrite (countRequest s path) path index

/-- A descriptor that no row of the violation table meets at its stamp: the node is Operational, the port is UP and
takes the type, no reserved bit is set, no field is malformed, its sequence number and its handle's generation are those
expected and its tick field names its tick or the one before (03 R55, R58 to R62, R67, R120). -/
def Clean (s : State) (d : Desc) (type : Nat) : Prop :=
  operational s = true ∧ portUp s d.port = true ∧ (type = 10 ∨ d.port.val < 6) ∧ firstReserved type d = none
    ∧ badField type d = none ∧ d.portSeq = (portOf s d.port).seq
    ∧ (type ≤ 8 → handleGen d.handle = genOf s (handleSlot d.handle)) ∧ tickFieldBad (tickOf s) d.tick = false

/-- The state in which a clean descriptor is processed: counted at its port, whose sequence number has moved on. -/
def arrived (s : State) (d : Desc) : State :=
  let s := modPort (modPort s d.port fun v => { v with descs := v.descs + 1 }) d.port fun v => { v with seq := d.portSeq + 1 }
  { s with time := { s.time with arrivals := s.time.arrivals + 1 } }

/-- A clean descriptor of a request, as its processing stage sees it. -/
def itemOf (s : State) (d : Desc) (kind : DKind) (errs : List DetErr := []) : QItem :=
  { kind := kind, desc := d, stamp := s.time.now, tick := tickOf s, gt := s.time.gtAccepted, errs := errs
    seq := s.time.arrivals + 1 }

/-- A clean descriptor that its request processes at once: nothing holds or parks it, no row of the lifecycle discards it
(03 R70, R76, R93, R116; 04 R155). -/
def Direct (s : State) (d : Desc) (kind : DKind) : Prop :=
  Clean s d (typeOf kind).toNat
    ∧ (reqOf s (handleSlot d.handle)).st ≠ .free ∧ (reqOf s (handleSlot d.handle)).st ≠ .closing
    ∧ (reqOf s (handleSlot d.handle)).entryBad = false ∧ mustQueue (arrived s d) (handleSlot d.handle) kind = false
    ∧ judge (reqOf s (handleSlot d.handle)) (itemOf s d kind) = none

/-- The commands of the supply, the resets, the clocks, the ticks, the first steps of start-up and the TAP. -/
def special : Instr → Bool
  | .tickRegistration _ _ _ | .powerOnReset | .hostReset | .resetRelease _ | .pllLock | .vinRise | .railsGood
  | .supplyLockout _ | .fuseSenseDone _ | .internalResetRelease | .clockReturn _ | .tapReset | .extest | .samplePreload
  | .idcode | .stackSelect | .wrapper | .mbist | .scanDump | .debugAccess | .lockDebug | .bypass => true
  | _ => false

end Sys2Proof.Machine
end

