-- ==== Sys2Proof/Certificates/Slice0/Obligations.lean ====
section
/-! DEFINITION. The statements for the provers, by part of the machine. -/
open Sys2Proof Sys2Proof.Machine

/-! ## The block as a whole -/

/-- A step with a command in front is that command on the queue's rest (log 1). -/
def Obligations.StepRunsTheFrontCommand : Prop :=
  ∀ (c : Instr) (s : State), step { s with pending := c :: s.pending } = exec c s

/-- A step with an empty queue is one ac: in a running core the stamp counter goes up by one, in a stopped one it
stands, and what no ordinary command touches stays (02 R31; log 1). Where release logic has nothing due, no search
waits, no Bulk Update is between its steps, no error record waits and no port has anything to send, nothing but the time
bases moves. -/
def Obligations.IdleStepIsOneCycle : Prop :=
  ∀ s : State, s.pending = [] → ∃ t, step s = .next t
    ∧ t.kept = { s.kept with now := s.time.now + if coreRuns s then 1 else 0 }
    ∧ (s.req.wakes = [] → s.mortise.waiting = [] → s.mortise.bulkStep = none → Reported s →
        (∀ p, (portOf s p).waiting = [] ∧ (portOf s p).readsWaiting = []) →
      Frame [.time, .ports] s t ∧ ∀ p, portOf t p = portOf s p)

/-- What the spec says of the machine right after reset, among the values of the objects (16 R476). -/
def Obligations.ResetValues : Prop :=
  State.reset.pending = [] ∧ State.reset.pwr.power = .reset ∧ State.reset.pwr.porst = true ∧ State.reset.mgmt.nmt = .initialisation
    ∧ State.reset.boot.step = .fuseSense
    ∧ State.reset.tick.minPeriod = 200 ∧ State.reset.tick.intakeClose = 80000 ∧ State.reset.tick.maskDeadline = 240000
    ∧ State.reset.tick.verdictDeadline = 360000 ∧ State.reset.tick.overrunThreshold = 8
    ∧ (∀ f, (fnOf State.reset f).st = .idle ∧ (fnOf State.reset f).set.lag = 4)
    ∧ (∀ slot, (reqOf State.reset slot).st = .free ∧ genOf State.reset slot = 0)
    ∧ (∀ p, (portOf State.reset p).link = .down)
    ∧ (∀ t, (tenantOf State.reset t).valid = false ∧ (tenantOf State.reset t).weight = 1)
    ∧ State.reset.acct.quantum = 1024 ∧ State.reset.tune.patches = 512 ∧ State.reset.cal.windowN = 4
    ∧ State.reset.mortise.size = 1 ∧ State.reset.mortise.scrubInterval = 256

/-- The machine right after reset is settled: no error record waits and the error register is formed (17 R498, R503). -/
def Obligations.ResetIsSettled : Prop := Settled State.reset ∧ Reported State.reset

/-- No step leaves an error record outside those of its cycle, and a cycle's end leaves none of them waiting and the
error register formed: what waits after it was met by the search that the next cycle grants (17 R498, R503). -/
def Obligations.StepKeepsSettled : Prop :=
  (∀ s t : State, Settled s → step s = .next t → Settled t)
  ∧ ∀ s t : State, s.pending = [] → step s = .next t →
      t.err.lastReg = errorRegister t ∧ ∀ r ∈ t.err.cycle, r.code = .mortiseEcc ∨ r.code = .mortiseEccCorrected

/-- No command touches the queue. -/
def Obligations.CommandsLeaveTheQueue : Prop := ∀ (c : Instr) (s t : State), exec c s = .next t → t.pending = s.pending

/-- No command but an absolute maximum stops the machine, and none is refused (18 R531). -/
def Obligations.OnlyAbsoluteMaximumStops : Prop :=
  ∀ (c : Instr) (s : State),
    (∃ t, exec c s = .next t) ∨ ∃ mV : W32, c = .supplyLockout mV ∧ 60000 < mV.toNat ∧ exec c s = .fault .absoluteMaximum

/-- A report (17 R498 to R504): a command's records join those of its cycle in ascending order of their details, and at
the cycle's end each is counted at its class; the first of class 1, 3 or 4 since the capture was armed is captured,
later ones leave the capture alone; outside Initialisation it heads the error list, which holds 16; and it touches
nothing but the places where reports are kept: ports (the error ring's writes), functions and engines (their counts),
errors, management and the view. With nothing raised only the error register is formed again. -/
def Obligations.ReportsStayAtTheirPlaces : Prop :=
  ∀ s : State, Settled (settle s) ∧ (InOrder s → InOrder (settle s)) ∧ Frame [.err] s (settle s)
    ∧ (Settled s → Reported (report s)) ∧ Frame [.ports, .fns, .eng, .err, .mgmt, .view] s (report s)
    ∧ (s.err.cycle = [] → (report s).err.byClass = s.err.byClass ∧ (report s).err.captured = s.err.captured
        ∧ (report s).mgmt.errorList = s.mgmt.errorList)
    ∧ (s.err.raised = [] → s.err.cycle = [] → ∀ (code : ErrCode) (place : Place) (a b : Nat),
      let t := report (settle (raise s code place a b))
      let cls := errCls code
      t.err.byClass = cntAdd s.err.byClass (cls.toNat + 1) 1
      ∧ (s.err.captured = true → t.err.captured = true ∧ t.err.capCode = s.err.capCode ∧ t.err.capClass = s.err.capClass
          ∧ t.err.capDetail = s.err.capDetail ∧ t.err.capStamp = s.err.capStamp)
      ∧ (s.err.captured = false → cls = 1 ∨ cls = 3 ∨ cls = 4 →
          t.err.captured = true ∧ t.err.capCode = emcyCode code cls ∧ t.err.capClass = cls.zeroExtend 8
          ∧ t.err.capDetail = detailOf place code ∧ t.err.capStamp = s.time.now)
      ∧ (s.err.captured = false → cls ≠ 1 → cls ≠ 3 → cls ≠ 4 → t.err.captured = false)
      ∧ (s.mgmt.nmt ≠ .initialisation → errEmcy code = true →
          t.mgmt.errorList = ((BitVec.ofNat 16 (errNum code) ++ emcyCode code cls) :: s.mgmt.errorList).take 16))

/-- What an ordinary command never touches: every command but those of the supply, the resets, the clocks, the ticks,
the first steps of start-up and the TAP keeps the queue, the fuses but for the floors, the TAP, what was sensed, the
power state, the resets, the stamp counter and the latest tick. -/
def Obligations.OrdinaryCommandsKeep : Prop :=
  ∀ (c : Instr) (s t : State), special c = false → exec c s = .next t → t.kept = s.kept

/-! ## Supply, resets, clocks (18) -/

/-- VIN_RISE, RAILS_GOOD, RESET_RELEASE and INTERNAL_RESET_RELEASE walk the power states (18 R533, R534; 02 R25): OFF to
RAMP, RAMP to RESET, RESET to ACTIVE with the STEP level as it stands. -/
def Obligations.PowerUpStates : Prop :=
  (∀ s : State, s.pwr.power = .off → exec .vinRise s = .next { s with pwr := { s.pwr with power := .ramp } })
  ∧ (∀ s : State, s.pwr.power = .ramp →
      exec .railsGood s = .next { s with pwr := { s.pwr with
        power := .reset, railsGood := true, holdInternal := !s.pwr.porst && !s.pwr.hrst } })
  ∧ (∀ (lvl : Bool) (s : State), s.pwr.porst = true ∨ s.pwr.hrst = true → s.pwr.power = .reset → s.pwr.railsGood = true →
      exec (.resetRelease lvl) s = .next { s with
        tick := { s.tick with refLevel := lvl }
        pwr := { s.pwr with porst := false, hrst := false, power := .active } })
  ∧ (∀ s : State, s.pwr.power = .reset → s.pwr.holdInternal = true → s.pwr.porst = false → s.pwr.hrst = false →
      exec .internalResetRelease s = .next { s with pwr := { s.pwr with power := .active, holdInternal := false } })

/-- PORST_N clears everything but the queue, the fuses, the TAP and, of the power state, THERMTRIP_N, the rails, the
stopped clocks, the droops and HRST_N itself; HRST_N keeps the whole power state, whose Alert Threshold is 95.00 °C
again, and what was sensed (18 R534, R539; 16 R476). -/
def Obligations.ResetsClear : Prop :=
  (∀ s : State, s.pwr.power = .reset ∨ s.pwr.power = .active →
    exec .powerOnReset s = .next { ({} : State) with
      pending := s.pending, fuse := s.fuse, tap := s.tap, time := { freeIdx := s.time.freeIdx }
      sensed := { dbgLock := s.fuse.dbgLock, byPorst := true }
      pwr := { power := .reset, porst := true, hrst := s.pwr.hrst, railsGood := s.pwr.railsGood, trip := s.pwr.trip
               stopped := s.pwr.stopped, drooping := s.pwr.drooping } })
  ∧ (∀ s : State, s.pwr.power = .reset ∨ s.pwr.power = .active → ∃ v : Byte,
    exec .hostReset s = .next { ({} : State) with
      pending := s.pending, fuse := s.fuse, tap := s.tap, time := { freeIdx := s.time.freeIdx }
      sensed := { dbgLock := s.sensed.dbgLock, byPorst := s.sensed.byPorst && s.pwr.porst }
      pwr := { s.pwr with power := .reset, hrst := true, holdInternal := false, alertAt := 9500 }
      err := { ({} : State).err with lastReg := v } })

/-- SUPPLY_LOCKOUT: outside 38 V to 52 V everything but the queue, the fuses, the stopped clocks and the reset pins is
lost, THERMTRIP_N and DEBUGGED among it (18 R531, R534, R536; 19 R554). Above 60 V, the absolute maximum, damage may
follow: a free bit, the model's choice (log 78), says whether the run stops or the lockout has that same effect. A floor
raised less than 1 ms before may lose the entry being programmed, by its check bits, and no other (19 R550; log 100). -/
def Obligations.LockoutLosesAllButFuses : Prop :=
  let lost (s u : State) : State := { ({} : State) with
    pending := s.pending, fuse := u.fuse, time := { freeIdx := u.time.freeIdx }, sensed := { dbgLock := s.fuse.dbgLock }
    pwr := { power := .off, porst := s.pwr.porst, hrst := s.pwr.hrst, railsGood := false, stopped := s.pwr.stopped } }
  (∀ (mV : W32) (s : State), mV.toNat < 38000 ∨ 52000 < mV.toNat → mV.toNat ≤ 60000 → s.pwr.power ≠ .off →
    exec (.supplyLockout mV) s = .next (lost s (cutRaise s)))
  ∧ (∀ (mV : W32) (s : State), 60000 < mV.toNat → s.pwr.power ≠ .off →
    exec (.supplyLockout mV) s = if Config.freeBit s.time.freeIdx then .fault .absoluteMaximum else
      .next (lost s (cutRaise { s with time := { s.time with freeIdx := s.time.freeIdx + 1 } })))
  ∧ (∀ s : State, (s.boot.raisedL = false ∧ s.boot.raisedT = false) ∨ s.boot.raisedAt + 2000000 ≤ s.time.now → cutRaise s = s)
  ∧ ∀ s : State,
      ((cutRaise s).fuse.lilenFloors = s.fuse.lilenFloors
        ∨ s.boot.raisedL = true ∧ (cutRaise s).fuse.lilenFloors = spoilLast s.fuse.lilenFloors)
      ∧ ((cutRaise s).fuse.tileFloors = s.fuse.tileFloors
        ∨ s.boot.raisedT = true ∧ (cutRaise s).fuse.tileFloors = spoilLast s.fuse.tileFloors)
      ∧ (cutRaise s).fuse.uds = s.fuse.uds ∧ (cutRaise s).fuse.keyHash = s.fuse.keyHash
      ∧ (cutRaise s).fuse.dbgLock = s.fuse.dbgLock

/-- SUPPLY_SAMPLE: voltage, current and power are read, and bits 1 and 2 of the error register follow them with 0.5 V
and 0.5 A of hysteresis; the entry to a range is reported, at the unit of power control (18 R531; 17 R503; log 34).
Every sample has its effect while the power controller runs, and none while it does not; then the current in range
before. -/
def Obligations.SupplySample : Prop :=
  ∀ (mV : W16) (mA : W32) (s : State),
    (sensorsRun s = false → exec (.supplySample mV mA) s = .next s)
    ∧ (sensorsRun s = true → ∃ t, exec (.supplySample mV mA) s = .next t ∧ t.pwr = { s.pwr with
        voltage := mV, current := mA, power_mW := BitVec.ofNat 32 (mV.toNat * mA.toNat / 1000)
        overVolt := if s.pwr.overVolt then decide (mV.toNat < 40500 ∨ 47500 < mV.toNat)
          else decide (mV.toNat < 40000 ∨ 48000 < mV.toNat)
        overCurr := if s.pwr.overCurr then decide (18500 < mA.toNat) else decide (19000 < mA.toNat) }
      ∧ Frame [.pwr, .err] s t)
    ∧ (sensorsRun s = true → s.pwr.power = .active → s.pwr.overCurr = false →
    (s.pwr.overVolt = false → 40000 ≤ mV.toNat → mV.toNat ≤ 48000 → mA.toNat ≤ 19000 →
      exec (.supplySample mV mA) s = .next (settle { s with pwr := { s.pwr with
        voltage := mV, current := mA, power_mW := BitVec.ofNat 32 (mV.toNat * mA.toNat / 1000), overVolt := false
        overCurr := false } }))
    ∧ (s.pwr.overVolt = false → mV.toNat < 40000 → mA.toNat ≤ 19000 →
      exec (.supplySample mV mA) s = .next (settle (raise { s with pwr := { s.pwr with
        voltage := mV, current := mA, power_mW := BitVec.ofNat 32 (mV.toNat * mA.toNat / 1000), overVolt := true
        overCurr := false } } .supplyRange (stackPlace s 10 0) mV.toNat mA.toNat)))
    ∧ (s.pwr.overVolt = true → mV.toNat < 40500 → mA.toNat ≤ 19000 →
      exec (.supplySample mV mA) s = .next (settle { s with pwr := { s.pwr with
        voltage := mV, current := mA, power_mW := BitVec.ofNat 32 (mV.toNat * mA.toNat / 1000), overVolt := true
        overCurr := false } })))

/-- SENSOR_SAMPLE: Hottest Sensor is the highest of the readings; ALERT_N asserts at the Alert Threshold and releases
2.00 °C below it; THERMTRIP_N asserts at 110.00 °C on one of sensors 0 to 71 and stays (18 R535, R536). An HBM4 stack's
catastrophic temperature asserts THERMTRIP_N too. -/
def Obligations.Temperatures : Prop :=
  (∀ (rs : List W16) (s : State), sensorsRun s = true → rs ≠ [] →
    ∃ t, exec (.sensorSample rs) s = .next t ∧ t.pwr.hottest ∈ rs ∧ (∀ r ∈ rs, r.toInt ≤ t.pwr.hottest.toInt)
      ∧ (s.pwr.alert = false → (t.pwr.alert = true ↔ s.pwr.alertAt.toInt ≤ t.pwr.hottest.toInt))
      ∧ (s.pwr.alert = true → (t.pwr.alert = true ↔ s.pwr.alertAt.toInt - 200 ≤ t.pwr.hottest.toInt))
      ∧ (t.pwr.trip = true ↔ s.pwr.trip = true ∨ ∃ r ∈ rs.take 72, 11000 ≤ r.toInt)
      ∧ Frame [.err, .pwr] s t)
  ∧ (∀ (i : Fin 4) (s : State), s.pwr.power = .reset ∨ s.pwr.power = .active →
    exec (.hbm4CatastrophicTemperature i) s = .next { s with pwr := { s.pwr with trip := true } })

/-- A clock stops, and returns with a state that is free (18 R526, log 10); a quadrant droops and recovers; a droop that
outlasts 256 ac is reported at the lower bent of the quadrant (log 14), whose running tiles carry FAULT (18 R525). -/
def Obligations.ClocksAndDroops : Prop :=
  (∀ (c : ClockSrc) (s : State), s.pwr.stopped.contains c = false →
    exec (.clockLoss c) s = .next { s with pwr := { s.pwr with stopped := c :: s.pwr.stopped } })
  ∧ (∀ (c : ClockSrc) (s : State), s.pwr.stopped.contains c = true →
    ∃ t, exec (.clockReturn c) s = .next t ∧ t.pwr = { s.pwr with stopped := s.pwr.stopped.filter (· != c) }
      ∧ t.fuse = s.fuse ∧ t.tap = s.tap ∧ t.pending = s.pending)
  ∧ (∀ (q : Fin 4) (s : State), s.pwr.power = .active → s.pwr.drooping.contains q = false →
    exec (.droop q) s = .next { s with pwr := { s.pwr with drooping := q :: s.pwr.drooping } })
  ∧ (∀ (q : Fin 4) (s : State),
    exec (.droopRecovery q) s = .next { s with pwr := { s.pwr with drooping := s.pwr.drooping.filter (· != q) } })
  ∧ (∀ (q : Fin 4) (s : State), coreRuns s = true → s.pwr.drooping.contains q = true →
    exec (.droopOverlimit q) s = .next (settle (raise { s with eng := { s.eng with engines := s.eng.engines.map fun e =>
        (e.1, if 8 * q.val ≤ e.1 ∧ e.1 < 8 * q.val + 8 then
            { e.2 with running := e.2.running.map fun x => { x with fault := true } } else e.2) } }
      .eccUncorrected (bentPlace (2 * q.val) 2))))

/-! ## TAP (19 R554) -/

/-- TRST_N and the instructions of a powered TAP: which register each selects, that EXTEST, STACK_SELECT, WRAPPER, MBIST
and SCAN_DUMP act while PORST_N is asserted, and that 0x10 to 0x14 with DBG_LOCK 0 set DEBUGGED (19 R554). -/
def Obligations.TapInstructions : Prop :=
  ∀ s : State, s.pwr.power = .reset ∨ s.pwr.power = .active →
    exec .tapReset s = .next { s with tap := {
      debugged := s.tap.debugged, mbistRun := s.tap.mbistRun, idcode := s.tap.idcode } }
    ∧ exec .samplePreload s = .next { s with tap := { s.tap with ir := 0x01, register := 0x01, halted := false } }
    ∧ exec .idcode s = .next { s with tap := { s.tap with ir := 0x02, register := 0x02, halted := false, idcode := 0xB0B5214B } }
    ∧ exec .bypass s = .next { s with tap := { s.tap with ir := 0xFF, register := 0xFF, halted := false } }
    ∧ exec .extest s = .next { s with tap := { s.tap with
        ir := 0x00, register := if s.pwr.porst then 0x00 else 0xFF, halted := false } }
    ∧ (s.sensed.dbgLock = false → s.pwr.porst = true →
      exec .stackSelect s = .next { s with tap := { s.tap with ir := 0x10, register := 0x10, halted := false, debugged := true } }
      ∧ exec .wrapper s = .next { s with tap := { s.tap with ir := 0x11, register := 0x11, halted := false, debugged := true } }
      ∧ exec .mbist s = .next { s with tap := { s.tap with
          ir := 0x12, register := 0x12, halted := false, debugged := true, mbistRun := true } }
      ∧ exec .scanDump s = .next { s with tap := { s.tap with
          ir := 0x13, register := 0x13, halted := false, debugged := true } })
    ∧ (s.sensed.dbgLock = false →
      exec .debugAccess s = .next { s with tap := { s.tap with ir := 0x14, register := 0x14, halted := true, debugged := true } }
      ∧ exec .lockDebug s = .next { s with
          tap := { s.tap with ir := 0x20, register := 0x20, halted := false }, fuse := { s.fuse with dbgLock := true } })
    ∧ (s.sensed.dbgLock = true → ∀ c ∈ [Instr.stackSelect, .wrapper, .mbist, .scanDump, .debugAccess, .lockDebug],
      ∃ t, exec c s = .next t ∧ t.tap.register = 0xFF ∧ t.tap.debugged = s.tap.debugged ∧ t.tap.halted = false
        ∧ t.fuse = s.fuse ∧ Frame [.tap] s t)

/-- DEBUGGED, once set, stays until VIN is removed (19 R554): only a supply lockout clears it. No command changes the
UDS, the key hash or the serial number in the fuses; DBG_LOCK is only ever blown, by LOCK_DEBUG with DBG_LOCK sensed 0
(19 R550, R554). -/
def Obligations.WhatNoCommandUndoes : Prop :=
  (∀ (c : Instr) (s t : State), s.tap.debugged = true → exec c s = .next t → (∀ mV, c ≠ .supplyLockout mV) →
     t.tap.debugged = true)
  ∧ (∀ (c : Instr) (s t : State), exec c s = .next t →
       t.fuse.uds = s.fuse.uds ∧ t.fuse.keyHash = s.fuse.keyHash ∧ t.fuse.serial = s.fuse.serial
       ∧ (s.fuse.dbgLock = true → t.fuse.dbgLock = true)
       ∧ (t.fuse.dbgLock ≠ s.fuse.dbgLock → c = .lockDebug ∧ s.sensed.dbgLock = false))

/-! ## Start-up (19) -/

/-- FUSE_SENSE_DONE: what is sensed, a bad serial number read as 0, and bring-up that a bad UDS or key hash stops after
step 6; PLL_LOCK: the stamp counter starts at 0 (19 R542; 02 R31). HBM_TRAINING_DONE, LINK_TRAINING_DONE and
SELF_TEST_DONE lead to the next step; stacks that fail training stop Bruvar, and each is reported; a port that does not
train is DOWN, counted and reported (19 R542 steps 7 to 9; 01 R5). -/
def Obligations.BootFirstSteps : Prop :=
  ((∀ (k : FuseCheck) (s : State), bootAt s .fuseSense = true → k.udsBad = false → k.keyBad = false →
     exec (.fuseSenseDone k) s = .next (settle { s with
       sensed := { dbgLock := if s.sensed.byPorst then s.fuse.dbgLock && !k.lockBad else s.sensed.dbgLock
                   serial := if k.serialBad then 0 else s.fuse.serial, udsBad := false, byPorst := false }
       boot := { s.boot with step := .pll, stopAfterPll := false } }))
   ∧ (∀ (k : FuseCheck) (s : State), bootAt s .fuseSense = true → k.udsBad = true ∨ k.keyBad = true →
     ∃ t, exec (.fuseSenseDone k) s = .next t ∧ t.boot = { s.boot with step := .pll, stopAfterPll := true }
       ∧ t.sensed.udsBad = k.udsBad ∧ t.fuse = s.fuse)
   ∧ (∀ s : State, bootAt s .pll = true → s.pwr.stopped.contains .refclk = false →
     exec .pllLock s = .next { s with
       time := { s.time with now := 0 }, pwr := { s.pwr with stopped := [] }
       boot := { s.boot with step := if s.boot.stopAfterPll then .halted else .hbm } }))
  ∧ ((∀ s : State, coreRuns s = true → bootAt s .hbm = true →
       exec (.hbmTrainingDone 0) s = .next { s with boot := { s.boot with step := .links } })
     ∧ (∀ (failed : BitVec 4) (s : State), coreRuns s = true → bootAt s .hbm = true → failed ≠ 0 →
       ∃ t, exec (.hbmTrainingDone failed) s = .next (settle t) ∧ t.boot = { s.boot with step := .halted }
         ∧ t.err = { s.err with raised := s.err.raised ++ ([0, 1, 2, 3].filter fun i => failed.getLsbD i).map fun i =>
             { code := .hbmUncorrected, place := stackPlace s 4 i } }
         ∧ Frame [.boot, .err] s t)
     ∧ (∀ (up half : BitVec 8) (s : State), coreRuns s = true → bootAt s .links = true →
       exec (.linkTrainingDone up half) s = .next (settle
         (setBoot (allPorts.foldl (trainPort up half) s) .selfTest)))
     ∧ (∀ (up half : BitVec 8) (p : Fin 8) (s : State),
         (up.getLsbD p.val = true → trainPort up half s p
           = modPort s p fun v => { v with link := .up, width := if half.getLsbD p.val then 32 else 64 })
         ∧ (up.getLsbD p.val = false → trainPort up half s p
           = raise (modPort s p fun v => { v with link := .down, width := 0, detected := v.detected + 1 }) .linkDown
               (hostPlace p.val)))
     ∧ (∀ (fs : List DetErr) (s : State), coreRuns s = true → bootAt s .selfTest = true →
       ∃ t, exec (.selfTestDone fs) s = .next (settle t) ∧ t.boot = { s.boot with step := .deviceId }
         ∧ t.err = { s.err with raised := s.err.raised
             ++ (fs.filter fun e => e.code == .eccUncorrected || e.code == .parity).map fun e =>
               { code := e.code, place := placeOf s e.place, argA := e.argA, argB := e.argB } }
         ∧ Frame [.boot, .err] s t))

/-- DEVICE_ID_DERIVE and BOOT_BLOCK_READ (19 R544, R545, R551): the DeviceID key comes from the UDS, the boot block is
read at 0x1000, and a good one gives the image addresses; a bad one begins the 10 ms wait that BOOT_RETRY ends, with no
version shown (log 15). -/
def Obligations.BootBlock : Prop :=
  (∀ s : State, coreRuns s = true → bootAt s .deviceId = true →
    exec (.deviceIdDerive true) s = .next (startJob { s with boot := { s.boot with
        devicePub := Config.p384Public (deviceKey s)
        identity := Config.sha384 (beBytes 96 (Config.p384Public (deviceKey s)).toNat), step := .bootBlock } }
      .boot (weightPort s) 0x1000 128))
  ∧ (∀ s : State, coreRuns s = true → bootAt s .deviceId = true →
    exec (.deviceIdDerive false) s
      = .next (settle (raise { s with boot := { s.boot with step := .halted } } .eccUncorrected (stackPlace s 9 0))))
  ∧ (∀ (j : Job) (s : State), coreRuns s = true → bootAt s .bootBlock = true → jobOf s .boot = some j → j.over = true →
      j.failed = none →
    (bootBlockGood j.bytes = true → exec .bootBlockRead s = .next (startJob { dropJob s .boot with boot := { s.boot with
        lilenAddr := BitVec.ofNat 64 (leAt j.bytes 8 8), lilenLen := BitVec.ofNat 32 (leAt j.bytes 16 4)
        tileAddr := BitVec.ofNat 64 (leAt j.bytes 24 8), tileLen := BitVec.ofNat 32 (leAt j.bytes 32 4)
        evidenceAddr := BitVec.ofNat 64 (leAt j.bytes 40 8), nonce := BitVec.ofNat 256 (leAt j.bytes 48 32)
        step := .lilen } }
      .lilen (weightPort s) (BitVec.ofNat 64 (leAt j.bytes 8 8)) (BitVec.ofNat 32 (leAt j.bytes 16 4)).toNat))
    ∧ (bootBlockGood j.bytes = false → ∃ t, exec .bootBlockRead s = .next t
        ∧ t.boot = { s.boot with step := .wait, waitSince := s.time.now }))
  ∧ (∀ s : State, coreRuns s = true → s.boot.step = .wait → s.boot.waitSince + 20000000 ≤ s.time.now →
    ∃ t, exec .bootRetry s = .next t
      ∧ t.boot = { s.boot with lilenVersion := 0, tileVersion := 0, step := .bootBlock }
      ∧ Frame [.boot, .jobs, .ports] s t)

/-- IMAGE_LOAD: a good Lilen image is followed by the tile image, a good tile image by the evidence; an image that fails
a check begins the wait (19 R544, R546, R552). EVIDENCE_WRITE: the version decision, then Pre-operational (R542, R548),
where the shadow copy is written afresh (07 R248). -/
def Obligations.BootImages : Prop :=
  (∀ (j : Job) (s : State), coreRuns s = true → s.boot.step = .lilen → jobOf s .lilen = some j → j.over = true →
      j.failed = none →
    ∃ t, exec .imageLoad s = .next t ∧ if imageGood s j.bytes 1 16777216 (lilenFloor s) = true then
        t.boot.step = .tile ∧ t.boot.lilenVersion = BitVec.ofNat 32 (leAt j.bytes 4 4)
        ∧ t.boot.mLilen = Config.sha384 (j.bytes.take 128 ++ j.bytes.drop 512) ∧ t.boot.tileVersion = s.boot.tileVersion
        ∧ Frame [.boot, .jobs, .ports] s t
      else t.boot = { s.boot with step := .wait, waitSince := s.time.now })
  ∧ (∀ (j : Job) (s : State), coreRuns s = true → s.boot.step = .tile → jobOf s .tile = some j → j.over = true →
      j.failed = none →
    ∃ t, exec .imageLoad s = .next t ∧ if imageGood s j.bytes 2 67108864 (tileFloor s) = true then
        t.boot.step = .evidence ∧ t.boot.tileVersion = BitVec.ofNat 16 (leAt j.bytes 4 2)
        ∧ t.boot.mTile = Config.sha384 (j.bytes.take 128 ++ j.bytes.drop 512) ∧ t.boot.mLilen = s.boot.mLilen
        ∧ Frame [.boot, .jobs, .ports] s t
      else t.boot = { s.boot with step := .wait, waitSince := s.time.now })
  ∧ (∀ s : State, coreRuns s = true → bootAt s .evidence = true → writesLeft s .evidence = false →
    exec .evidenceWrite s = .next (settle (sendBootUp (rewriteShadow { s with
      boot := { s.boot with
        verState := (decidePair s.boot.pairs s.boot.tileVersion).1, pair := (decidePair s.boot.pairs s.boot.tileVersion).2
        step := .running }
      mgmt := { s.mgmt with nmt := .preOperational, lastHeartbeat := s.time.gtAccepted } }))))

/-! ## Ports (18) -/

/-- LINK_DOWN, LINK_RETRAIN, LINK_UP and LINK_RETRY (18 R509, R515; 17 R499, R506): the link's state, width and counts,
what is reported, and that every unacknowledged WRITE is sent again, and counted again (log 35), when the link comes UP.
-/
def Obligations.LinkEvents : Prop :=
  ∀ (p : Fin 8) (s : State), linksTrained s = true →
    ((portOf s p).link = .up →
      exec (.linkDown p) s = .next (settle (raise
        (modPort (modPort s p fun v => { v with link := .down, width := 0 }) p fun v => { v with detected := v.detected + 1 })
        .linkDown (hostPlace p.val) 0))
      ∧ exec (.linkRetrain p) s = .next (settle (raise
        (modPort (modPort s p fun v => { v with link := .training, width := 0 }) p
          fun v => { v with detected := v.detected + 1 })
        .linkDown (hostPlace p.val) 1)))
    ∧ ((portOf s p).link ≠ .up → ∀ half : Bool,
      exec (.linkUp p half) s = .next (settle (drainPort (pumpAt (modPort s p fun v =>
        let w : Port := { v with link := .up, width := if half then 32 else 64 }
        { w with
          bytesOut := v.bytesOut + BitVec.ofNat 64 (v.unacked.foldl (fun n m => n + m.data.size) 0)
          nextSlot := max v.nextSlot (2 * s.time.now) + v.unacked.foldl (fun n m => n + slotUnits w m.data.size) 0
          unacked := v.unacked.map fun m => { m with sentAt := s.time.now } }) p) p)))
    ∧ (portUp s p = true →
      exec (.linkRetry p) s = .next (settle (raise
        (modPort s p fun v => { v with corrected := v.corrected + 1, retries := v.retries + 1 }) .linkRetry
        (hostPlace p.val) ((portOf s p).retries + 1))))

/-- Messages that are no descriptor (18 R511): a WRITE elsewhere than address 0 or of another length and a message of a
reserved op are reported BAD_FIELD with the offset of the field (log 53); a READ is answered COMPLETION_ERROR.
UNKNOWN_TYPE (03 R120): a descriptor of an undefined type is counted at its port, reported, and takes its sequence
number; nothing else happens to it. -/
def Obligations.StrayMessagesAreReported : Prop :=
  (∀ (p : Fin 8) (s : State), portAlive s p = true →
     (∀ (addr : W64) (len : BitVec 12), addr ≠ 0 →
       exec (.hostWriteStray p addr len) s = .next (settle (violateAt s (tickOf s) 0
         { code := .badField, port := BitVec.ofNat 5 p.val, stamp := s.time.now, detailA := 8 })))
     ∧ (∀ len : BitVec 12, len ≠ 63 →
       exec (.hostWriteStray p 0 len) s = .next (settle (violateAt s (tickOf s) 0
         { code := .badField, port := BitVec.ofNat 5 p.val, stamp := s.time.now, detailA := 2 })))
     ∧ (∀ op : BitVec 4, op = 0 ∨ 4 < op.toNat →
       exec (.hostMessageReservedOp p op) s = .next (settle (violateAt s (tickOf s) 0
         { code := .badField, port := BitVec.ofNat 5 p.val, stamp := s.time.now, detailA := 0 })))
     ∧ (∀ tag : W16, exec (.hostRead p tag) s = .next (modPort s p fun v => { v with answers := tag :: v.answers })))
  ∧ (∀ (d : Desc) (ty : Byte) (s : State), nodeUp s = true → portUp s d.port = true → d.port.val < 6 →
         ty = 0 ∨ 10 < ty.toNat → d.portSeq = (portOf s d.port).seq →
       let t := modPort (violate (modPort s d.port fun v => { v with descs := v.descs + 1 }) d ty s.time.now (tickOf s)
         .unknownType) d.port fun v => { v with seq := d.portSeq + 1 }
       exec (.unknownType d ty) s = .next (settle { t with time := { t.time with arrivals := t.time.arrivals + 1 } }))

/-- Completions (18 R511 to R514): a WRITE's acknowledges it and every earlier one; a READ's of the right length
delivers its data; one that names nothing outstanding is reported; an error, or no answer within 100,000 or 200,000 ac,
fails it. READ_TIMEOUT and WRITE_TIMEOUT: a failure after 200,000 and 100,000 ac, not before; a failed WRITE of a ring
waits for the next T_n as a retry, counted at the port and reported HOST_WRITE (18 R512 to R514). -/
def Obligations.CompletionsAndTimeouts : Prop :=
  (∀ (p : Fin 8) (tag : W16) (s : State), portAlive s p = true →
     (∀ m : WriteMsg, tag.getLsbD 15 = false → writeByNum s p (tag.truncate 15) = some m →
       exec (.completion p tag []) s = .next (settle (drainPort (pumpAfter s p fun v =>
         { v with unacked := afterNum (tag.truncate 15) v.unacked }) p))
       ∧ exec (.completionError p tag) s = .next (settle (failWrite s p m)))
     ∧ (∀ (m : ReadMsg) (data : List Byte), tag.getLsbD 15 = true → readByTag s p (tag.truncate 15) = some m →
       (data.length = m.len → exec (.completion p tag data) s
         = .next (settle (deliverRead (endRead s p (tag.truncate 15)) m data)))
       ∧ exec (.completionError p tag) s = .next (settle (failRead s p m)))
     ∧ (tag.getLsbD 15 = true → readByTag s p (tag.truncate 15) = none → ∀ data : List Byte,
       exec (.completion p tag data) s = .next (settle (violateAt s (tickOf s) 0
         { code := .badField, port := BitVec.ofNat 5 p.val, stamp := s.time.now, detailA := 4 })))
     ∧ (tag.getLsbD 15 = false → writeByNum s p (tag.truncate 15) = none →
       exec (.completion p tag []) s = .next (settle (violateAt s (tickOf s) 0
         { code := .badField, port := BitVec.ofNat 5 p.val, stamp := s.time.now, detailA := 4 }))))
  ∧ ((∀ (p : Fin 8) (n : BitVec 15) (m : ReadMsg) (s : State), linksTrained s = true → readByTag s p n = some m →
       (m.sentAt + 200000 ≤ s.time.now → exec (.readTimeout p n) s = .next (settle (failRead s p m)))
       ∧ (s.time.now < m.sentAt + 200000 → exec (.readTimeout p n) s = .next s))
     ∧ (∀ (p : Fin 8) (n : BitVec 15) (m : WriteMsg) (s : State), linksTrained s = true → writeByNum s p n = some m →
       (m.sentAt + 100000 ≤ s.time.now → exec (.writeTimeout p n) s = .next (settle (failWrite s p m)))
       ∧ (s.time.now < m.sentAt + 100000 → exec (.writeTimeout p n) s = .next s))
     ∧ (∀ (p : Fin 8) (m : WriteMsg) (slot : Slot) (s : State), m.dest = .ring slot →
       { m with retry := true } ∈ (portOf (failWrite s p m) p).failedWrites
         ∧ (portOf (failWrite s p m) p).detected = (portOf s p).detected + 1
         ∧ ((failWrite s p m).err.raised.map (·.code)) = s.err.raised.map (·.code) ++ [.hostWrite]))

/-- CONSUMER_INDEX_RETURN and HOLD_RING (03 R112 to R118): a value that is not beyond the producer index becomes the
consumer index, a full ring is held, and the records and the work that wait go on; one beyond it is reported; a hold
without progress for the Ring Stall Limit is reported once (log 32). -/
def Obligations.ConsumerIndex : Prop :=
  (∀ (p : Fin 8) (tag : BitVec 15) (m : ReadMsg) (ref : RingRef) (v : W32) (s : State), portAlive s p = true →
      readByTag s p tag = some m → m.purpose = .consumer ref →
    exec (.consumerIndexReturn p tag v) s = .next (settle (consumerReturn (endRead s p tag) ref v)))
  ∧ (∀ (slot : Slot) (v : W32) (s : State), (reqOf s slot).entryBad = false →
      beyond v (reqOf s slot).producer = false →
    let t := modReq s slot fun r => { r with
      consumer := v, holdTicks := if v != r.consumer then 0 else r.holdTicks
      held := { r with consumer := v }.free == 0, holdReported := r.holdReported && { r with consumer := v }.free == 0 }
    ((reqOf s slot).st = .closing → consumerReturn s (.req slot (genOf s slot)) v = t)
    ∧ ((reqOf s slot).st ≠ .free → (reqOf s slot).st ≠ .closing →
      consumerReturn s (.req slot (genOf s slot)) v = goOn t slot))
  ∧ (∀ (slot : Slot) (v : W32) (s : State), (reqOf s slot).st ≠ .free → (reqOf s slot).entryBad = false →
      beyond v (reqOf s slot).producer = true →
    consumerReturn s (.req slot (genOf s slot)) v = violateAt s (tickOf s) (handleOf s slot)
      { code := .consumerAhead, port := BitVec.ofNat 5 (reqOf s slot).home.val, stamp := s.time.now
        detailA := v.zeroExtend 64, detailB := (reqOf s slot).producer.zeroExtend 64 })
  ∧ (∀ (slot : Slot) (s : State), nodeUp s = true → (reqOf s slot).st ≠ .free → isHeld s slot (reqOf s slot) = true →
      (reqOf s slot).holdReported = false → s.err.stallNow.toNat ≤ (reqOf s slot).holdTicks →
    exec (.holdRing slot) s = .next (settle (violateAt (modReq s slot fun r => { r with holdReported := true })
      (tickOf s) (handleOf s slot)
      { code := .holdRing, port := BitVec.ofNat 5 (reqOf s slot).home.val, stamp := s.time.now
        detailA := BitVec.ofNat 64 (reqOf s slot).holdTicks })))

/-! ## Requests (03, 04, 11) -/

/-- OPEN (03 R72 to R74; 04 R155, R156; 12 R391 to R393): an OPEN that passes the checks of a RUNNING function with room
is admitted under the entry it describes; a check that fails, or a demand test, closes it REFUSED with the reason, an
absent vocabulary being reported too; one of a function that is not RUNNING is parked and counted. Admission (03 R74; 05
R162; 11 R343, R344; 13 R428): head and window pages that fit, the next pattern engine of the class, the version the
request runs under, the automaton's start in the store of that engine and the first MASK chain; no pages gives
STATE_FULL and reason 0x0009, no pattern engine reason 0x000A. The summary starts as zeros (log 87). -/
def Obligations.OpenAndAdmission : Prop :=
  (∀ (d : Desc) (s : State), Clean s d 1 → (reqOf s (handleSlot d.handle)).st = .free → ringBad (openEntry d) = false →
     (openCheck s (openEntry d) = 0 → (fnOf s (openEntry d).fn).st = .running → demandBreaks s (openEntry d) = false →
       exec (.openReq d) s = .next (settle (admitReq
         (setReq (arrived s d) (handleSlot d.handle) { openEntry d with st := .opened }) (handleSlot d.handle) (tickOf s))))
     ∧ (openCheck s (openEntry d) = 0 → (fnOf s (openEntry d).fn).st = .running → demandBreaks s (openEntry d) = true →
       exec (.openReq d) s = .next (settle (refuseOpen
         (setReq (arrived s d) (handleSlot d.handle) { openEntry d with st := .opened }) (handleSlot d.handle) (tickOf s) 9)))
     ∧ (openCheck s (openEntry d) ≠ 0 → openCheck s (openEntry d) ≠ 6 →
       exec (.openReq d) s = .next (settle (refuseOpen
         (setReq (arrived s d) (handleSlot d.handle) { openEntry d with st := .opened }) (handleSlot d.handle) (tickOf s)
         (openCheck s (openEntry d)))))
     ∧ (openCheck s (openEntry d) = 6 →
       exec (.openReq d) s = .next (settle (refuseOpen (reportRow
         (setReq (arrived s d) (handleSlot d.handle) { openEntry d with st := .opened }) (itemOf s d .openReq) 1 .vocabAbsent
         (openEntry d).vocab.val 0) (handleSlot d.handle) (tickOf s) 6)))
     ∧ (openCheck s (openEntry d) = 0 → (fnOf s (openEntry d).fn).st ≠ .running →
       exec (.openReq d) s = .next (settle (fnCount (setReq (arrived s d) (handleSlot d.handle) { openEntry d with
         st := .opened, queue := [{ itemOf s d .openReq with parked := true }] }) (openEntry d).fn 0x0E 1))))
  ∧ (∀ (slot : Slot) (k : TickRef) (s : State),
       let r := reqOf s slot
       let f := (fnOf s r.fn).act
       let n := 1 + windowCount (planOf s f.plan)
       (∀ e : Fin 8, pagesFit s n = true → nextPattern s r.latency = some e →
         let t := modReq (reservePages { s with req :=
               if r.latency then { s.req with latPtr := e } else { s.req with bulkPtr := e } } slot e.val
               (windowCount (planOf s f.plan))) slot
             fun x => { x with
               admitted := true, pattern := some e, admitTick := if s.tick.cur.idx = 0 then k else s.tick.cur
               pinTicks := 0, pinned := f.pinMode == 1
               deltaVersion := (policyOf s x.policy).deltaVersion, deltaUse := useNow (policyOf s x.policy)
               promptVersion := screenVersion s (planOf s f.plan).promptId
               watcherVersion := screenVersion s (planOf s f.plan).watcherId
               auto := startAuto (grammarImage s x)
               summary := List.replicate (planOf s f.plan).decl.summaryBytes.toNat 0 }
         admitReq s slot k = issueChain (storeTrim (useRecord t slot).1 e) slot 0 0 k 0)
       ∧ (pagesFit s n = false → admitReq s slot k = refuseOpen (stateFull s n) slot k 9)
       ∧ (pagesFit s n = true → nextPattern s r.latency = none → admitReq s slot k = refuseOpen s slot k 10))

/-- PROMPT (03 R75, R76): the segment is appended; an inline one brings its bytes, another is read from host memory at
its address on the home port. -/
def Obligations.PromptAppendsItsSegment : Prop :=
  ∀ (d : Desc) (s : State), Direct s d .prompt →
    let slot := handleSlot d.handle
    let n := promptLength d
    let grow (data : Option (List Byte)) : State := modReq (arrived s d) slot fun r => { r with
      st := .prompt, promptSent := r.promptSent + n, promptLast := promptIsLast d
      promptSegs := r.promptSegs ++ [{ offset := promptOffset d, len := n, ids := promptIsIds d, last := promptIsLast d
                                       tick := tickOf s, parked := false, data := data }]
      promptTick := if promptIsLast d then tickOf s else r.promptTick }
    (promptIsInline d = true → exec (.prompt d) s = .next (settle (runPrompt
      (grow (some ((List.range n).map fun i => BitVec.ofNat 8 (pfield d (28 + i) 0 8)))) slot)))
    ∧ (promptIsInline d = false → exec (.prompt d) s = .next (settle (startJob (grow none) (.prompt slot (promptOffset d))
        (reqOf (grow none) slot).home (BitVec.ofNat 64 (pfield d 20 0 64)) n)))

/-- TOKENS (03 R85 to R87, R91; 11 R348): the automaton record is in its store or read from the head page first; with
nothing speculative outstanding the committed tokens raise C and all its tokens raise S; a purely speculative one within
the depth of 16 raises S alone; the new positions are scanned and what may go is released. The errors met on the way are
reported first (17 R506). -/
def Obligations.TokensRaiseCAndS : Prop :=
  (∀ (d : Desc) (s : State), Direct s d .tokens →
    let slot := handleSlot d.handle
    let r := reqOf s slot
    let n := tokensCount d
    let spec := tokensSpec d
    let x := enterTokens (arrived s d) slot
    let news := newPositions x.1 r (itemOf s d .tokens) x.2 n
    let grown (committed : Nat) (ending : Bool) : State :=
      modReq (textCount x.1 2 (news.filter (·.waitsRead)).length) slot fun y =>
        let c := if committed = 0 then y.c else y.s + committed
        { y with
          positions := y.positions ++ news, c := c, s := y.s + n, endSeen := y.endSeen || ending
          closeTick := if ending then some (y.closeTick.getD (tickOf s)) else y.closeTick
          chains := y.chains ++ [{ first := r.s, c := c, s := y.s + n, tick := tickOf s, parked := false, ending := ending
                                   entered := x.2 }] }
    (spec < n → r.s = r.c → exec (.tokens d []) s = .next (settle (pump (runScan
      (addGroup (grown (n - spec) (tokensEnd d && spec == 0)) slot r.s (n - spec)) slot) slot)))
    ∧ (spec = n → n ≠ 0 → r.c ≤ r.s → r.s - r.c + n ≤ 16 → exec (.tokens d []) s = .next (settle (pump (runScan
      (addGroup (grown 0 false) slot r.s 0) slot) slot))))
  ∧ (∀ (d : Desc) (errs : List DetErr) (s : State), Clean s d 3 →
    exec (.tokens d errs) s = .next (settle (route
      (raiseTokensErrs (errs.filter tokensErr) d (arrived s d) (handleSlot d.handle)) (handleSlot d.handle)
      (itemOf s d .tokens ((errs.filter tokensErr).filter fun e => e.code != .requestEntry)))))

/-- A TOKENS whose count is 0 or above 12, or whose spec_count exceeds its count, is discarded and reported BAD_FIELD
(03 R79); its port counts it and takes its sequence number. -/
def Obligations.MalformedTokensAreDiscarded : Prop :=
  ∀ (d : Desc) (errs : List DetErr) (s : State), nodeUp s = true → portUp s d.port = true → d.port.val < 6 →
      firstReserved 3 d = none → d.portSeq = (portOf s d.port).seq →
      tokensCount d = 0 ∨ 12 < tokensCount d ∨ tokensCount d < tokensSpec d →
    let t := modPort (violate (modPort s d.port fun v => { v with descs := v.descs + 1 }) d 3 s.time.now (tickOf s) .badField
      (if tokensCount d = 0 ∨ 12 < tokensCount d then 12 else 13)) d.port fun v => { v with seq := d.portSeq + 1 }
    exec (.tokens d errs) s = .next (settle { t with time := { t.time with arrivals := t.time.arrivals + 1 } })

/-- ACCEPT (03 R88; 05 R169; 11 R352, R353): as many tokens as it names are committed, to be released 10 cycles after it
at the earliest; when fewer than are outstanding, the rest are rejected and the state before them is restored. A
rejection discards every position from the one named on, with their searches and results, and restores the snapshots of
the automaton record and the summary vector (03 R88; 11 R352). -/
def Obligations.AcceptAndReject : Prop :=
  (∀ (d : Desc) (s : State), Direct s d .accept →
     let slot := handleSlot d.handle
     let r := reqOf s slot
     let n := pfield d 12 0 16
     let took := modReq (arrived s d) slot fun x => { x with
       c := x.c + n
       positions := x.positions.map fun y => if r.c ≤ y.p ∧ y.p < r.c + n then
         { y with group := y.p, due := max y.due (s.time.now + 11) } else y }
     (n = r.s - r.c → exec (.accept d) s = .next (settle (pump
         (addGroup (wakeAt took slot (s.time.now + 10)) slot r.c n) slot)))
     ∧ (n < r.s - r.c → exec (.accept d) s = .next (settle (pump
         (addGroup (wakeAt (rejectFrom took slot (r.c + n) s.time.now) slot (s.time.now + 10)) slot r.c n) slot))))
  ∧ (∀ (slot : Slot) (n stamp : Nat) (s : State),
       (reqOf (rejectFrom s slot n stamp) slot).s = n
       ∧ (reqOf (rejectFrom s slot n stamp) slot).positions.length ≤ n
       ∧ (reqOf (rejectFrom s slot n stamp) slot).wait = .restore
       ∧ (∀ a : Auto, (reqOf s slot).snaps.find? (fun e => e.1 == n) = some (n, a) →
           (reqOf (rejectFrom s slot n stamp) slot).auto = a)
       ∧ (∀ v : List Byte, (reqOf s slot).sumSnaps.find? (fun e => e.1 == n) = some (n, v) →
           (reqOf (rejectFrom s slot n stamp) slot).summary = v)
       ∧ (∀ k ∈ (reqOf (rejectFrom s slot n stamp) slot).chains, k.first < n ∧ k.s ≤ n)
       ∧ (∀ v ∈ (reqOf (rejectFrom s slot n stamp) slot).verdictsDue, v.pos.toNat < n)
       ∧ (∀ x ∈ (reqOf (rejectFrom s slot n stamp) slot).results, ∀ p, x.1.asker = .s3 slot p ∨ x.1.asker = .s4 slot p → p < n)
       ∧ (∀ q ∈ (rejectFrom s slot n stamp).mortise.waiting, ∀ p, q.asker = .s3 slot p ∨ q.asker = .s4 slot p → p < n))

/-- PAUSE, RESUME of kind COLD and RESUME of kind HOLD_RELEASE (03 R97 to R99; 11 R363, R365; 04 R134, R141): the state
of the request, the counts, its pages read back from their cold slot, and the oldest hold released. -/
def Obligations.PauseAndResume : Prop :=
  (∀ (d : Desc) (s : State), Direct s d .pause →
    exec (.pause d) s = .next (settle (modReq (arrived s d) (handleSlot d.handle) fun r => { r with
      st := .paused, coldSt := .inHbm, expiry := 0 })))
  ∧ (∀ (d : Desc) (s : State), Direct s d .resumeCold → pfield d 12 0 1 = 0 →
    ((reqOf s (handleSlot d.handle)).expiry = 0
          ∨ s.time.gtAccepted.toNat < (reqOf s (handleSlot d.handle)).expiry.toNat →
        (reqOf s (handleSlot d.handle)).coldSt = .inHbm →
      exec (.resumeCold d) s = .next (settle (pump (modReq
        (coldCount (modReq (arrived s d) (handleSlot d.handle) fun r => { r with st := .streaming }) 2)
        (handleSlot d.handle) fun r => { r with expiry := 0 }) (handleSlot d.handle))))
    ∧ (∀ k : Nat, (reqOf s (handleSlot d.handle)).expiry = 0
          ∨ s.time.gtAccepted.toNat < (reqOf s (handleSlot d.handle)).expiry.toNat →
        (reqOf s (handleSlot d.handle)).coldSt = .moved k →
      exec (.resumeCold d) s = .next (settle (copyBack (modReq
        (coldCount (modReq (arrived s d) (handleSlot d.handle) fun r => { r with st := .streaming }) 2)
        (handleSlot d.handle) fun r => { r with wait := .copyBack }) (handleSlot d.handle) k)))
    ∧ ((reqOf s (handleSlot d.handle)).expiry ≠ 0 →
      (reqOf s (handleSlot d.handle)).expiry.toNat ≤ s.time.gtAccepted.toNat →
      exec (.resumeCold d) s = .next (settle (finishRequest (coldCount (stopCold (arrived s d) (handleSlot d.handle)) 3)
        (handleSlot d.handle) (reqOf s (handleSlot d.handle)).front 0x80 (tickOf s)))))
  ∧ (∀ (d : Desc) (s : State), Direct s d .resumeHold → pfield d 12 0 1 = 1 →
    ((reqOf s (handleSlot d.handle)).st = .prompt →
      exec (.resumeHoldRelease d) s = .next (settle (pump (modReq (arrived s d) (handleSlot d.handle) fun r => { r with
        promptHeld := false, st := .streaming }) (handleSlot d.handle))))
    ∧ (∀ (p : Nat) (own : Bool) (rest : List (Nat × Bool)), (reqOf s (handleSlot d.handle)).st = .streaming →
        (reqOf s (handleSlot d.handle)).holds = (p, own) :: rest →
      exec (.resumeHoldRelease d) s = .next (settle (pump (modReq (arrived s d) (handleSlot d.handle) fun r => { r with
        holds := rest
        positions := if own then Pos.modAt r.positions p fun x => { x with resumed := true } else r.positions })
        (handleSlot d.handle)))))

/-- CANCEL and CLOSE (03 R91 to R95): CANCEL ends a request at once and empties its queue, tokens queued behind a CLOSE
or END being reported, or adds its cause to a CLOSED that waits; CLOSE of a request that no prompt has reached ends it,
CLOSE of another is noted, stops a cold move of a paused one, and takes effect when everything before it is done. -/
def Obligations.CancelAndClose : Prop :=
  (∀ (d : Desc) (s : State), Direct s d .cancel →
    let slot := handleSlot d.handle
    let r := reqOf (stopCold (arrived s d) slot) slot
    let more : Byte := flagIf (endQueued r) 1 ||| flagIf (r.queue.any fun q => q.kind == .close) 2
    let t := modReq (reportAfterClose r.queue (r.closeSeen || r.endSeen) (stopCold (arrived s d) slot)) slot fun r => { r with
      cancelSeen := true, queue := [] }
    (r.pendingClosed = none →
      exec (.cancel d) s = .next (settle (finishRequest t slot r.front ((reqOf t slot).causes ||| more) (tickOf s))))
    ∧ (∀ c : ClosedRec, r.pendingClosed = some c → exec (.cancel d) s = .next (settle (modReq t slot fun r => { r with
        pendingClosed := some { c with cause := c.cause ||| more ||| 4 } }))))
  ∧ (∀ (d : Desc) (s : State), Direct s d .close →
    let slot := handleSlot d.handle
    let r := reqOf s slot
    let t := modReq (arrived s d) slot fun x => { x with closeSeen := true, closeTick := some (r.closeTick.getD (tickOf s)) }
    (r.st = .opened → exec (.close d) s = .next (settle (finishRequest (modReq t slot fun x => { x with queue := [] }) slot 0
        (reqOf (modReq t slot fun x => { x with queue := [] }) slot).causes (tickOf s))))
    ∧ (r.st = .prompt ∨ r.st = .streaming → exec (.close d) s = .next (settle (pump t slot)))
    ∧ (r.st = .paused → exec (.close d) s = .next (settle (pump (stopCold t slot) slot))))

/-- Descriptors that wait (03 R116, R559; 04 R156, R159; 05 R168; 11 R353; 06 R185): the head of a queue leaves it and
is processed, a parked OPEN being admitted with its own tick; a snapshot restore ends 200 ac after the descriptor that
rejected; an overflow entry comes in 180 ac after its cycle of the path at the earliest, and lets its position be
scanned. PARK_LIMIT_EXPIRY and PIN_LIMIT_EXPIRY (04 R158; 13 R428): one WITHHELD verdict of class HOLD for a request
whose oldest parked descriptor has waited Park Limit boundaries, marked UNTESTED while the self-test result is only
acknowledged (04 R136); a pinned request moves to the versions in force at the Pin Limit-th boundary. -/
def Obligations.WaitsEnd : Prop :=
  ((∀ (slot : Slot) (q : QItem) (rest : List QItem) (s : State), nodeUp s = true → (reqOf s slot).st ≠ .free →
       (reqOf s slot).queue = q :: rest → canRun s slot q = true →
     (¬ (q.kind = .openReq ∧ q.parked = true) → exec (.descriptorDequeue slot) s
       = .next (settle (processItem (modReq s slot fun r => { r with queue := rest }) slot q)))
     ∧ (q.kind = .openReq → q.parked = true → exec (.descriptorDequeue slot) s
       = .next (settle (admitReq (modReq s slot fun r => { r with queue := rest }) slot q.tick))))
   ∧ (∀ (slot : Slot) (s : State), coreRuns s = true → (reqOf s slot).wait = .restore →
       (reqOf s slot).waitSince + (if headAffine (reqOf s slot) then 200 else 204) ≤ s.time.now →
     exec (.snapshotRestore slot) s = .next (modReq s slot fun r => { r with wait := .none }))
   ∧ (∀ (slot : Slot) (p : W32) (s : State), coreRuns s = true →
       ((reqOf s slot).positions[p.toNat]?).any
         (fun x => x.waitsRead && decide (overflowAt (reqOf s slot) x ≤ s.time.now)) = true →
       (reqOf s slot).st ≠ .closing → (reqOf s slot).pendingClosed = none →
     let t := modReq s slot fun r => { r with
       positions := Pos.modAt r.positions p.toNat fun x => { x with waitsRead := false } }
     exec (.vocabOverflowRead slot p) s = .next (settle (pump (runScan t slot) slot))))
  ∧ ((∀ (slot : Slot) (q : QItem) (s : State), nodeUp s = true → (reqOf s slot).queue.find? (·.parked) = some q →
         (reqOf s slot).withheldSent = false → (reqOf s slot).entryBad = false → (reqOf s slot).st ≠ .closing →
         parks s (reqOf s slot) = true → roomFor s slot = true →
         (fnOf s (reqOf s slot).fn).act.parkLimit.toNat ≤ q.boundaries →
       exec (.parkLimitExpiry slot) s = .next (settle (issue (modReq s slot fun r => { r with withheldSent := true }) slot
         { flags := 8 ||| flagIf (s.boot.verState == 2) 4, tick := q.tick, handle := handleOf s slot
           body := .verdict { position := (withheldPos (reqOf s slot) q).1
                              stage := BitVec.ofNat 4 (withheldPos (reqOf s slot) q).2, cls := 2
                              deltaVersion := (deltaVersionOf s (reqOf s slot) q.tick).truncate 16 } })))
     ∧ (∀ (slot : Slot) (s : State), coreRuns s = true → s.tick.cur.idx ≠ 0 → s.time.now = s.tick.at_ →
         (reqOf s slot).st ≠ .free → (reqOf s slot).pinned = true →
         (fnOf s (reqOf s slot).fn).act.pinLimit.toNat ≤ (reqOf s slot).pinTicks →
       exec (.pinLimitExpiry slot) s = .next (modReq s slot fun r => { r with
         pinned := false, deltaVersion := (policyOf s (reqOf s slot).policy).deltaVersion, deltaUse := {}
         promptVersion := screenVersion s (planOf s (fnOf s (reqOf s slot).fn).act.plan).promptId
         watcherVersion := screenVersion s (planOf s (fnOf s (reqOf s slot).fn).act.plan).watcherId })))

/-- Outside Operational every descriptor of a request and FEEDBACK are discarded: no request changes (03 R55). -/
def Obligations.DescriptorsNeedOperational : Prop :=
  ∀ (d : Desc) (s t : State), s.mgmt.nmt ≠ .operational →
    ∀ c ∈ [Instr.openReq d, .prompt d, .tokens d [], .accept d, .pause d, .resumeCold d, .resumeHoldRelease d, .cancel d,
        .close d, .feedback d], exec c s = .next t →
      t.req = s.req ∧ t.text = s.text ∧ t.mortise = s.mortise ∧ t.stream = s.stream ∧ t.tune = s.tune ∧ t.jobs = s.jobs
        ∧ t.time = { s.time with arrivals := t.time.arrivals } ∧ t.acct = s.acct ∧ t.cal = s.cal

/-! ## Mortise array (07; 04) -/

/-- The match of the local array (07 R219 to R221, R228): the matches are the valid entries with a rule tag inside the
half-open window and every enabled field within its inclusive bounds; a hit names, of the matches in their order, one
that none exceeds in priority and none before it equals; no match, no hit. -/
def Obligations.SearchFindsTheBestMatch : Prop :=
  ∀ (key : List W32) (base limit : W32) (s : State),
    let l := matching s key base limit
    ((findLocal s key base limit).hit = true ↔ l ≠ [])
    ∧ ((findLocal s key base limit).hit = true →
      ∃ (lower upper : List (Nat × MEntry)) (e : Nat × MEntry), l = lower ++ e :: upper
        ∧ (findLocal s key base limit).index = globalIndex s e.1
        ∧ (findLocal s key base limit).action = e.2.image.action
        ∧ (findLocal s key base limit).matchCount = l.length
        ∧ (∀ x ∈ lower, x.2.image.priority.toNat < e.2.image.priority.toNat)
        ∧ (∀ x ∈ upper, x.2.image.priority.toNat ≤ e.2.image.priority.toNat))
    ∧ (∀ e, e ∈ l ↔ e ∈ s.mortise.entries ∧ e.2.st = .valid
      ∧ base.toNat ≤ e.2.image.tag.toNat ∧ e.2.image.tag.toNat < limit.toNat
      ∧ ∀ k, k < 8 → e.2.image.enables.getLsbD k = true →
          (e.2.image.lo.getD k 0).toNat ≤ (key.getD k 0).toNat ∧ (key.getD k 0).toNat ≤ (e.2.image.hi.getD k 0).toNat)

/-- The steps of an update window (07 R234 to R237): INVALIDATE empties the entry, WRITE stores the window's image when
the entry is not VALID and no enabled field has lo above hi, VALIDATE makes a WRITTEN entry VALID; each step queues the
shadow refresh. A write of the entry number shows the entry's image and state. BULK_UPDATE_RUN and BULK_UPDATE_RECORD
(07 R238, R239): the list is read at its address, and its records are applied in order, at most one every 8 ac; a record
whose range is bad stops the run at its number; an invalidate empties its entry and is done, a replace stores its image
in the cycle after step 1 and makes the entry VALID in the one after that. -/
def Obligations.EntriesAreUpdated : Prop :=
  ((∀ (path : Path) (s : State), Served s path 0x2401 2 → s.mortise.bulkSt ≠ .running →
     let e := s.mortise.winEntry.toNat
     ((entryOf s e).st ≠ .empty → exec (.mortiseInvalidate path) s = .next (settle (respond
       (noteStep (setEntry (heard s path 0x2401) e { entryOf s e with st := .empty }) e) path 0 [])))
     ∧ ((entryOf s e).st ≠ .valid → badRange s.mortise.winImage = false → exec (.mortiseWrite path) s = .next (settle (respond
       (noteStep (setEntry (heard s path 0x2401) e
         { image := s.mortise.winImage, st := .written, wroteAt := s.time.now + 1 }) e) path 0 [])))
     ∧ ((entryOf s e).st = .written → exec (.mortiseValidate path) s = .next (settle (respond
       (noteStep (setEntry (heard s path 0x2401) e { entryOf s e with st := .valid }) e) path 0 [])))
     ∧ ((entryOf s e).st = .valid → exec (.mortiseWrite path) s
         = .next (settle (abortReq (heard s path 0x2401) path abState rsEntry 0x2401 2))))
   ∧ (∀ (path : Path) (v : W32) (s : State), Served s path 0x2401 1 →
     (v.toNat ≤ 262143 → exec (.updateWindowEntry path v) s = .next (settle (respond
       { heard s path 0x2401 with mortise := { s.mortise with
           winEntry := v, winImage := (entryOf s v.toNat).image, winState := entryState (entryOf s v.toNat) } }
       path 0 [])))
     ∧ (262143 < v.toNat → exec (.updateWindowEntry path v) s
         = .next (settle (abortReq (heard s path 0x2401) path abRange 0 0x2401 1)))))
  ∧ ((∀ (path : Path) (s : State), Served s path 0x2402 3 → s.mortise.bulkSt ≠ .running → s.mortise.bulkCount ≠ 0 →
       exec (.bulkUpdateRun path) s = .next (settle (respond (startJob { heard s path 0x2402 with mortise := { s.mortise with
           bulkSt := .running, bulkApplied := 0, bulkFailing := 0, bulkTotal := s.mortise.bulkCount.toNat, bulkLastAt := 0 } }
         .bulk (weightPort s) s.mortise.bulkAddr (128 * s.mortise.bulkCount.toNat)) path 0 [])))
     ∧ (∀ (j : Job) (b : List Byte) (s : State), coreRuns s = true → s.mortise.bulkSt = .running → jobOf s .bulk = some j →
         s.mortise.bulkStep = none → s.mortise.bulkApplied = 0 ∨ s.mortise.bulkLastAt + 8 ≤ s.time.now →
         jobSlice j (128 * s.mortise.bulkApplied.toNat) 128 = some b →
       ((byteAt b 4).getLsbD 0 = false → badRange (readImage (b.drop 16)) = true →
         exec .bulkUpdateRecord s = .next (bulkFail s s.mortise.bulkApplied.toNat))
       ∧ (let t := step1 { s with mortise := { s.mortise with bulkLastAt := s.time.now } } (leAt b 0 4 % 2 ^ 18)
         ((byteAt b 4).getLsbD 0 = true → exec .bulkUpdateRecord s = .next (bulkRecordDone t))
         ∧ ((byteAt b 4).getLsbD 0 = false → badRange (readImage (b.drop 16)) = false →
           exec .bulkUpdateRecord s = .next (let t := noteStep t (leAt b 0 4 % 2 ^ 18)
             { t with mortise := { t.mortise with
                 bulkStep := some { entry := leAt b 0 4 % 2 ^ 18, image := readImage (b.drop 16) } } }))))
     ∧ (∀ (x : BulkStep) (s : State), s.mortise.bulkStep = some x →
       (x.third = false → entryOf (bulkCycle s) x.entry = { image := x.image, st := .written, wroteAt := s.time.now + 1 })
       ∧ (x.third = true → entryOf (bulkCycle s) x.entry = { entryOf s x.entry with st := .valid }
           ∧ (bulkCycle s).mortise.bulkApplied = BitVec.ofNat 32 (s.mortise.bulkApplied.toNat + 1)
           ∧ (bulkCycle s).mortise.bulkStep = none)))

/-- The cursor and key capture (07 R230 to R233): FIRST asks for the lowest match, NEXT for the one above the index
shown; the result shows the entry, or END; key capture is armed and disarmed. -/
def Obligations.CursorAndCapture : Prop :=
  (∀ (path : Path) (s : State), Served s path 0x2403 0x0B → s.mortise.curSt ≠ .busy →
    exec (.cursorFirst path) s = .next (settle (respond (cursorAsk (heard s path 0x2403) none) path 0 []))
    ∧ exec (.cursorNext path) s = .next (settle (respond (cursorAsk (heard s path 0x2403)
        (if s.mortise.curSt = .none then none else some s.mortise.curIndex)) path 0 [])))
  ∧ (∀ (x : Search) (s : State), coreRuns s = true → cursorSearch s = some x → searchById s x.id = some x → x.back = true →
      x.issue + searchDelay s ≤ s.time.now → s.mortise.curSt = .busy →
    exec (.cursorStepDone .ok) s = .next (settle (cursorResult (dropSearch s x.id) true x.found)))
  ∧ (∀ (f : Found) (b : Bool) (s : State), f.fault = false → f.hit = true →
    (cursorResult s b f).mortise = { s.mortise with
      curSt := .valid, curIndex := f.index, curPriority := f.priority, curAction := f.action, curSuspect := f.suspect })
  ∧ (∀ (b : Bool) (s : State), (cursorResult s b {}).mortise = { s.mortise with curSt := .endd })
  ∧ (∀ (path : Path) (v : Byte) (s : State), Served s path 0x2404 4 → v.toNat ≤ 1 →
    exec (.keyCaptureArm path v) s = .next (settle (respond
      { heard s path 0x2404 with mortise := { s.mortise with capState := v } } path 0 [])))

/-- SHADOW_REFRESH and SCRUB_VISIT (07 R237, R249 to R252): the shadow slot takes the entry's latest image and state;
the scrubber visits the entries in turn, and an entry that differs from its slot is counted and becomes SUSPECT, which
is reported when it was not SUSPECT before. -/
def Obligations.ShadowAndScrub : Prop :=
  (∀ (e : BitVec 18) (s : State), coreRuns s = true → s.mortise.refresh.contains e.toNat = true →
    exec (.shadowRefresh e) s = .next { s with mortise := { s.mortise with
      shadow := Tbl.put {} s.mortise.shadow e.toNat (shadowOf (entryOf s e.toNat))
      refresh := s.mortise.refresh.filter fun x => x != e.toNat } })
  ∧ (∀ s : State, nodeUp s = true → s.mortise.scrubOn = 1 → s.mortise.scrubLast + s.mortise.scrubInterval.toNat ≤ s.time.now →
      s.mortise.scrubAt < 262143 → s.mortise.refresh.contains s.mortise.scrubAt = false → portStepped s = false →
    let t := { s with mortise := { s.mortise with scrubAt := s.mortise.scrubAt + 1, scrubLast := s.time.now } }
    (shadowOf (entryOf s s.mortise.scrubAt) = Tbl.get {} s.mortise.shadow s.mortise.scrubAt →
      exec (.scrubVisit false) s = .next t)
    ∧ (shadowOf (entryOf s s.mortise.scrubAt) ≠ Tbl.get {} s.mortise.shadow s.mortise.scrubAt →
      let u := { setEntry t s.mortise.scrubAt { entryOf s s.mortise.scrubAt with suspect := true } with
        mortise := { (setEntry t s.mortise.scrubAt { entryOf s s.mortise.scrubAt with suspect := true }).mortise with
          mismatches := s.mortise.mismatches + 1, lastMismatch := BitVec.ofNat 32 s.mortise.scrubAt } }
      exec (.scrubVisit false) s = .next (settle (if (entryOf s s.mortise.scrubAt).suspect then u
        else raise u .mortiseSuspect (mortisePlace s s.mortise.scrubAt) s.mortise.scrubAt))))

/-- MORTISE_SEARCH_RESULT and CASCADE_TIMEOUT (07 R226, R228, R229, R247): a single stack's result is delivered 20 ac
after its issue, with the action word read of the winner, and acts on its request; a merged result that has not come
back 256 ac after its cycle did not complete (the place of its report: log 34). -/
def Obligations.SearchResults : Prop :=
  (∀ (id : Nat) (ecc : Ecc) (x : Search) (slot : Slot) (s : State), coreRuns s = true → searchById s id = some x →
      askerSlot x.req.asker = some slot → cascaded s = false → x.sent = false → x.back = false →
      x.issue + 20 ≤ s.time.now →
    let r := readAction s x.found x.issue ecc (searchHandle s x.req)
    exec (.mortiseSearchResult id ecc) s = .next (settle (applyResult (dropSearch r.1 id) x.req r.2)))
  ∧ (∀ (id : Nat) (x : Search) (slot : Slot) (s : State), coreRuns s = true → searchById s id = some x →
      askerSlot x.req.asker = some slot → cascaded s = true → x.back = false →
      x.issue + searchDelay s + 256 ≤ s.time.now →
    exec (.cascadeTimeout id) s = .next (settle (applyResult (reportTimeout (dropSearch s id) x) x.req { fault := true })))

/-- CASCADE_KEY_FRAME and CASCADE_RESULT_FRAME (07 R243 to R247): a frame with a bad CRC is dropped, counted and
reported; a key frame of another stack is forwarded and asks for the first free search slot, a stack's own is dropped on
its return; a slot that it is granted is a local search of its key and window; a result frame of another stack is merged
with the local result and forwarded, one of this stack is kept at its origin while its search awaits it. -/
def Obligations.CascadeFrames : Prop :=
  ∀ s : State, nodeUp s = true → cascaded s = true →
    (∀ (f : KeyFrame) (crc : W16) (ecc : Ecc), crc ≠ KeyFrame.crc f →
      exec (.cascadeKeyFrame f crc ecc) s = .next (settle (raise
        { s with mortise := { s.mortise with framesDropped := s.mortise.framesDropped + 1 } } .cascadeCrc (hostPlace 10)
        f.origin.toNat)))
    ∧ (∀ (f : KeyFrame) (ecc : Ecc), f.origin = posBits s → exec (.cascadeKeyFrame f (KeyFrame.crc f) ecc) s = .next s)
    ∧ (∀ (f : KeyFrame) (ecc : Ecc), f.origin ≠ posBits s →
      exec (.cascadeKeyFrame f (KeyFrame.crc f) ecc) s = .next { s with mortise := { s.mortise with
        outFrames := .key f :: s.mortise.outFrames
        waiting := s.mortise.waiting ++ [
          { asker := .remote f.origin f.tag f.cursor f.start, key := f.key, tagBase := f.tagBase
            tagLimit := f.tagLimit, level := 1, order := 0, ecc := ecc }] } })
    ∧ (∀ (q : SearchReq) (o : BitVec 2) (tag : BitVec 10) (start : BitVec 20), q.asker = .remote o tag false start →
        (findLocal s q.key q.tagBase q.tagLimit).hit = false →
      issueRemote s q = { s with mortise := { s.mortise with
        nextId := s.mortise.nextId + 1, keyAt := s.time.now + 1
        searches := (s.mortise.searches.filter fun y => !remoteOver s o tag y)
          ++ [{ id := s.mortise.nextId, issue := s.time.now, found := findLocal s q.key q.tagBase q.tagLimit, tag := tag
                req := q }] } })
    ∧ (∀ (f : ResultFrame) (crc : W16), crc ≠ ResultFrame.crc f →
      exec (.cascadeResultFrame f crc) s = .next (settle (raise
        { s with mortise := { s.mortise with framesDropped := s.mortise.framesDropped + 1 } } .cascadeCrc (hostPlace 10)
        f.origin.toNat)))
    ∧ (∀ (f : ResultFrame) (x : Search), f.origin = posBits s → s.mortise.searches.find? (awaited s f.tag) = some x →
      exec (.cascadeResultFrame f (ResultFrame.crc f)) s
        = .next (replaceSearch s { x with back := true, found := foundOf f }))
    ∧ (∀ (f : ResultFrame) (x : Search) (cursor : Bool) (start : BitVec 20), f.origin ≠ posBits s →
        s.mortise.searches.find? (ofFrame f) = some x → x.req.asker = .remote f.origin f.tag cursor start →
      exec (.cascadeResultFrame f (ResultFrame.crc f)) s = .next { s with mortise := { s.mortise with
        searches := s.mortise.searches.filter fun y => y.id != x.id
        outFrames := .result (frameOf f.origin f.tag (mergeFound cursor (foundOf f) x.found)) :: s.mortise.outFrames } })
    ∧ (∀ f : ResultFrame, s.mortise.searches.find? (if f.origin = posBits s then awaited s f.tag else ofFrame f) = none →
      exec (.cascadeResultFrame f (ResultFrame.crc f)) s = .next s)

/-- The verdict of a search (04 R136, R137, R145, R148, R153): an action word's class, a class above BLOCK and CUT at
the prompt made HOLD and BLOCK, the function's default word when nothing matches, and the fault preference when an error
touched it. -/
def Obligations.VerdictOfASearch : Prop :=
  ∀ (f : FnSet) (stage : Nat) (q : SearchReq) (x : Found) (s : State), stage ≤ 2 →
    (x.fault = false → q.fault = false → x.hit = true → wClass x.action ≤ 4 → ¬ (stage = 0 ∧ wClass x.action = 3) →
      (decideVerd s f stage q x).cls = BitVec.ofNat 4 (wClass x.action) ∧ (decideVerd s f stage q x).tag = wTag x.action)
    ∧ (x.fault = false → q.fault = false → x.hit = true → 4 < wClass x.action →
      (decideVerd s f stage q x).cls = 2)
    ∧ (x.fault = false → q.fault = false → x.hit = true → stage = 0 → wClass x.action = 3 →
      (decideVerd s f stage q x).cls = 4)
    ∧ (x.fault = false → x.hit = false →
      (decideVerd s f stage q x).word = f.defaultAction ∧ (decideVerd s f stage q x).tag = 0xFFFFFFFF)
    ∧ (x.fault = true ∨ q.fault = true →
      (decideVerd s f stage q x).cls = (if f.faultPref = 1 then 1 else 2)
      ∧ (decideVerd s f stage q x).flags.getLsbD 1 = true)

/-- The release gate (03 R90; 04 R135, R138; 05 R163): every position it passes is committed, scanned, has its stage 3
verdict and has reached the cycle in which release logic can pass it; in GATE_FULL its stage 4 verdict is no longer
pending; a position of class CUT or BLOCK is passed only by a CUT_AFTER, and one of class HOLD only once its hold is
released. -/
def Obligations.GatePassesOnlyScreenedPositions : Prop :=
  ∀ (t mode lag fuel p : Nat) (r : Request) (i : Nat) (x y : Pos),
    r.positions[i]? = some x → (gateRun t mode lag fuel p r).positions[i]? = some y → x.applied = false → y.applied = true →
    x.p < r.c ∧ x.scanned = true ∧ x.s3.isSome = true ∧ x.due ≤ t
      ∧ (mode = 0 → x.s4 ≠ .pending)
      ∧ (mode ≠ 2 → x.cls = 2 → x.resumed = true)
      ∧ (mode ≠ 2 → 3 ≤ x.cls → x.cutAfter = true)

/-- RELEASE records (03 R102): they carry the answer bytes of the range, in order, at most 36 each. -/
def Obligations.ReleaseRecordsCarryTheAnswer : Prop :=
  ∀ (h : W32) (ps : List Pos) (a b : Nat), a ≤ b →
    let bytesOf (rc : Rec) : List Byte := match rc.body with
      | .release x => x.bytes
      | _ => []
    ((releaseRecs h ps (b - a) a b).flatMap bytesOf) = answerBytes ps a b
      ∧ ∀ rc ∈ releaseRecs h ps (b - a) a b, (bytesOf rc).length ≤ 36 ∧ rc.handle = h

/-! ## Management and the NMT states (15, 16) -/

/-- The five NMT commands act alike from a CAN FD frame that names this node and from a write of object 0x2001 (15
R451): a start that nothing forbids enters Operational, or probes the ring first in a cascade; one that something
forbids ends in Pre-operational, entered from Stopped with the shadow image written anew (07 R248); a stop ends in
Stopped with the EMCY queue empty; a reset ends in Pre-operational with an empty error list, a heartbeat time of 100 ms
and the node-ID as written; in Initialisation none acts (15 R447, R451 to R455). Leaving Operational stops every
function that is STARTING or RUNNING and marks it; one that is STOPPING stays so. -/
def Obligations.NmtCommands : Prop :=
  (∀ s : State,
    let acts : List ((NmtVia → Instr) × (State → State)) :=
      [(.startRemoteNode, nmtStart), (.stopRemoteNode, nmtStop), (.enterPreOperational, nmtPreop), (.resetNode, nmtReset),
       (.resetCommunication, nmtReset)]
    ∀ a ∈ acts,
      (∀ node : BitVec 7, nmtHeard s node = true → exec (a.1 (.frame node)) s = .next (settle (a.2 s)))
      ∧ (∀ p : Path, Served s p 0x2001 1 →
        exec (a.1 (.object p)) s = .next (settle (respond (a.2 (heard s p 0x2001)) p 0 []))))
  ∧ (∀ s : State, s.mgmt.nmt = .preOperational ∨ s.mgmt.nmt = .stopped → s.mortise.probe = none →
    (startFails s = none → cascaded s = false → nmtStart s = enterOperational s)
    ∧ (startFails s = none → cascaded s = true →
      nmtStart s = { s with mortise := { s.mortise with
        probe := some s.time.now, ring := .probing, outFrames := .probe (ownProbe s) :: s.mortise.outFrames } })
    ∧ (∀ (code : ErrCode) (a : Nat), startFails s = some (code, a) →
      let u := { s with mgmt := { s.mgmt with nmt := .preOperational } }
      nmtStart s = raise (if s.mgmt.nmt = .preOperational then u else rewriteShadow u) code {} a))
  ∧ (∀ s : State, s.mgmt.nmt ≠ .initialisation →
    (enterOperational s).mgmt.nmt = .operational
      ∧ (s.mgmt.nmt ≠ .stopped → (nmtStop s).mgmt.nmt = .stopped ∧ (nmtStop s).mgmt.emcyQueue = [])
      ∧ (nmtPreop s).mgmt.nmt = .preOperational
      ∧ (nmtReset s).mgmt.nmt = .preOperational ∧ (nmtReset s).mgmt.errorList = []
      ∧ (nmtReset s).mgmt.heartbeatMs = 100 ∧ (nmtReset s).mgmt.activeNode = s.mgmt.nodeId)
  ∧ (∀ s : State, s.mgmt.nmt = .initialisation →
    nmtStart s = s ∧ nmtStop s = s ∧ nmtPreop s = s ∧ nmtReset s = s)
  ∧ (∀ (s : State) (f : Fin 64) (next : Nmt), s.mgmt.nmt = .operational → next ≠ .operational →
    ((fnOf s f).st = .starting →
      (fnOf (leaveOperational s next) f).st = .stopped ∧ (fnOf (leaveOperational s next) f).mark = true)
    ∧ ((fnOf s f).st = .running →
      (fnOf (leaveOperational s next) f).st = (if fnTiles s f = true then .stopping else .stopped)
        ∧ (fnOf (leaveOperational s next) f).mark = true)
    ∧ ((fnOf s f).st = .stopping → (fnOf (leaveOperational s next) f).st = .stopping))

/-- The ring probe (07 R242; 15 R452): a return in time whose hops name every stack of the ring once, in order, brings
Operational; another return, or none within 1 ms, fails the ring, which is reported (at the cascade lines, log 34) and
ends in Pre-operational. Another stack's probe goes on with this stack's Size and Position added (log 85). -/
def Obligations.RingProbe : Prop :=
  ∀ (t : Nat) (s : State), coreRuns s = true → s.mortise.probe = some t →
    let failed := { s with
      mortise := { s.mortise with probe := none, ring := .failed }, mgmt := { s.mgmt with nmt := .preOperational } }
    let back := if s.mgmt.nmt = .preOperational then failed else rewriteShadow failed
    (∀ hops : List (Nat × Nat), s.time.now < t + 2000000 →
      let probe : Probe := { origin := s.mortise.position.truncate 2, hops := hops }
      (probeGood s hops = true → exec (.cascadeProbeReturn probe) s
        = .next (settle (enterOperational { s with mortise := { s.mortise with probe := none, ring := .up } })))
      ∧ (probeGood s hops = false → exec (.cascadeProbeReturn probe) s
        = .next (settle (raise back .cascadeRing (hostPlace 10) 0))))
    ∧ (∀ p : Probe, p.origin ≠ s.mortise.position.truncate 2 → s.mgmt.nmt ≠ .initialisation →
      exec (.cascadeProbeReturn p) s = .next { s with mortise := { s.mortise with
        outFrames := .probe { p with hops := p.hops ++ [(s.mortise.size.toNat, s.mortise.position.toNat)] }
          :: s.mortise.outFrames } })
    ∧ (t + 2000000 ≤ s.time.now → exec .cascadeProbeTimeout s = .next (settle (raise back .cascadeRing (hostPlace 10) 0)))
    ∧ (s.time.now < t + 2000000 → exec .cascadeProbeTimeout s = .next s)

/-- The frames that Bruvar sends by itself (15 R448, R469 to R472): a heartbeat once per Heartbeat Time, the oldest EMCY
not sooner than the inhibit time after the last, and the TPDO of a timer, mapped from the objects. While Active Node-ID
is 0 none is sent and no CAN frame is answered, an NMT frame among them, so that only object 0x2001 can reset
communication, which takes the node-ID as written, 0 too. -/
def Obligations.FramesOnTheBus : Prop :=
  (∀ s : State, s.mgmt.activeNode = 0 →
    exec .heartbeat s = .next s ∧ exec .emcyTransmit s = .next s ∧ (∀ n : Fin 8, exec (.tpdoEventTimer n) s = .next s)
    ∧ (∀ (idx : W16) (sub : Byte) (x : Xfer) (data : List Byte),
        exec (.registerWrite .can idx sub x data) s = .next s ∧ exec (.usdoUpload .can idx sub x) s = .next s)
    ∧ (∀ node : BitVec 7, ∀ c ∈ [Instr.startRemoteNode (.frame node), .stopRemoteNode (.frame node),
        .enterPreOperational (.frame node), .resetNode (.frame node), .resetCommunication (.frame node)], exec c s = .next s)
    ∧ (s.mgmt.nmt ≠ .initialisation → (nmtReset s).mgmt.activeNode = s.mgmt.nodeId))
  ∧ ∀ s : State, canSends s = true →
    (s.mgmt.nmt ≠ .initialisation → s.mgmt.heartbeatMs ≠ 0 →
        s.mgmt.lastHeartbeat.toNat + 1000 * s.mgmt.heartbeatMs.toNat ≤ s.time.gtAccepted.toNat →
      exec .heartbeat s = .next { s with mgmt := { s.mgmt with
        lastHeartbeat := s.time.gtAccepted
        canOut := .heartbeat s.mgmt.activeNode (nmtByte s.mgmt.nmt) :: s.mgmt.canOut } })
    ∧ (∀ (e : Emcy) (rest : List Emcy), s.mgmt.nmt = .preOperational ∨ s.mgmt.nmt = .operational →
        s.mgmt.emcyQueue = e :: rest → (cobEmcyOf s.mgmt).getLsbD 31 = false →
        (∀ t, s.mgmt.lastEmcy = some t → t.toNat + 100 * s.mgmt.inhibitEmcy.toNat ≤ s.time.gtAccepted.toNat) →
      exec .emcyTransmit s = .next { s with mgmt := { s.mgmt with
        emcyQueue := rest, lastEmcy := some s.time.gtAccepted
        canOut := .emcy (cobEmcyOf s.mgmt) e :: s.mgmt.canOut } })
    ∧ (∀ n : Fin 8, s.mgmt.nmt = .operational → (cobTpdoOf s.mgmt n.val).getLsbD 31 = false →
        (tpdoOf s.mgmt n.val).timer ≠ 0 →
        ((tpdoOf s.mgmt n.val).lastSent.getD 0).toNat + 1000 * (tpdoOf s.mgmt n.val).timer.toNat
          ≤ s.time.gtAccepted.toNat →
        ((tpdoOf s.mgmt n.val).lastSent.getD 0).toNat + 100 * (tpdoOf s.mgmt n.val).inhibit.toNat
          ≤ s.time.gtAccepted.toNat →
      let t := setTpdo s n.val { tpdoOf s.mgmt n.val with lastSent := some s.time.gtAccepted }
      exec (.tpdoEventTimer n) s = .next { t with mgmt := { t.mgmt with
        canOut := .tpdo (cobTpdoOf t.mgmt n.val)
          ((tpdoEntries (tpdoOf s.mgmt n.val) (tpdoOf s.mgmt n.val).count.toNat).flatMap (mappedBytes t)) :: t.mgmt.canOut } })

/-- Requests on the two management paths (15 R457 to R466): a post fills the mailbox unless it is BUSY; an expedited
write of an object is answered with the outcome of its rows of the access table, a read with the object's value or an
abort; a transfer in segments opens with its length and captures what it reads; a request inside another transfer is
aborted; a transfer idle for more than 1,000 ms is aborted. -/
def Obligations.ManagementRequests : Prop :=
  (∀ (seq : W16) (frame : List Byte) (s : State), pathHeard s .mailbox = true →
    (s.mgmt.mbxBusy = false → exec (.mbxPost seq frame) s = .next { s with mgmt := { s.mgmt with
      mbxRequest := padTo 64 (frame.take 64), mbxPosted := seq, mbxBusy := true, mbxRejected := false, mbxValid := false } })
    ∧ (s.mgmt.mbxBusy = true → exec (.mbxPost seq frame) s
        = .next { s with mgmt := { s.mgmt with mbxRejected := true } }))
  ∧ (∀ (path : Path) (idx : W16) (sub : Byte) (s : State), pathHeard s path = true → sessionOf s path = none →
    (∀ data : List Byte, exec (.registerWrite path idx sub .expedited data) s
      = .next (settle (finishWrite path idx sub (dictWrite path idx sub data (heard s path idx)))))
    ∧ (∀ (data : List Byte) (n : W32), n.toNat ≤ 65536 → data.length ≤ n.toNat →
        writeOpen (countRequest s path) path idx sub n.toNat = none →
      exec (.registerWrite path idx sub (.initiate n) data) s = .next (settle (respond
        (openSession (countRequest s path) path idx sub false data n.toNat) path 0 [])))
    ∧ (∀ b : List Byte, dictRead (countRequest s path) path idx sub = .inl b →
      exec (.usdoUpload path idx sub .expedited) s = .next (settle (respond (countRequest s path) path 0 b)))
    ∧ (∀ (b : List Byte) (n : W32), dictRead (countRequest s path) path idx sub = .inl b →
      exec (.usdoUpload path idx sub (.initiate n)) s = .next (settle (respond
        (openSession (countRequest s path) path idx sub true b b.length) path 0 (leBytes 4 b.length))))
    ∧ (∀ code : W32, dictRead (countRequest s path) path idx sub = .inr code → ∀ x : Xfer, (∀ l, x ≠ .segment l) →
      exec (.usdoUpload path idx sub x) s
        = .next (settle (abortReq (countRequest s path) path code 0 idx sub))))
  ∧ (∀ (path : Path) (x : Session) (idx : W16) (sub : Byte) (data : List Byte) (s : State), pathHeard s path = true →
      sessionOf s path = some x →
    exec (.registerWrite path idx sub .expedited data) s
      = .next (settle (abortReq (heard s path idx) path abSession 0 idx sub))
    ∧ (x.upload = false → exec (.registerWrite path idx sub (.segment true) data) s
        = .next (settle (downloadSegment (countRequest s path) path x true data)))
    ∧ (x.upload = true → exec (.usdoUpload path idx sub (.segment true)) s
        = .next (settle (respond (setSession (countRequest s path) path none) path 0 x.data))))
  ∧ (∀ (path : Path) (x : Session) (s : State), coreRuns s = true → sessionOf s path = some x →
    (x.since.toNat + 1000000 < s.time.gtAccepted.toNat → exec (.usdoSegmentTimeout path) s
      = .next (settle (abortReq (setSession s path none) path abTimeout 0 x.index x.sub)))
    ∧ (s.time.gtAccepted.toNat ≤ x.since.toNat + 1000000 → exec (.usdoSegmentTimeout path) s = .next s))

/-- Commands that write one object (16 R478, R484, R486, R489; 17 R507; 19 R549; 12 R389; 08 R256; 13 R400; 04 R133,
R134): the error list is emptied; the capture is armed again; a mixed release pair is acknowledged; a tenant's accounts
start, or it is turned off while it has no request; an engine joins or leaves the pool; Live Tuning is enabled; a
function starts after its checks, and stops. -/
def Obligations.ObjectCommands : Prop :=
  ∀ (path : Path) (s : State),
    (Served s path 0x1003 0 → exec (.errorListClear path) s = .next (settle (respond
      { heard s path 0x1003 with mgmt := { (heard s path 0x1003).mgmt with errorList := [] } } path 0 [])))
    ∧ (Served s path 0x2901 6 → exec (.rearm path) s = .next (settle (respond
      { heard s path 0x2901 with
        err := { s.err with captured := false, capCode := 0, capClass := 0, capDetail := 0, capStamp := 0 } } path 0 [])))
    ∧ (Served s path 0x2A10 3 →
      (s.boot.verState = 1 → s.boot.pairId = s.boot.pair → exec (.acknowledge path) s = .next (settle (respond
        { heard s path 0x2A10 with boot := { s.boot with verState := 2 } } path 0 [])))
      ∧ (s.boot.verState ≠ 1 ∨ s.boot.pairId ≠ s.boot.pair → exec (.acknowledge path) s
        = .next (settle (abortReq (heard s path 0x2A10) path abState 0 0x2A10 3))))
    ∧ (Served s path 0x3000 2 →
      (tenantOpen s (selectedTenant s) = 0 → exec (.tenantValidWrite path 0) s = .next (settle (respond
        (setTenant (heard s path 0x3000) (selectedTenant s) { tenantOf s (selectedTenant s) with valid := false })
        path 0 [])))
      ∧ ((tenantOf s (selectedTenant s)).valid = false → exec (.tenantValidWrite path 1) s = .next (settle (respond
        (setTenant (heard s path 0x3000) (selectedTenant s) { tenantOf s (selectedTenant s) with
          valid := true, deficit := 0
          bucket := 256 * (max (tenantOf s (selectedTenant s)).budgetNow.toNat
            (tenantOf s (selectedTenant s)).burstNow.toNat : Nat) }) path 0 [])))
      ∧ (0 < tenantOpen s (selectedTenant s) → exec (.tenantValidWrite path 0) s
        = .next (settle (abortReq (heard s path 0x3000) path abState rsInUse 0x3000 2))))
    ∧ (∀ v : Byte, Served s path 0x2700 1 → v.toNat ≤ 1 → exec (.tuningEnable path v) s = .next (settle (respond
      { heard s path 0x2700 with tune := { s.tune with enable := v } } path 0 [])))
    ∧ (∀ e : Fin 56, Served s path (0x2100 + BitVec.ofNat 16 e.val) 1 →
      exec (.enginePoolWrite path e 1) s = .next (settle (respond
        (modEng (heard s path (0x2100 + BitVec.ofNat 16 e.val)) e.val fun v => { v with poolNext := !v.pool }) path 0 []))
      ∧ (engineBound s e.val = false → patternUsed s e.val = false →
        exec (.enginePoolWrite path e 0) s = .next (settle (respond
          (modEng (heard s path (0x2100 + BitVec.ofNat 16 e.val)) e.val fun v => { v with pool := false, poolNext := false })
          path 0 []))))
    ∧ (∀ f : Fin 64, Served s path (fnIndex f) 1 → s.mgmt.nmt = .operational →
      (startCheck s f = 1 → exec (.functionStart path f) s = .next (settle (respond
        (modFn (heard s path (fnIndex f)) f fun v => { v with st := .starting, lastStart := 1 }) path 0 [])))
      ∧ (startCheck s f ≠ 1 → startCheck s f ≠ 0x10 → exec (.functionStart path f) s = .next (settle (abortReq
        (modFn (heard s path (fnIndex f)) f fun v => { v with st := .idle, lastStart := startCheck s f }) path abState
        ((startCheck s f).zeroExtend 16) (fnIndex f) 1)))
      ∧ ((fnOf s f).st = .starting → exec (.functionStop path f) s = .next (settle (respond
        (modFn (heard s path (fnIndex f)) f fun v => { v with st := .stopped }) path 0 [])))
      ∧ ((fnOf s f).st = .running → exec (.functionStop path f) s = .next (settle (respond
        (checkStopped (modFn (heard s path (fnIndex f)) f fun v => { v with st := .stopping }) f) path 0 []))))

/-- Loads and unloads (08 R277; 06 R181, R202, R203): the load of an empty slot reads its image at the slot's address;
an unload of a slot that nothing uses empties it, a grammar's lines leaving the mask cache and the pegs' copies of a
plan's screens being held as the loaded plans name them; a slot that is LOADING answers COMMAND_BUSY and one that is in
use IN_USE. -/
def Obligations.SlotLoads : Prop :=
  ∀ (path : Path) (s : State),
    (Served s path 0x2140 2 →
      let p := selectedPlan s
      let h := heard s path 0x2140
      ((planOf s p).st = .empty → exec (.planLoad path) s = .next (settle (respond
        (startJob (setPlan h p { planOf s p with st := .loading }) (.plan p) (weightPort s) (planOf s p).addr
          (planOf s p).len.toNat) path 0 [])))
      ∧ ((planOf s p).st = .loaded → exec (.planLoad path) s
        = .next (settle (abortReq h path abState rsInUse 0x2140 2)))
      ∧ ((planOf s p).st ≠ .loading → (∀ e ∈ s.fns, e.2.st = .idle ∨ p ∉ boundPlans e.2) →
        exec (.planUnload path) s = .next (settle (respond (holdPegs (freePlanSlots (setPlan h p
          { addr := (planOf s p).addr, len := (planOf s p).len, last := (planOf s p).last }) p)) path 0 []))))
    ∧ (∀ v : Fin 8, Served s path (0x2610 + BitVec.ofNat 16 v.val) 1 →
      let h := heard s path (0x2610 + BitVec.ofNat 16 v.val)
      ((vocabOf s v).st = .empty → exec (.vocabLoad path v) s = .next (settle (respond
        (startJob (setVocab h v { vocabOf s v with st := .loading }) (.vocab v) (weightPort s) (vocabOf s v).addr
          (vocabOf s v).len.toNat) path 0 [])))
      ∧ ((vocabOf s v).st = .loading → exec (.vocabLoad path v) s
        = .next (settle (abortReq h path abState rsBusy (0x2610 + BitVec.ofNat 16 v.val) 1)))
      ∧ ((vocabOf s v).st ≠ .loading → anyReq s (fun r => r.vocab == v) = false →
          (∀ e ∈ s.text.grammars, e.2.st = .empty ∨ e.2.against ≠ BitVec.ofNat 8 v.val) →
        exec (.vocabUnload path v) s = .next (settle (respond (emptyVocab h v) path 0 []))))
    ∧ (∀ g : Fin 64, Served s path (0x2620 + BitVec.ofNat 16 g.val) 1 →
      let h := heard s path (0x2620 + BitVec.ofNat 16 g.val)
      ((grammarOf s g).st = .empty → exec (.grammarLoad path g) s = .next (settle (respond
        (startJob (setGrammar h g { grammarOf s g with st := .loading }) (.grammar g) (weightPort s) (grammarOf s g).addr
          (grammarOf s g).len.toNat) path 0 [])))
      ∧ ((grammarOf s g).st ≠ .loading → anyReq s (fun r => r.grammarEnable && r.grammar == g) = false →
        exec (.grammarUnload path g) s = .next (settle (respond
          (let u := setGrammar h g { grammarOf s g with st := .empty, image := [] }
          { u with text := { u.text with maskCache := u.text.maskCache.filter fun l => l.1 != g.val } }) path 0 []))))

/-- Commands on a version slot (13 R410 to R416, R431): LOAD and CUT of a delta set, DROP STAGING, DELETE, LOAD of a
screen's backbone and DROP of its other slot, when no rule forbids them; a LOAD whose version is not above the highest
given is out of range; a pending publication that names the slot forbids them (what each leaves as its result: log 62).
-/
def Obligations.VersionCommands : Prop :=
  ∀ (path : Path) (s : State),
    (Served s path 0x2710 2 →
      let d := selectedSet s
      let x := dsetOf s d
      let h := heard s path 0x2710
      (pendingNamesStaging x = true → ∀ c ∈ [Instr.deltaLoad path, .deltaCut path, .dropStaging path],
        exec c s = .next (settle (abortReq h path abState rsInUse 0x2710 2)))
      ∧ (pendingNamesStaging x = false →
        (x.highest.toNat < x.loadVersion.toNat →
          let f := freeStaging h d
          exec (.deltaLoad path) s = .next (settle (respond (startJob
            (setDset f d { dsetOf f d with
              staging := .loading, stagingNum := (dsetOf f d).loadVersion, highest := (dsetOf f d).loadVersion })
            (.delta d) (weightPort f) (dsetOf f d).addr (dsetOf f d).len.toNat) path 0 [])))
        ∧ (x.loadVersion.toNat ≤ x.highest.toNat → exec (.deltaLoad path) s
          = .next (settle (abortReq h path abRange 0 0x2710 2)))
        ∧ (x.staging ≠ .loading → exec (.deltaCut path) s = .next (settle (respond (startCut h d) path 0 [])))
        ∧ (x.staging ≠ .empty → exec (.dropStaging path) s = .next (settle (respond
          (setDset (freeStaging h d) d { dsetOf (freeStaging h d) d with last := 1 }) path 0 []))))
      ∧ (setBound s d = true ∨ x.tuning = 1 → exec (.deltaDelete path) s
        = .next (settle (abortReq h path abState rsInUse 0x2710 2)))
      ∧ (setBound s d = false → x.tuning ≠ 1 → ∃ t, exec (.deltaDelete path) s = .next (settle (respond t path 0 []))
        ∧ (dsetOf t d).current = none ∧ (dsetOf t d).previous = none ∧ (dsetOf t d).staging = .empty
        ∧ (dsetOf t d).stagingV = none ∧ (dsetOf t d).pending = none ∧ (dsetOf t d).master = []
        ∧ (dsetOf t d).moment1 = [] ∧ (dsetOf t d).moment2 = [] ∧ (dsetOf t d).steps = 0 ∧ (dsetOf t d).autoCut = 0
        ∧ (dsetOf t d).last = 1))
    ∧ (Served s path 0x2720 2 → otherUsed s (selectedScreen s) = false →
      let b := selectedScreen s
      let x := screenOf s b
      let h := heard s path 0x2720
      (x.other ≠ .loading → x.highest.toNat < x.loadVersion.toNat →
        exec (.backboneLoad path) s = .next (settle (respond (startJob
          (setScreen h b { x with other := .loading, otherV := x.loadVersion, highest := x.loadVersion
                                  otherLen := x.len.toNat, otherImage := [], firstDue := false })
          (.backbone b) (weightPort s) x.addr x.len.toNat) path 0 [])))
      ∧ (x.other = .loading → exec (.backboneLoad path) s
        = .next (settle (abortReq h path abState rsBusy 0x2720 2)))
      ∧ exec (.dropOther path) s = .next (settle (respond (freeOther h b) path 0 [])))

/-- The ends of the loads (08 R278; 06 R182, R183, R204, R205; 13 R411, R414): an image that passes its checks fills its
slot with Last Result 1; one that fails a check leaves the slot EMPTY with the code of the first check that it fails, a
failed read being the last, the bytes that it did not bring being free, and is reported. The first version of a screen
is published at once outside Operational. -/
def Obligations.LoadsComplete : Prop :=
  (∀ (p : Byte) (decl : PlanDecl) (j : Job) (s : State), coreRuns s = true → jobOf s (.plan p) = some j → j.over = true →
      (planOf s p).st = .loading →
    let u := jobTaken (dropJob s (.plan p)) j
    let k := loadCode j (planCheck s (jobImage s j) j.len) 0x38
    exec (.planLoadDone p decl) s = .next (settle (if k = 1 then
        holdPegs (initPlanSlots (setPlan u p { readPlan j.bytes decl with
          addr := (planOf s p).addr, len := (planOf s p).len, last := 1 }) p decl.tensors)
      else raise (setPlan u p { planOf s p with st := .empty, last := BitVec.ofNat 8 k }) .planImageBad {} p.toNat k)))
  ∧ (∀ (v : Fin 8) (j : Job) (s : State), coreRuns s = true → jobOf s (.vocab v) = some j → j.over = true →
      (vocabOf s v).st = .loading →
    let u := jobTaken (dropJob s (.vocab v)) j
    let k := loadCode j (vocabCheck s (jobImage s j)) 0x16
    exec (.vocabLoadDone v) s = .next (settle (if k = 1 then installVocab u v j.bytes
      else raise (setVocab u v { vocabOf s v with st := .empty, last := BitVec.ofNat 8 k }) .vocabImageBad {} v.val k)))
  ∧ (∀ (g : Fin 64) (j : Job) (s : State), coreRuns s = true → jobOf s (.grammar g) = some j → j.over = true →
      (grammarOf s g).st = .loading →
    let u := jobTaken (dropJob s (.grammar g)) j
    let k := loadCode j (grammarCheck s g (jobImage s j)) 0x26
    exec (.grammarLoadDone g) s = .next (settle (if k = 1 then
        setGrammar u g { grammarOf s g with st := .loaded, image := j.bytes, last := 1, served := (grammarOf s g).vocab }
      else raise (setGrammar u g { grammarOf s g with st := .empty, last := BitVec.ofNat 8 k }) .grammarImageBad {} g.val k)))
  ∧ (∀ (d : BitVec 10) (j : Job) (s : State), coreRuns s = true → jobOf s (.delta d) = some j → j.over = true →
      (dsetOf s d).staging = .loading →
    let u := jobTaken (dropJob s (.delta d)) j
    let k := (loadCode j (deltaCheck s d (jobImage s j) j.len).1 0x44, (deltaCheck s d (jobImage s j) j.len).2)
    exec (.deltaLoadDone d) s = .next (settle (if k.1 = 1 then
        stagingReady u d { version := (dsetOf s d).stagingNum, fromCut := false, matrices := (readMatrices j.bytes).map (·.1) }
      else failDelta u d k)))
  ∧ (∀ (b : BitVec 10) (j : Job) (s : State), coreRuns s = true → jobOf s (.backbone b) = some j → j.over = true →
      (screenOf s b).other = .loading →
    let u := jobTaken (dropJob s (.backbone b)) j
    let k := loadCode j (screenCheck s b (jobImage s j) j.len) 0x4B
    exec (.backboneLoadDone b) s = .next (settle (if k = 1 then
        let w := setScreen u b { screenOf s b with
          other := .ready, otherLen := j.len, otherImage := j.bytes, last := 1, firstDue := (screenOf s b).current == 0 }
        if (screenOf s b).current = 0 ∧ ¬ operational s then publishScreen w b else w
      else failScreen u b k)))

/-! ## Tiles, Live Tuning (08, 13) -/

/-- TILE_START, TILE_COMPLETE and PEG_REWRITE (08 R253 to R272; 01 R16; 09 R305; 10 R317, R333): an idle pooled engine
starts what its next work is ready for, with operands that fit its buffers, in the half that now feeds its array; the
tile's end, not before its multiplies are done, counts it and its time, keeps its outputs and settles its work; the
rewrite of a peg, done at 2,000 bytes an ac, leaves the screen's version in the slice. What an engine starts is a tile
of its own, of the next item of its class. -/
def Obligations.TilesRun : Prop :=
  (∀ (e : Fin 48) (w : TileOf) (l : TileLoad) (i : Nat) (rt : RunTile) (s : State), gafferRuns s = true →
      startOf s e.val w = some (i, rt) → (engOf s e.val).running = none → (engOf s e.val).pool = true →
      loadFits e.val rt.tile (onIntPath s rt.tile rt.use l) l = true →
    exec (.tileStart e w l) s = .next (modEng (takeTile s e.val w i rt.tile) e.val fun v => { v with
      running := some rt, lastLat := rt.lat, feed := !v.feed
      half0 := if v.feed = true then { load := l } else v.half0
      half1 := if v.feed = true then v.half1 else { load := l }
      overrunBeats := if (rt.lat && decide (32 ≤ e.val) && alternates s (engOf s e.val)) = true
        then v.overrunBeats + 1 else v.overrunBeats }))
  ∧ (∀ (e : Nat) (n : Nat) (rest : List Nat) (i : Nat) (rt : RunTile) (s : State),
      startOf s e (.items (n :: rest)) = some (i, rt) →
    ∃ x : WorkItem, itemByN s n = some x ∧ x.placed = true ∧ (fnOf s x.fn).st = .running ∧ i ∈ x.todo
      ∧ (planOf s (fnOf s x.fn).act.plan).tiles[i]? = some rt.tile ∧ rt.tile.engine.toNat = e ∧ rt.tick = x.tick
      ∧ rt.use = x.use ∧ (if x.latency = true then nextLatency s e else nextBulk s e).any (fun y => y.n == n) = true)
  ∧ (∀ (e : Fin 48) (heads : List Heads) (stash : Option StashWrite) (errs : List DetErr) (rt : RunTile) (s : State),
      coreRuns s = true → (engOf s e.val).running = some rt →
      tileEnd s e.val rt (feedHalf (engOf s e.val)).load ≤ s.time.now →
    let l := (feedHalf (engOf s e.val)).load
    let es := errs.filter tileErr
    let r := runTile s rt e.val l
    let t := modEng s e.val fun v => { v with
      running := none, stash := r.out.bytes, tilesRun := v.tilesRun + 1
      half0 := if v.feed = true then v.half0 else { load := l, acc := r.acc }
      half1 := if v.feed = true then { load := l, acc := r.acc } else v.half1
      busy := v.busy + BitVec.ofNat 64 (s.time.now - rt.start)
      latBusy := if rt.lat = true then v.latBusy + (s.time.now - max rt.start s.tick.at_) else v.latBusy }
    let u := { t with time := { t.time with
      freeIdx := if multiplies rt.tile = true then t.time.freeIdx else t.time.freeIdx + 1 } }
    let x := noteTile (raiseErrs es u) e.val rt l r
    exec (.tileComplete e heads stash errs) s = .next (settle (tileDone
      (match rt.fn with
        | some f => checkStopped x f
        | none => x)
      rt.of_ rt.tile heads stash (rt.fault || r.num.fault || es.any fun x => errCls x.code == 1))))
  ∧ (∀ (e : Fin 48) (k : W16) (x : W16 × Nat) (s : State), coreRuns s = true →
      (engOf s e.val).rewriting.find? (fun x => x.1 == k) = some x →
      x.2 + ceilDiv (pegBytes s e.val k) 2000 ≤ s.time.now →
    exec (.pegRewrite e k) s = .next (modEng s e.val fun v => { v with
      rewriting := v.rewriting.filter fun x => x.1 != k, copies := Tbl.ins v.copies k.toNat (screenVersion s k) }))

/-- FEEDBACK and PUBLISH (13 R403, R404, R417 to R419): an accepted span joins the queue, a refused one is reported with
its reason; a publication of a version of the target becomes pending for its tick, or for the next tick where its own is
past, which is reported; one of the version in force withdraws the pending one, and others are refused with their
reason. -/
def Obligations.FeedbackAndPublish : Prop :=
  (∀ (d : Desc) (s : State), Clean s d 9 →
    (feedbackReason (arrived s d) d = 0 → ∃ t, exec (.feedback d) s = .next t
      ∧ t.tune.lastAccepted = some (BitVec.ofNat 64 (pfield d 32 0 64))
      ∧ (∃ x : Span, t.tune.queue = s.tune.queue ++ [x] ∧ x.seq = BitVec.ofNat 64 (pfield d 32 0 64)
          ∧ x.tenant = BitVec.ofNat 14 (pfield d 24 0 14) ∧ x.policy = BitVec.ofNat 12 (pfield d 26 0 12)
          ∧ x.length = BitVec.ofNat 32 (pfield d 12 0 32) ∧ x.addr = BitVec.ofNat 64 (pfield d 16 0 64) ∧ x.port = d.port)
      ∧ Frame [.err, .tune] (arrived s d) t)
    ∧ (feedbackReason (arrived s d) d ≠ 0 → exec (.feedback d) s = .next (settle (tuneCount
        (violate (arrived s d) d 9 s.time.now (tickOf s) .feedbackRefused (feedbackReason (arrived s d) d)
          (pfield d 32 0 64)) 2 1))))
  ∧ (∀ (d : Desc) (s : State), Clean s d 10 →
    let screen := pfield d 12 0 1 == 1
    let t := pfield d 14 0 16
    let v := BitVec.ofNat 32 (pfield d 16 0 32)
    let k := BitVec.ofNat 48 (pfield d 20 0 48)
    (t ≤ 1023 → v ∈ (targetVersions s screen t).1 → v = (targetVersions s screen t).2 →
      exec (.publish d) s = .next (settle (setPendingPub (arrived s d) screen t none)))
    ∧ (t ≤ 1023 → v ∈ (targetVersions s screen t).1 → v ≠ (targetVersions s screen t).2 →
        s.tick.cur.idx = 0 ∨ numAfter k s.tick.cur.num = true →
      exec (.publish d) s = .next (settle (setPendingPub (arrived s d) screen t
        (some { version := v, tick := k, atNext := false, port := d.port, seq := d.portSeq, stamp := s.time.now }))))
    ∧ (t ≤ 1023 → v ∈ (targetVersions s screen t).1 → v ≠ (targetVersions s screen t).2 → s.tick.cur.idx ≠ 0 →
        numAfter k s.tick.cur.num = false →
      exec (.publish d) s = .next (settle (setPendingPub (violate (arrived s d) d 10 s.time.now (tickOf s) .publishPast k.toNat
        (s.tick.cur.num + 1).toNat) screen t
        (some { version := v, tick := k, atNext := true, port := d.port, seq := d.portSeq, stamp := s.time.now }))))
    ∧ (1023 < t ∨ (targetVersions s screen t).1 = [] → exec (.publish d) s = .next (settle (violate (arrived s d) d 10 s.time.now (tickOf s)
        .publishRefused 1 v.toNat)))
    ∧ (t ≤ 1023 → (targetVersions s screen t).1 ≠ [] → v ∉ (targetVersions s screen t).1 →
      exec (.publish d) s = .next (settle (violate (arrived s d) d 10 s.time.now (tickOf s) .publishRefused 2 v.toNat))))

/-- Micro-batches (13 R405 to R409, R424): spans that have waited Fill Ticks ticks form one at the intake close, placed
in the plan when that is already built; the last tile of one brings its optimiser step, a count of TUNE_FAULT when it
faulted, or a wait while its set is being cut. -/
def Obligations.MicroBatches : Prop :=
  (∀ (set : BitVec 10) (x : Span) (rest : List Span) (s : State), operational s = true → s.tick.opTick = true →
      s.tick.intakeClosed = false → s.tune.enable = 1 → forms s set = true → setSpans s set = x :: rest →
      s.tune.fillTicks.toNat ≤ x.crossed → s.time.now = s.tick.at_ + s.tick.intakeClose.toNat →
    exec (.fillTicksExpiry set) s = .next (formBatch s set))
  ∧ (∀ (set : BitVec 10) (x : Span) (rest : List Span) (s : State), operational s = true → s.tick.opTick = true →
      s.tick.intakeClosed = true → s.tune.enableNow = 1 → forms s set = true → setSpans s set = x :: rest →
      s.tune.fillTicks.toNat ≤ x.crossed → s.time.now = s.tick.at_ + s.tick.intakeClose.toNat →
    exec (.fillTicksExpiry set) s = .next (placeBatches (formBatch s set) (formBatch s set).tune.batches))
  ∧ (∀ (set : BitVec 10) (s : State), let p := planOf s (dsetOf s set).tuningPlan
      let xs := fitSpans p s.tune.patches.toNat (setSpans s set)
      xs ≠ [] → (formBatch s set).tune.queue = s.tune.queue.filter (fun x => !xs.contains x)
        ∧ (formBatch s set).tune.nextSeq = s.tune.nextSeq + 1
        ∧ ∃ b : Batch, (formBatch s set).tune.batches = s.tune.batches ++ [b] ∧ b.seq = s.tune.nextSeq ∧ b.set = set
          ∧ b.spans = xs ∧ b.placed = false)
  ∧ (∀ (seq : W64) (b : Batch) (res : BatchResult) (s : State), coreRuns s = true → batchOf s seq = some b →
      b.placed = true → b.todo = [] → b.running = 0 → b.finished = false →
    let u := tuneCount (raise s .tuneFault {} seq.toNat) 9 1
    let c := { b with stale := batchStale s b, drop := s.tune.stalePolicy == 1, finished := true }
    (batchFault s b res = true → exec (.microBatchComplete seq res) s
      = .next (settle (endBatch (if b.doomed = true then staleDiscard u b else u) b)))
    ∧ (batchFault s b res = false → (dsetOf s b.set).staging ≠ .cutting ∨ b.doomed = true →
      exec (.microBatchComplete seq res) s = .next (settle (settleBatch (modBatch s seq fun _ => c) c res)))
    ∧ (batchFault s b res = false → (dsetOf s b.set).staging = .cutting → b.doomed = false →
      ∃ t, exec (.microBatchComplete seq res) s = .next t
        ∧ (dsetOf t b.set).cutWait = (dsetOf s b.set).cutWait ++ [(seq, res)]
        ∧ (dsetOf t b.set).master = (dsetOf s b.set).master))

/-- AUTO_CUT and CUT_COMPLETE (13 R412, R413): a set whose Auto Cut Interval has gone by since its last cut, with steps
since, is cut at T_n; a cut that has read the master, 512 bytes an ac, is READY, counted, and the steps that waited for
it follow. -/
def Obligations.Cuts : Prop :=
  (∀ (set : BitVec 10) (s : State), coreRuns s = true → s.tick.cur.idx ≠ 0 → s.time.now = s.tick.at_ →
      (dsetOf s set).autoCut ≠ 0 → (dsetOf s set).autoCut.toNat ≤ (dsetOf s set).cutTicks →
      (dsetOf s set).stepsSinceCut = true → cutAborts (dsetOf s set) = false →
    exec (.autoCut set) s = .next (settle (startCut s set)))
  ∧ (∀ (set : BitVec 10) (v : DVersion) (s : State), coreRuns s = true → (dsetOf s set).stagingV = some v →
      (dsetOf s set).staging = .cutting →
      (dsetOf s set).cutAt + ceilDiv (2 * (masterOf (dsetOf s set)).length) 512 ≤ s.time.now →
    exec (.cutComplete set) s = .next (settle (releaseSteps (tuneCount (stagingReady s set v) 0x0B 1) set)))
  ∧ (∀ (set : BitVec 10) (s : State), let t := startCut s set
    (dsetOf t set).staging = .cutting ∧ (dsetOf t set).stepsSinceCut = false ∧ (dsetOf t set).cutTicks = 0
      ∧ (dsetOf t set).stagingNum = (dsetOf t set).highest)

/-! ## Stream state and the checkpoint shard (11, 14) -/

/-- Cold storage and masks (11 R357 to R366; 06 R207): a finished move leaves the request cold and frees its pages; a
copy back whose pages are good resumes the request, a bad page ends it; an expiry reached at T_n releases a paused
request; a written mask lets the records that wait for it go. -/
def Obligations.ColdStorage : Prop :=
  (∀ (slot : Slot) (k : Nat) (s : State), coreRuns s = true → (reqOf s slot).coldSt = .moving k →
      (reqOf s slot).st ≠ .free → (reqOf s slot).st ≠ .closing → writesLeft s (.cold slot) = false →
      (reqOf s slot).wait ≠ .copyBack →
    exec (.coldMoveComplete slot) s = .next (settle (coldCount (modReq s slot fun r => { r with
      cold := true, headPage := none, windowPages := [], coldSt := .moved k }) 1)))
  ∧ (∀ (slot : Slot) (k : Nat) (j : Job) (s : State), coreRuns s = true → (reqOf s slot).coldSt = .resuming k →
      jobOf s (.cold slot) = some j → (reqOf s slot).st ≠ .free → (reqOf s slot).st ≠ .closing → j.left = 0 →
    let t := modReq (dropJob s (.cold slot)) slot fun r => { r with
      cold := false, wait := .none, expiry := 0, coldSt := .inHbm }
    (badPage j.bytes (reqOf s slot).windowPages.length = none →
      exec (.coldCopyBack slot) s
        = .next (settle (pump (useRecord (modReq t slot (reloadPages j.bytes)) slot).1 slot)))
    ∧ (∀ page : Nat, badPage j.bytes (reqOf s slot).windowPages.length = some page →
      exec (.coldCopyBack slot) s = .next (settle (finishRequest
        (raise (modReq t slot fun r => { r with headPage := none, windowPages := [] }) .coldCorrupt {}
          (handleOf s slot).toNat page) slot (reqOf s slot).front 0x80 (tickOf s)))))
  ∧ (∀ (slot : Slot) (s : State), coreRuns s = true → s.tick.cur.idx ≠ 0 → s.time.now = s.tick.at_ →
      (reqOf s slot).st = .paused → (reqOf s slot).coldSt ≠ .released → (reqOf s slot).expiry ≠ 0 →
      (reqOf s slot).expiry.toNat ≤ s.time.gtAccepted.toNat →
    ∃ t, exec (.coldExpiry slot) s = .next t ∧ (reqOf t slot).coldSt = .released ∧ (reqOf t slot).st = .paused
      ∧ jobOf t (.cold slot) = none ∧ Frame [.req, .jobs, .ports] s t)
  ∧ (∀ (g : Fin 64) (m : BitVec 20) (s : State), s.text.maskWriting.contains (g, m) = true →
      writesLeft s (.mask g m) = false →
    exec (.maskWriteComplete g m) s = .next (settle (s.text.maskWaits.foldl (fun s w => drain s w.slot)
      (flushMasks s.time.now s.text.maskWaits [] { s with text := { s.text with
        maskWriting := s.text.maskWriting.filter (fun e => e != (g, m)), maskWaits := [] } }))))

/-- CHECKPOINT, its writes and COPY_BEFORE_WRITE (14 R434 to R440): the command waits for the snapshot at the next T_n,
for the slot that does not hold the newest valid shard and with the sequence after it, 1 where none is valid (what the
slots hold: log 27); one under way makes it busy. The zero commit word is followed by the sections, these by the head,
the head by the commit word, whose write completes it; a training page that is about to change is staged first. -/
def Obligations.CheckpointSteps : Prop :=
  (∀ (path : Path) (a b : List Byte) (s : State), Served s path 0x2800 1 → s.ckpt.st = .idle →
      slotSet s false = true → slotSet s true = true →
    exec (.checkpoint path a b) s = .next (settle (respond { heard s path 0x2800 with ckpt := { s.ckpt with
      st := .snapshotPending, applied := s.time.now
      target := ((validSlots s a b).head?.map fun x => !x.1).getD false
      newSeq := BitVec.ofNat 64 (((validSlots s a b).head?.map fun x => fragSeq x.2 + 1).getD 1) } } path 0 [])))
  ∧ (∀ (path : Path) (a b : List Byte) (s : State), Served s path 0x2800 1 → s.ckpt.st ≠ .idle →
    exec (.checkpoint path a b) s = .next (settle (abortReq (heard s path 0x2800) path abState rsBusy 0x2800 1)))
  ∧ (∀ s : State, coreRuns s = true → s.ckpt.st = .writing → writesLeft s .checkpoint = false →
    (s.ckpt.step = .zeroCommit → s.ckpt.tuned ≤ 64 →
        4096 + (shardBytes s.ckpt.sections).length ≤ (slotSize s s.ckpt.target).toNat →
      exec .checkpointWriteDone s = .next (settle (sendBytes { s with ckpt := { s.ckpt with step := .sections } }
        (weightPort s) .checkpoint (slotBase s s.ckpt.target + 4096) (shardBytes s.ckpt.sections))))
    ∧ (s.ckpt.step = .sections → exec .checkpointWriteDone s = .next (settle (sendBytes { s with
        ckpt := { s.ckpt with step := .fragment, fragment := fragmentHead s }
        stream := { s.stream with copySet := [], freePending := [] } } (weightPort s) .checkpoint
        (slotBase s s.ckpt.target) (fragmentHead s))))
    ∧ (s.ckpt.step = .fragment → exec .checkpointWriteDone s = .next (settle (sendBytes
        { s with ckpt := { s.ckpt with step := .commit } } (weightPort s) .checkpoint (slotBase s s.ckpt.target + 4088)
        (leBytes 8 (commitWord s.ckpt.fragment)))))
    ∧ (s.ckpt.step = .commit → ∃ t, exec .checkpointWriteDone s = .next t ∧ t.ckpt.st = .idle ∧ t.ckpt.last = 1
        ∧ t.ckpt.sequence = s.ckpt.newSeq ∧ t.ckpt.snapTick = s.ckpt.newTick.zeroExtend 64
        ∧ t.ckpt.lastSlot = BitVec.ofNat 8 (slotNum s.ckpt.target)))
  ∧ (∀ (page : BitVec 22) (s : State), coreRuns s = true → s.stream.copySet.contains page = true →
      s.stream.staged.length < 8 * regionHalf s 6 →
    ∃ t, exec (.copyBeforeWrite page) s = .next t ∧ t.stream.staged = s.stream.staged ++ [page]
      ∧ t.stream.copySet = s.stream.copySet.filter (fun p => p != page) ∧ Frame [.stream] s t)

/-- RESTORE, its reads and FOREIGN_ACKNOWLEDGEMENT (14 R441 to R444): a restore in Pre-operational with Live Tuning off
reads the heads of the slots that are set; in Operational it aborts; with no valid shard it ends with 0x54; a shard
whose digest is wrong gives way to the other slot's; a shard of another device waits for the acknowledgement, and any
value but 0x5A3C refuses it. -/
def Obligations.RestoreSteps : Prop :=
  (∀ (path : Path) (s : State), Served s path 0x2800 1 → s.ckpt.st = .idle → s.mgmt.nmt = .preOperational →
      s.tune.enable = 0 →
    let t := { heard s path 0x2800 with ckpt := { s.ckpt with st := .restoring, chosen := none, cands := [] } }
    let u := if slotSet s false = true then shardJob t false 0 4096 else t
    exec (.restore path) s
      = .next (settle (respond (if slotSet s true = true then shardJob u true 0 4096 else u) path 0 [])))
  ∧ (∀ (path : Path) (s : State), Served s path 0x2800 1 → s.ckpt.st = .idle → s.mgmt.nmt = .operational →
    exec (.restore path) s = .next (settle (abortReq (heard s path 0x2800) path abState rsPreop 0x2800 1)))
  ∧ (∀ s : State, coreRuns s = true → s.ckpt.st = .restoring →
      (∀ j ∈ s.jobs, (∃ b, j.key = .shard b) → j.over = true ∧ j.failed = none) → s.ckpt.chosen = none →
    exec .restoreReadDone s = .next (settle (readCandidate (dropJob (dropJob s (.shard false)) (.shard true))
      (validSlots s (((jobOf s (.shard false)).map Job.bytes).getD [])
        (((jobOf s (.shard true)).map Job.bytes).getD [])))))
  ∧ (∀ s : State, readCandidate s [] = closeCheckpoint s 0x54)
  ∧ (∀ (slot : Bool) (j : Job) (s : State), leAt s.ckpt.fragment 24 48 ≠ s.boot.identity.toNat →
    if (Config.sha256 j.bytes).toNat = leAt s.ckpt.fragment 96 32 then
      (judgeShard s slot j).ckpt.st = .awaitingAck
    else judgeShard s slot j = readCandidate (dropJob s (.shard slot)) s.ckpt.cands.tail)
  ∧ (∀ (path : Path) (v : W16) (b : Bool) (s : State), Served s path 0x2803 1 → s.ckpt.st = .awaitingAck →
      s.ckpt.chosen = some b →
    (v = 0x5A3C → exec (.foreignAcknowledgement path v) s = .next (settle (respond (installShard
      (heard s path 0x2803) b s.ckpt.fragment (((jobOf s (.shard b)).map Job.bytes).getD [])) path 0 [])))
    ∧ (v ≠ 0x5A3C → exec (.foreignAcknowledgement path v) s = .next (settle (respond
      (closeCheckpoint (heard s path 0x2803) 0x56) path 0 []))))

/-! ## Ticks and global time (02, 12, 18) -/

/-- TICK_REGISTRATION (02 R33 to R41): the new tick begins in the cycle of the toggle with the next index, and
everything of T_n follows; a level already registered does nothing. The first tick takes the number given; a later one
takes what the rule of numbers makes of it, by which the number expected is the last plus 1 modulo 2⁴⁸ and no other is
taken unreported. -/
def Obligations.TickBegins : Prop :=
  (∀ (level unstable : Bool) (num : W48) (s : State), nodeUp s = true → level ≠ s.tick.refLevel →
    exec (.tickRegistration level num unstable) s = .next (settle (tickBoundary
      (numberTick (judgeOverrun s) level num unstable) (s.mgmt.nmt == .operational && s.tick.afterEntry) s.tick.cur))
    ∧ ∃ t, exec (.tickRegistration level num unstable) s = .next t ∧ t.tick.cur.idx = s.tick.cur.idx + 1
      ∧ t.tick.at_ = s.time.now ∧ t.tick.refLevel = level ∧ t.tick.registered = s.tick.registered + 1
      ∧ t.time.now = s.time.now ∧ t.pwr.power = s.pwr.power
      ∧ (s.mgmt.nmt ≠ .operational ∨ s.tick.opTick = false → t.tick.cur.num = num)
      ∧ (s.mgmt.nmt = .operational → s.tick.opTick = true → t.tick.cur.num = (tickNumber s.tick.cur.num num).1))
  ∧ (∀ (level unstable : Bool) (num : W48) (s : State),
    (numberTick s level num unstable).tick.intakeClosed = false ∧ (numberTick s level num unstable).tick.absentCount = 0)
  ∧ (∀ last read : W48, ((tickNumber last read).2 = none ↔ read = last + 1)
    ∧ tickNumber last (last + 1) = (last + 1, none) ∧ tickNumber 0xFFFFFFFFFFFF 0 = (0, none))
  ∧ (∀ (unstable : Bool) (num : W48) (s : State),
    exec (.tickRegistration s.tick.refLevel num unstable) s = .next s)

/-- INTAKE_CLOSE, TICK_ABSENT and OVERRUN_THRESHOLD (02 R42 to R46; 10 R330; 12 R386; 17 R506): the intake closes once,
closes the calibration period and, in Operational for a tick registered since its latest entry (log 97), places the
plan; every Maximum Tick Period without a tick is reported with its count; a run of overruns that reaches the threshold
is sent as one EMCY, which joins the error list and the queue of EMCYs. -/
def Obligations.WithinTheTick : Prop :=
  (∀ s : State, nodeUp s = true → s.tick.cur.idx ≠ 0 → s.tick.intakeClosed = false →
      s.tick.at_ + s.tick.intakeClose.toNat ≤ s.time.now →
    let t := { s with tick := { s.tick with intakeClosed := true } }
    let u := if s.cal.periodOpen = true ∧ s.cal.closed = false ∧ s.tick.afterEntry = false
      then closePeriod t s.tick.cur else t
    exec .intakeClose s = .next (settle (if s.mgmt.nmt = .operational ∧ s.tick.opTick = true then buildPlan u else u))
    ∧ (closePeriod t s.tick.cur).cal.closed = true)
  ∧ (∀ s : State, operational s = true →
      (if s.tick.cur.idx = 0 then s.tick.opEntry else max s.tick.opEntry s.tick.at_)
        + (s.tick.absentCount + 1) * (s.tick.maxPeriod.toNat * 2000) ≤ s.time.now →
    exec .tickAbsent s = .next (settle (raise { s with tick := { s.tick with absentCount := s.tick.absentCount + 1 } }
      .tickAbsent (stackPlace s 15 0) (s.tick.absentCount + 1))))
  ∧ (∀ s : State, coreRuns s = true → s.tick.overrunThreshold.toNat ≤ s.tick.overrunRun.toNat →
      s.tick.overrunSent = false →
    let code := emcyCode .tickOverrun (errCls .tickOverrun)
    exec .overrunThreshold s = .next (settle (emcySend { s with
        tick := { s.tick with overrunSent := true }
        mgmt := { s.mgmt with
          errorList := ((BitVec.ofNat 16 (errNum .tickOverrun) ++ code) :: s.mgmt.errorList).take 16 } }
      code (errorRegister s) (detailOf (stackPlace s 15 0) .tickOverrun))))
  ∧ (∀ s : State, s.mgmt.nmt = .operational ∨ s.mgmt.nmt = .preOperational → s.mgmt.emcyQueue.length < 16 →
    ∀ (code : W16) (reg : Byte) (detail : BitVec 40),
      (emcySend s code reg detail).mgmt.emcyQueue = s.mgmt.emcyQueue ++ [{ code := code, reg := reg, detail := detail }])

/-- GT_APPLY (18 R516 to R519): the levels of GT_LOAD are taken; a toggled apply loads them, accepted 2 or 3 ac later,
which of the two is free (log 3). -/
def Obligations.GlobalTimeLoads : Prop :=
  ∀ (level : Bool) (lo hi : W32) (s : State), s.pwr.power = .active → s.pwr.stopped.contains .refclk = false →
    (level = s.time.gtApply → exec (.gtApply level lo hi) s = .next { s with time := { s.time with gtLoad := hi ++ lo } })
    ∧ (level ≠ s.time.gtApply → ∃ t, exec (.gtApply level lo hi) s = .next t ∧ t.time.gt = hi ++ lo
      ∧ t.time.gtApply = level ∧ (t.time.gtLag = 2 ∨ t.time.gtLag = 3) ∧ t.time.now = s.time.now ∧ Frame [.time] s t)
end

