-- ==== Sys2Proof/Laws/Table.lean ====
section
/-! SUPPORT. Sparse tables: what a key reads after a write, and that every operation keeps the canonical form. -/
namespace Sys2Proof.Tbl
variable {α : Type}

theorem find_ins_same (t : Tbl α) (k : Nat) (v : α) : find (ins t k v) k = some v := by
  induction t with
  | nil => simp [ins, find]
  | cons e t ih => obtain ⟨k', v'⟩ := e; unfold ins; (repeat' split) <;> simp_all [find]

theorem find_ins_other (t : Tbl α) (k : Nat) (v : α) (j : Nat) (h : j ≠ k) : find (ins t k v) j = find t j := by
  induction t with
  | nil => simp [ins, find, h]
  | cons e t ih => obtain ⟨k', v'⟩ := e; unfold ins; (repeat' split) <;> simp_all [find]

theorem find_del_other (t : Tbl α) (k j : Nat) (h : j ≠ k) : find (del t k) j = find t j := by
  induction t with
  | nil => rfl
  | cons e t ih => obtain ⟨k', v'⟩ := e; unfold del; split <;> simp_all [find]

theorem sorted_tail {e : Nat × α} {t : Tbl α} (h : sorted (e :: t) = true) : sorted t = true := by
  obtain ⟨k, v⟩ := e
  cases t with
  | nil => rfl
  | cons e t => obtain ⟨k', v'⟩ := e; simp [sorted] at h; exact h.2

/-- In a sorted table every later key is greater. -/
theorem sorted_lt {e : Nat × α} {t : Tbl α} (h : sorted (e :: t) = true) : ∀ x ∈ t, e.1 < x.1 := by
  induction t generalizing e with
  | nil => intro x hx; cases hx
  | cons f t ih =>
    obtain ⟨k, v⟩ := e; obtain ⟨k', v'⟩ := f
    simp [sorted] at h
    intro x hx
    cases hx with
    | head => exact h.1
    | tail _ hx => exact Nat.lt_trans h.1 (ih h.2 x hx)

theorem sorted_cons {e : Nat × α} {t : Tbl α} (h : sorted t = true) (hl : ∀ x ∈ t, e.1 < x.1) : sorted (e :: t) = true := by
  obtain ⟨k, v⟩ := e
  cases t with
  | nil => rfl
  | cons f t =>
    obtain ⟨k', v'⟩ := f
    simp only [sorted, Bool.and_eq_true, decide_eq_true_eq]
    exact ⟨hl (k', v') (List.mem_cons_self ..), h⟩

theorem find_del_same (t : Tbl α) (k : Nat) : find (del t k) k = none := by
  induction t with
  | nil => rfl
  | cons e t ih =>
    obtain ⟨k', v'⟩ := e
    unfold del; split
    · exact ih
    · rename_i hk; simp [find, hk, ih]

theorem mem_del {t : Tbl α} {k : Nat} {x} (h : x ∈ del t k) : x ∈ t := by
  induction t with
  | nil => exact h
  | cons e t ih =>
    obtain ⟨k', v'⟩ := e
    unfold del at h; split at h
    · exact List.mem_cons_of_mem _ (ih h)
    · cases h with
      | head => exact List.mem_cons_self ..
      | tail _ h => exact List.mem_cons_of_mem _ (ih h)

theorem mem_ins {t : Tbl α} {k : Nat} {v : α} {x} (h : x ∈ ins t k v) : x = (k, v) ∨ x ∈ t := by
  induction t with
  | nil => simpa [ins] using h
  | cons e t ih =>
    obtain ⟨k', v'⟩ := e
    unfold ins at h; split at h
    · simpa using h
    · split at h
      · cases h with
        | head => exact .inl rfl
        | tail _ h => exact .inr (List.mem_cons_of_mem _ h)
      · cases h with
        | head => exact .inr (List.mem_cons_self ..)
        | tail _ h => exact (ih h).imp id (List.mem_cons_of_mem _)

theorem sorted_del (t : Tbl α) (k : Nat) (h : sorted t = true) : sorted (del t k) = true := by
  induction t with
  | nil => rfl
  | cons e t ih =>
    obtain ⟨k', v'⟩ := e
    unfold del; split
    · exact ih (sorted_tail h)
    · exact sorted_cons (ih (sorted_tail h)) fun x hx => sorted_lt h x (mem_del hx)

theorem sorted_ins (t : Tbl α) (k : Nat) (v : α) (h : sorted t = true) : sorted (ins t k v) = true := by
  induction t with
  | nil => rfl
  | cons e t ih =>
    obtain ⟨k', v'⟩ := e
    unfold ins; split
    · rename_i hk
      refine sorted_cons h fun x hx => ?_
      cases hx with
      | head => exact hk
      | tail _ hx => exact Nat.lt_trans hk (sorted_lt h x hx)
    · split
      · rename_i hk; subst hk; exact sorted_cons (sorted_tail h) fun x hx => sorted_lt h x hx
      · rename_i h1 h2
        refine sorted_cons (ih (sorted_tail h)) fun x hx => ?_
        rcases mem_ins hx with rfl | hx
        · dsimp only; omega
        · exact sorted_lt h x hx

variable [DecidableEq α]

/-- A key reads what was put there. -/
@[simp] theorem get_put_same (d : α) (t : Tbl α) (k : Nat) (v : α) : get d (put d t k v) k = v := by
  unfold get put; split
  · rename_i hv; simp [find_del_same t k, hv]
  · simp [find_ins_same]

/-- A put leaves every other key alone. -/
theorem get_put_other (d : α) (t : Tbl α) (k : Nat) (v : α) (j : Nat) (h : j ≠ k) : get d (put d t k v) j = get d t j := by
  unfold get put; split <;> simp [find_del_other, find_ins_other, h]

/-- A put keeps the canonical form. -/
theorem wf_put (d : α) (t : Tbl α) (k : Nat) (v : α) (h : wf d t = true) : wf d (put d t k v) = true := by
  simp only [wf, Bool.and_eq_true, List.all_eq_true, decide_eq_true_eq] at h ⊢
  unfold put; split
  · exact ⟨sorted_del t k h.1, fun x hx => h.2 x (mem_del hx)⟩
  · rename_i hv
    refine ⟨sorted_ins t k v h.1, fun x hx => ?_⟩
    rcases mem_ins hx with rfl | hx
    · exact hv
    · exact h.2 x hx

/-- So does a change of every value. -/
theorem wf_mapVals (d : α) (f : Nat → α → α) (t : Tbl α) (h : wf d t = true) : wf d (mapVals d f t) = true := by
  simp only [wf, Bool.and_eq_true, List.all_eq_true, decide_eq_true_eq] at h ⊢
  refine ⟨?_, fun x hx => by unfold mapVals at hx; simpa using (List.mem_filter.mp hx).2⟩
  have hs := h.1; clear h
  unfold mapVals
  induction t with
  | nil => rfl
  | cons e t ih =>
    rw [List.map_cons, List.filter_cons]
    split
    · refine sorted_cons (ih (sorted_tail hs)) fun x hx => ?_
      have := (List.mem_filter.mp hx).1
      simp only [List.mem_map] at this
      obtain ⟨a, ha, rfl⟩ := this
      exact sorted_lt hs a ha
    · exact ih (sorted_tail hs)

end Sys2Proof.Tbl
end

