-- ==== Sys2Proof/Laws/Access.lean ====
section
/-! SUPPORT. What the accessors read after a write: the value written at its own number, the old value at every other. -/
namespace Sys2Proof.Machine
open Sys2Proof

@[simp] theorem reqOf_setReq (s : State) (x : Slot) (r : Request) : reqOf (setReq s x r) x = r := Tbl.get_put_same ..
theorem reqOf_setReq_other (s : State) (x y : Slot) (r : Request) (h : y ≠ x) : reqOf (setReq s x r) y = reqOf s y :=
  Tbl.get_put_other _ _ _ _ _ fun e => h (BitVec.eq_of_toNat_eq e)
@[simp] theorem reqOf_modReq (s : State) (x : Slot) (f : Request → Request) : reqOf (modReq s x f) x = f (reqOf s x) :=
  reqOf_setReq ..
theorem reqOf_modReq_other (s : State) (x y : Slot) (f : Request → Request) (h : y ≠ x) :
    reqOf (modReq s x f) y = reqOf s y := reqOf_setReq_other _ _ _ _ h

@[simp] theorem portOf_setPort (s : State) (p : Fin 8) (v : Port) : portOf (setPort s p v) p = v := Tbl.get_put_same ..
theorem portOf_setPort_other (s : State) (p q : Fin 8) (v : Port) (h : q ≠ p) : portOf (setPort s p v) q = portOf s q :=
  Tbl.get_put_other _ _ _ _ _ fun e => h (Fin.ext e)
@[simp] theorem portOf_modPort (s : State) (p : Fin 8) (f : Port → Port) : portOf (modPort s p f) p = f (portOf s p) :=
  portOf_setPort ..
theorem portOf_modPort_other (s : State) (p q : Fin 8) (f : Port → Port) (h : q ≠ p) :
    portOf (modPort s p f) q = portOf s q := portOf_setPort_other _ _ _ _ h

@[simp] theorem fnOf_setFn (s : State) (f : Fin 64) (v : Fn) : fnOf (setFn s f v) f = v := Tbl.get_put_same ..
theorem fnOf_setFn_other (s : State) (f g : Fin 64) (v : Fn) (h : g ≠ f) : fnOf (setFn s f v) g = fnOf s g :=
  Tbl.get_put_other _ _ _ _ _ fun e => h (Fin.ext e)
@[simp] theorem fnOf_modFn (s : State) (f : Fin 64) (g : Fn → Fn) : fnOf (modFn s f g) f = g (fnOf s f) := fnOf_setFn ..

@[simp] theorem engOf_setEng (s : State) (e : Nat) (v : Engine) : engOf (setEng s e v) e = v := Tbl.get_put_same ..
@[simp] theorem planOf_setPlan (s : State) (p : Byte) (v : Plan) : planOf (setPlan s p v) p = v := Tbl.get_put_same ..
@[simp] theorem tenantOf_setTenant (s : State) (t : BitVec 14) (v : Tenant) : tenantOf (setTenant s t v) t = v :=
  Tbl.get_put_same ..
@[simp] theorem policyOf_setPolicy (s : State) (p : BitVec 12) (v : Policy) : policyOf (setPolicy s p v) p = v :=
  Tbl.get_put_same ..
@[simp] theorem vocabOf_setVocab (s : State) (v : Fin 8) (x : Vocab) : vocabOf (setVocab s v x) v = x :=
  Tbl.get_put_same ..
@[simp] theorem grammarOf_setGrammar (s : State) (g : Fin 64) (x : Grammar) : grammarOf (setGrammar s g x) g = x :=
  Tbl.get_put_same ..
@[simp] theorem dsetOf_setDset (s : State) (d : BitVec 10) (x : DeltaSet) : dsetOf (setDset s d x) d = x :=
  Tbl.get_put_same ..
@[simp] theorem screenOf_setScreen (s : State) (b : BitVec 10) (x : Screen) : screenOf (setScreen s b x) b = x :=
  Tbl.get_put_same ..

end Sys2Proof.Machine
end

