-- ==== Sys2Proof/Laws/State.lean ====
section
/-! SUPPORT. One lemma per part of the state per update of the shared operations, and the lemmas of `State.kept`:
what an ordinary command never touches, through an update of any other part and through a fold of operations. -/
namespace Sys2Proof.Machine
open Sys2Proof

@[simp] theorem kept_mk (p ti tk po j r f a m t e c st tu ck er mg v pw b fu se ta) :
  State.kept (State.mk p ti tk po j r f a m t e c st tu ck er mg v pw b fu se ta) =
   ⟨p, fu.uds, fu.keyHash, fu.serial, fu.dbgLock, ta, se, pw.power, pw.porst, pw.hrst, ti.now, tk.cur, tk.at_, tk.refLevel, tk.registered⟩ := rfl
@[simp] theorem kept_eta (x : State) : Kept.mk x.pending x.fuse.uds x.fuse.keyHash x.fuse.serial x.fuse.dbgLock x.tap x.sensed x.pwr.power x.pwr.porst x.pwr.hrst x.time.now x.tick.cur x.tick.at_ x.tick.refLevel x.tick.registered = x.kept := rfl

@[simp] theorem kept_ports (s : State) (x) : State.kept { s with ports := x } = s.kept := rfl
@[simp] theorem kept_jobs (s : State) (x) : State.kept { s with jobs := x } = s.kept := rfl
@[simp] theorem kept_req (s : State) (x) : State.kept { s with req := x } = s.kept := rfl
@[simp] theorem kept_fns (s : State) (x) : State.kept { s with fns := x } = s.kept := rfl
@[simp] theorem kept_acct (s : State) (x) : State.kept { s with acct := x } = s.kept := rfl
@[simp] theorem kept_mortise (s : State) (x) : State.kept { s with mortise := x } = s.kept := rfl
@[simp] theorem kept_text (s : State) (x) : State.kept { s with text := x } = s.kept := rfl
@[simp] theorem kept_eng (s : State) (x) : State.kept { s with eng := x } = s.kept := rfl
@[simp] theorem kept_cal (s : State) (x) : State.kept { s with cal := x } = s.kept := rfl
@[simp] theorem kept_stream (s : State) (x) : State.kept { s with stream := x } = s.kept := rfl
@[simp] theorem kept_tune (s : State) (x) : State.kept { s with tune := x } = s.kept := rfl
@[simp] theorem kept_ckpt (s : State) (x) : State.kept { s with ckpt := x } = s.kept := rfl
@[simp] theorem kept_err (s : State) (x) : State.kept { s with err := x } = s.kept := rfl
@[simp] theorem kept_mgmt (s : State) (x) : State.kept { s with mgmt := x } = s.kept := rfl
@[simp] theorem kept_view (s : State) (x) : State.kept { s with view := x } = s.kept := rfl
@[simp] theorem kept_boot (s : State) (x) : State.kept { s with boot := x } = s.kept := rfl

/-- What the state of a write's result keeps. -/
def WriteRes.kept : WriteRes → Kept
  | .ok s => s.kept
  | .abort _ _ s => s.kept

@[simp] theorem WriteRes.kept_ok (s) : (WriteRes.ok s).kept = s.kept := rfl
@[simp] theorem WriteRes.kept_abort (a b s) : (WriteRes.abort a b s).kept = s.kept := rfl

theorem foldl_kept {α} (f : State → α → State) (h : ∀ s x, (f s x).kept = s.kept) (l : List α) (s : State) :
    (l.foldl f s).kept = s.kept := by
  induction l generalizing s with
  | nil => rfl
  | cons a t ih => rw [List.foldl_cons, ih, h]

theorem foldl_fst_kept {α β} (f : State × β → α → State × β) (h : ∀ s x, (f s x).1.kept = s.1.kept) (l : List α)
    (s : State × β) : (l.foldl f s).1.kept = s.1.kept := by
  induction l generalizing s with
  | nil => rfl
  | cons a t ih => rw [List.foldl_cons, ih, h]

/-! ## Parts after an update -/

@[simp] theorem setPort_pending (s : State) (p : Fin 8) (v : Port) : (setPort s p v).pending = s.pending := rfl
@[simp] theorem setPort_time (s : State) (p : Fin 8) (v : Port) : (setPort s p v).time = s.time := rfl
@[simp] theorem setPort_tick (s : State) (p : Fin 8) (v : Port) : (setPort s p v).tick = s.tick := rfl
@[simp] theorem setPort_jobs (s : State) (p : Fin 8) (v : Port) : (setPort s p v).jobs = s.jobs := rfl
@[simp] theorem setPort_req (s : State) (p : Fin 8) (v : Port) : (setPort s p v).req = s.req := rfl
@[simp] theorem setPort_fns (s : State) (p : Fin 8) (v : Port) : (setPort s p v).fns = s.fns := rfl
@[simp] theorem setPort_acct (s : State) (p : Fin 8) (v : Port) : (setPort s p v).acct = s.acct := rfl
@[simp] theorem setPort_mortise (s : State) (p : Fin 8) (v : Port) : (setPort s p v).mortise = s.mortise := rfl
@[simp] theorem setPort_text (s : State) (p : Fin 8) (v : Port) : (setPort s p v).text = s.text := rfl
@[simp] theorem setPort_eng (s : State) (p : Fin 8) (v : Port) : (setPort s p v).eng = s.eng := rfl
@[simp] theorem setPort_cal (s : State) (p : Fin 8) (v : Port) : (setPort s p v).cal = s.cal := rfl
@[simp] theorem setPort_stream (s : State) (p : Fin 8) (v : Port) : (setPort s p v).stream = s.stream := rfl
@[simp] theorem setPort_tune (s : State) (p : Fin 8) (v : Port) : (setPort s p v).tune = s.tune := rfl
@[simp] theorem setPort_ckpt (s : State) (p : Fin 8) (v : Port) : (setPort s p v).ckpt = s.ckpt := rfl
@[simp] theorem setPort_err (s : State) (p : Fin 8) (v : Port) : (setPort s p v).err = s.err := rfl
@[simp] theorem setPort_mgmt (s : State) (p : Fin 8) (v : Port) : (setPort s p v).mgmt = s.mgmt := rfl
@[simp] theorem setPort_view (s : State) (p : Fin 8) (v : Port) : (setPort s p v).view = s.view := rfl
@[simp] theorem setPort_pwr (s : State) (p : Fin 8) (v : Port) : (setPort s p v).pwr = s.pwr := rfl
@[simp] theorem setPort_boot (s : State) (p : Fin 8) (v : Port) : (setPort s p v).boot = s.boot := rfl
@[simp] theorem setPort_fuse (s : State) (p : Fin 8) (v : Port) : (setPort s p v).fuse = s.fuse := rfl
@[simp] theorem setPort_sensed (s : State) (p : Fin 8) (v : Port) : (setPort s p v).sensed = s.sensed := rfl
@[simp] theorem setPort_tap (s : State) (p : Fin 8) (v : Port) : (setPort s p v).tap = s.tap := rfl

@[simp] theorem modPort_pending (s : State) (p : Fin 8) (f : Port → Port) : (modPort s p f).pending = s.pending := rfl
@[simp] theorem modPort_time (s : State) (p : Fin 8) (f : Port → Port) : (modPort s p f).time = s.time := rfl
@[simp] theorem modPort_tick (s : State) (p : Fin 8) (f : Port → Port) : (modPort s p f).tick = s.tick := rfl
@[simp] theorem modPort_jobs (s : State) (p : Fin 8) (f : Port → Port) : (modPort s p f).jobs = s.jobs := rfl
@[simp] theorem modPort_req (s : State) (p : Fin 8) (f : Port → Port) : (modPort s p f).req = s.req := rfl
@[simp] theorem modPort_fns (s : State) (p : Fin 8) (f : Port → Port) : (modPort s p f).fns = s.fns := rfl
@[simp] theorem modPort_acct (s : State) (p : Fin 8) (f : Port → Port) : (modPort s p f).acct = s.acct := rfl
@[simp] theorem modPort_mortise (s : State) (p : Fin 8) (f : Port → Port) : (modPort s p f).mortise = s.mortise := rfl
@[simp] theorem modPort_text (s : State) (p : Fin 8) (f : Port → Port) : (modPort s p f).text = s.text := rfl
@[simp] theorem modPort_eng (s : State) (p : Fin 8) (f : Port → Port) : (modPort s p f).eng = s.eng := rfl
@[simp] theorem modPort_cal (s : State) (p : Fin 8) (f : Port → Port) : (modPort s p f).cal = s.cal := rfl
@[simp] theorem modPort_stream (s : State) (p : Fin 8) (f : Port → Port) : (modPort s p f).stream = s.stream := rfl
@[simp] theorem modPort_tune (s : State) (p : Fin 8) (f : Port → Port) : (modPort s p f).tune = s.tune := rfl
@[simp] theorem modPort_ckpt (s : State) (p : Fin 8) (f : Port → Port) : (modPort s p f).ckpt = s.ckpt := rfl
@[simp] theorem modPort_err (s : State) (p : Fin 8) (f : Port → Port) : (modPort s p f).err = s.err := rfl
@[simp] theorem modPort_mgmt (s : State) (p : Fin 8) (f : Port → Port) : (modPort s p f).mgmt = s.mgmt := rfl
@[simp] theorem modPort_view (s : State) (p : Fin 8) (f : Port → Port) : (modPort s p f).view = s.view := rfl
@[simp] theorem modPort_pwr (s : State) (p : Fin 8) (f : Port → Port) : (modPort s p f).pwr = s.pwr := rfl
@[simp] theorem modPort_boot (s : State) (p : Fin 8) (f : Port → Port) : (modPort s p f).boot = s.boot := rfl
@[simp] theorem modPort_fuse (s : State) (p : Fin 8) (f : Port → Port) : (modPort s p f).fuse = s.fuse := rfl
@[simp] theorem modPort_sensed (s : State) (p : Fin 8) (f : Port → Port) : (modPort s p f).sensed = s.sensed := rfl
@[simp] theorem modPort_tap (s : State) (p : Fin 8) (f : Port → Port) : (modPort s p f).tap = s.tap := rfl

@[simp] theorem setReq_pending (s : State) (k : Slot) (r : Request) : (setReq s k r).pending = s.pending := rfl
@[simp] theorem setReq_time (s : State) (k : Slot) (r : Request) : (setReq s k r).time = s.time := rfl
@[simp] theorem setReq_tick (s : State) (k : Slot) (r : Request) : (setReq s k r).tick = s.tick := rfl
@[simp] theorem setReq_ports (s : State) (k : Slot) (r : Request) : (setReq s k r).ports = s.ports := rfl
@[simp] theorem setReq_jobs (s : State) (k : Slot) (r : Request) : (setReq s k r).jobs = s.jobs := rfl
@[simp] theorem setReq_fns (s : State) (k : Slot) (r : Request) : (setReq s k r).fns = s.fns := rfl
@[simp] theorem setReq_acct (s : State) (k : Slot) (r : Request) : (setReq s k r).acct = s.acct := rfl
@[simp] theorem setReq_mortise (s : State) (k : Slot) (r : Request) : (setReq s k r).mortise = s.mortise := rfl
@[simp] theorem setReq_text (s : State) (k : Slot) (r : Request) : (setReq s k r).text = s.text := rfl
@[simp] theorem setReq_eng (s : State) (k : Slot) (r : Request) : (setReq s k r).eng = s.eng := rfl
@[simp] theorem setReq_cal (s : State) (k : Slot) (r : Request) : (setReq s k r).cal = s.cal := rfl
@[simp] theorem setReq_stream (s : State) (k : Slot) (r : Request) : (setReq s k r).stream = s.stream := rfl
@[simp] theorem setReq_tune (s : State) (k : Slot) (r : Request) : (setReq s k r).tune = s.tune := rfl
@[simp] theorem setReq_ckpt (s : State) (k : Slot) (r : Request) : (setReq s k r).ckpt = s.ckpt := rfl
@[simp] theorem setReq_err (s : State) (k : Slot) (r : Request) : (setReq s k r).err = s.err := rfl
@[simp] theorem setReq_mgmt (s : State) (k : Slot) (r : Request) : (setReq s k r).mgmt = s.mgmt := rfl
@[simp] theorem setReq_view (s : State) (k : Slot) (r : Request) : (setReq s k r).view = s.view := rfl
@[simp] theorem setReq_pwr (s : State) (k : Slot) (r : Request) : (setReq s k r).pwr = s.pwr := rfl
@[simp] theorem setReq_boot (s : State) (k : Slot) (r : Request) : (setReq s k r).boot = s.boot := rfl
@[simp] theorem setReq_fuse (s : State) (k : Slot) (r : Request) : (setReq s k r).fuse = s.fuse := rfl
@[simp] theorem setReq_sensed (s : State) (k : Slot) (r : Request) : (setReq s k r).sensed = s.sensed := rfl
@[simp] theorem setReq_tap (s : State) (k : Slot) (r : Request) : (setReq s k r).tap = s.tap := rfl

@[simp] theorem modReq_pending (s : State) (k : Slot) (f : Request → Request) : (modReq s k f).pending = s.pending := rfl
@[simp] theorem modReq_time (s : State) (k : Slot) (f : Request → Request) : (modReq s k f).time = s.time := rfl
@[simp] theorem modReq_tick (s : State) (k : Slot) (f : Request → Request) : (modReq s k f).tick = s.tick := rfl
@[simp] theorem modReq_ports (s : State) (k : Slot) (f : Request → Request) : (modReq s k f).ports = s.ports := rfl
@[simp] theorem modReq_jobs (s : State) (k : Slot) (f : Request → Request) : (modReq s k f).jobs = s.jobs := rfl
@[simp] theorem modReq_fns (s : State) (k : Slot) (f : Request → Request) : (modReq s k f).fns = s.fns := rfl
@[simp] theorem modReq_acct (s : State) (k : Slot) (f : Request → Request) : (modReq s k f).acct = s.acct := rfl
@[simp] theorem modReq_mortise (s : State) (k : Slot) (f : Request → Request) : (modReq s k f).mortise = s.mortise := rfl
@[simp] theorem modReq_text (s : State) (k : Slot) (f : Request → Request) : (modReq s k f).text = s.text := rfl
@[simp] theorem modReq_eng (s : State) (k : Slot) (f : Request → Request) : (modReq s k f).eng = s.eng := rfl
@[simp] theorem modReq_cal (s : State) (k : Slot) (f : Request → Request) : (modReq s k f).cal = s.cal := rfl
@[simp] theorem modReq_stream (s : State) (k : Slot) (f : Request → Request) : (modReq s k f).stream = s.stream := rfl
@[simp] theorem modReq_tune (s : State) (k : Slot) (f : Request → Request) : (modReq s k f).tune = s.tune := rfl
@[simp] theorem modReq_ckpt (s : State) (k : Slot) (f : Request → Request) : (modReq s k f).ckpt = s.ckpt := rfl
@[simp] theorem modReq_err (s : State) (k : Slot) (f : Request → Request) : (modReq s k f).err = s.err := rfl
@[simp] theorem modReq_mgmt (s : State) (k : Slot) (f : Request → Request) : (modReq s k f).mgmt = s.mgmt := rfl
@[simp] theorem modReq_view (s : State) (k : Slot) (f : Request → Request) : (modReq s k f).view = s.view := rfl
@[simp] theorem modReq_pwr (s : State) (k : Slot) (f : Request → Request) : (modReq s k f).pwr = s.pwr := rfl
@[simp] theorem modReq_boot (s : State) (k : Slot) (f : Request → Request) : (modReq s k f).boot = s.boot := rfl
@[simp] theorem modReq_fuse (s : State) (k : Slot) (f : Request → Request) : (modReq s k f).fuse = s.fuse := rfl
@[simp] theorem modReq_sensed (s : State) (k : Slot) (f : Request → Request) : (modReq s k f).sensed = s.sensed := rfl
@[simp] theorem modReq_tap (s : State) (k : Slot) (f : Request → Request) : (modReq s k f).tap = s.tap := rfl

@[simp] theorem setFn_pending (s : State) (k : Fin 64) (v : Fn) : (setFn s k v).pending = s.pending := rfl
@[simp] theorem setFn_time (s : State) (k : Fin 64) (v : Fn) : (setFn s k v).time = s.time := rfl
@[simp] theorem setFn_tick (s : State) (k : Fin 64) (v : Fn) : (setFn s k v).tick = s.tick := rfl
@[simp] theorem setFn_ports (s : State) (k : Fin 64) (v : Fn) : (setFn s k v).ports = s.ports := rfl
@[simp] theorem setFn_jobs (s : State) (k : Fin 64) (v : Fn) : (setFn s k v).jobs = s.jobs := rfl
@[simp] theorem setFn_req (s : State) (k : Fin 64) (v : Fn) : (setFn s k v).req = s.req := rfl
@[simp] theorem setFn_acct (s : State) (k : Fin 64) (v : Fn) : (setFn s k v).acct = s.acct := rfl
@[simp] theorem setFn_mortise (s : State) (k : Fin 64) (v : Fn) : (setFn s k v).mortise = s.mortise := rfl
@[simp] theorem setFn_text (s : State) (k : Fin 64) (v : Fn) : (setFn s k v).text = s.text := rfl
@[simp] theorem setFn_eng (s : State) (k : Fin 64) (v : Fn) : (setFn s k v).eng = s.eng := rfl
@[simp] theorem setFn_cal (s : State) (k : Fin 64) (v : Fn) : (setFn s k v).cal = s.cal := rfl
@[simp] theorem setFn_stream (s : State) (k : Fin 64) (v : Fn) : (setFn s k v).stream = s.stream := rfl
@[simp] theorem setFn_tune (s : State) (k : Fin 64) (v : Fn) : (setFn s k v).tune = s.tune := rfl
@[simp] theorem setFn_ckpt (s : State) (k : Fin 64) (v : Fn) : (setFn s k v).ckpt = s.ckpt := rfl
@[simp] theorem setFn_err (s : State) (k : Fin 64) (v : Fn) : (setFn s k v).err = s.err := rfl
@[simp] theorem setFn_mgmt (s : State) (k : Fin 64) (v : Fn) : (setFn s k v).mgmt = s.mgmt := rfl
@[simp] theorem setFn_view (s : State) (k : Fin 64) (v : Fn) : (setFn s k v).view = s.view := rfl
@[simp] theorem setFn_pwr (s : State) (k : Fin 64) (v : Fn) : (setFn s k v).pwr = s.pwr := rfl
@[simp] theorem setFn_boot (s : State) (k : Fin 64) (v : Fn) : (setFn s k v).boot = s.boot := rfl
@[simp] theorem setFn_fuse (s : State) (k : Fin 64) (v : Fn) : (setFn s k v).fuse = s.fuse := rfl
@[simp] theorem setFn_sensed (s : State) (k : Fin 64) (v : Fn) : (setFn s k v).sensed = s.sensed := rfl
@[simp] theorem setFn_tap (s : State) (k : Fin 64) (v : Fn) : (setFn s k v).tap = s.tap := rfl

@[simp] theorem modFn_pending (s : State) (k : Fin 64) (g : Fn → Fn) : (modFn s k g).pending = s.pending := rfl
@[simp] theorem modFn_time (s : State) (k : Fin 64) (g : Fn → Fn) : (modFn s k g).time = s.time := rfl
@[simp] theorem modFn_tick (s : State) (k : Fin 64) (g : Fn → Fn) : (modFn s k g).tick = s.tick := rfl
@[simp] theorem modFn_ports (s : State) (k : Fin 64) (g : Fn → Fn) : (modFn s k g).ports = s.ports := rfl
@[simp] theorem modFn_jobs (s : State) (k : Fin 64) (g : Fn → Fn) : (modFn s k g).jobs = s.jobs := rfl
@[simp] theorem modFn_req (s : State) (k : Fin 64) (g : Fn → Fn) : (modFn s k g).req = s.req := rfl
@[simp] theorem modFn_acct (s : State) (k : Fin 64) (g : Fn → Fn) : (modFn s k g).acct = s.acct := rfl
@[simp] theorem modFn_mortise (s : State) (k : Fin 64) (g : Fn → Fn) : (modFn s k g).mortise = s.mortise := rfl
@[simp] theorem modFn_text (s : State) (k : Fin 64) (g : Fn → Fn) : (modFn s k g).text = s.text := rfl
@[simp] theorem modFn_eng (s : State) (k : Fin 64) (g : Fn → Fn) : (modFn s k g).eng = s.eng := rfl
@[simp] theorem modFn_cal (s : State) (k : Fin 64) (g : Fn → Fn) : (modFn s k g).cal = s.cal := rfl
@[simp] theorem modFn_stream (s : State) (k : Fin 64) (g : Fn → Fn) : (modFn s k g).stream = s.stream := rfl
@[simp] theorem modFn_tune (s : State) (k : Fin 64) (g : Fn → Fn) : (modFn s k g).tune = s.tune := rfl
@[simp] theorem modFn_ckpt (s : State) (k : Fin 64) (g : Fn → Fn) : (modFn s k g).ckpt = s.ckpt := rfl
@[simp] theorem modFn_err (s : State) (k : Fin 64) (g : Fn → Fn) : (modFn s k g).err = s.err := rfl
@[simp] theorem modFn_mgmt (s : State) (k : Fin 64) (g : Fn → Fn) : (modFn s k g).mgmt = s.mgmt := rfl
@[simp] theorem modFn_view (s : State) (k : Fin 64) (g : Fn → Fn) : (modFn s k g).view = s.view := rfl
@[simp] theorem modFn_pwr (s : State) (k : Fin 64) (g : Fn → Fn) : (modFn s k g).pwr = s.pwr := rfl
@[simp] theorem modFn_boot (s : State) (k : Fin 64) (g : Fn → Fn) : (modFn s k g).boot = s.boot := rfl
@[simp] theorem modFn_fuse (s : State) (k : Fin 64) (g : Fn → Fn) : (modFn s k g).fuse = s.fuse := rfl
@[simp] theorem modFn_sensed (s : State) (k : Fin 64) (g : Fn → Fn) : (modFn s k g).sensed = s.sensed := rfl
@[simp] theorem modFn_tap (s : State) (k : Fin 64) (g : Fn → Fn) : (modFn s k g).tap = s.tap := rfl

@[simp] theorem fnCount_pending (s : State) (k : Fin 64) (i n : Nat) : (fnCount s k i n).pending = s.pending := rfl
@[simp] theorem fnCount_time (s : State) (k : Fin 64) (i n : Nat) : (fnCount s k i n).time = s.time := rfl
@[simp] theorem fnCount_tick (s : State) (k : Fin 64) (i n : Nat) : (fnCount s k i n).tick = s.tick := rfl
@[simp] theorem fnCount_ports (s : State) (k : Fin 64) (i n : Nat) : (fnCount s k i n).ports = s.ports := rfl
@[simp] theorem fnCount_jobs (s : State) (k : Fin 64) (i n : Nat) : (fnCount s k i n).jobs = s.jobs := rfl
@[simp] theorem fnCount_req (s : State) (k : Fin 64) (i n : Nat) : (fnCount s k i n).req = s.req := rfl
@[simp] theorem fnCount_acct (s : State) (k : Fin 64) (i n : Nat) : (fnCount s k i n).acct = s.acct := rfl
@[simp] theorem fnCount_mortise (s : State) (k : Fin 64) (i n : Nat) : (fnCount s k i n).mortise = s.mortise := rfl
@[simp] theorem fnCount_text (s : State) (k : Fin 64) (i n : Nat) : (fnCount s k i n).text = s.text := rfl
@[simp] theorem fnCount_eng (s : State) (k : Fin 64) (i n : Nat) : (fnCount s k i n).eng = s.eng := rfl
@[simp] theorem fnCount_cal (s : State) (k : Fin 64) (i n : Nat) : (fnCount s k i n).cal = s.cal := rfl
@[simp] theorem fnCount_stream (s : State) (k : Fin 64) (i n : Nat) : (fnCount s k i n).stream = s.stream := rfl
@[simp] theorem fnCount_tune (s : State) (k : Fin 64) (i n : Nat) : (fnCount s k i n).tune = s.tune := rfl
@[simp] theorem fnCount_ckpt (s : State) (k : Fin 64) (i n : Nat) : (fnCount s k i n).ckpt = s.ckpt := rfl
@[simp] theorem fnCount_err (s : State) (k : Fin 64) (i n : Nat) : (fnCount s k i n).err = s.err := rfl
@[simp] theorem fnCount_mgmt (s : State) (k : Fin 64) (i n : Nat) : (fnCount s k i n).mgmt = s.mgmt := rfl
@[simp] theorem fnCount_view (s : State) (k : Fin 64) (i n : Nat) : (fnCount s k i n).view = s.view := rfl
@[simp] theorem fnCount_pwr (s : State) (k : Fin 64) (i n : Nat) : (fnCount s k i n).pwr = s.pwr := rfl
@[simp] theorem fnCount_boot (s : State) (k : Fin 64) (i n : Nat) : (fnCount s k i n).boot = s.boot := rfl
@[simp] theorem fnCount_fuse (s : State) (k : Fin 64) (i n : Nat) : (fnCount s k i n).fuse = s.fuse := rfl
@[simp] theorem fnCount_sensed (s : State) (k : Fin 64) (i n : Nat) : (fnCount s k i n).sensed = s.sensed := rfl
@[simp] theorem fnCount_tap (s : State) (k : Fin 64) (i n : Nat) : (fnCount s k i n).tap = s.tap := rfl

@[simp] theorem setEng_pending (s : State) (e : Nat) (v : Engine) : (setEng s e v).pending = s.pending := rfl
@[simp] theorem setEng_time (s : State) (e : Nat) (v : Engine) : (setEng s e v).time = s.time := rfl
@[simp] theorem setEng_tick (s : State) (e : Nat) (v : Engine) : (setEng s e v).tick = s.tick := rfl
@[simp] theorem setEng_ports (s : State) (e : Nat) (v : Engine) : (setEng s e v).ports = s.ports := rfl
@[simp] theorem setEng_jobs (s : State) (e : Nat) (v : Engine) : (setEng s e v).jobs = s.jobs := rfl
@[simp] theorem setEng_req (s : State) (e : Nat) (v : Engine) : (setEng s e v).req = s.req := rfl
@[simp] theorem setEng_fns (s : State) (e : Nat) (v : Engine) : (setEng s e v).fns = s.fns := rfl
@[simp] theorem setEng_acct (s : State) (e : Nat) (v : Engine) : (setEng s e v).acct = s.acct := rfl
@[simp] theorem setEng_mortise (s : State) (e : Nat) (v : Engine) : (setEng s e v).mortise = s.mortise := rfl
@[simp] theorem setEng_text (s : State) (e : Nat) (v : Engine) : (setEng s e v).text = s.text := rfl
@[simp] theorem setEng_cal (s : State) (e : Nat) (v : Engine) : (setEng s e v).cal = s.cal := rfl
@[simp] theorem setEng_stream (s : State) (e : Nat) (v : Engine) : (setEng s e v).stream = s.stream := rfl
@[simp] theorem setEng_tune (s : State) (e : Nat) (v : Engine) : (setEng s e v).tune = s.tune := rfl
@[simp] theorem setEng_ckpt (s : State) (e : Nat) (v : Engine) : (setEng s e v).ckpt = s.ckpt := rfl
@[simp] theorem setEng_err (s : State) (e : Nat) (v : Engine) : (setEng s e v).err = s.err := rfl
@[simp] theorem setEng_mgmt (s : State) (e : Nat) (v : Engine) : (setEng s e v).mgmt = s.mgmt := rfl
@[simp] theorem setEng_view (s : State) (e : Nat) (v : Engine) : (setEng s e v).view = s.view := rfl
@[simp] theorem setEng_pwr (s : State) (e : Nat) (v : Engine) : (setEng s e v).pwr = s.pwr := rfl
@[simp] theorem setEng_boot (s : State) (e : Nat) (v : Engine) : (setEng s e v).boot = s.boot := rfl
@[simp] theorem setEng_fuse (s : State) (e : Nat) (v : Engine) : (setEng s e v).fuse = s.fuse := rfl
@[simp] theorem setEng_sensed (s : State) (e : Nat) (v : Engine) : (setEng s e v).sensed = s.sensed := rfl
@[simp] theorem setEng_tap (s : State) (e : Nat) (v : Engine) : (setEng s e v).tap = s.tap := rfl

@[simp] theorem modEng_pending (s : State) (e : Nat) (f : Engine → Engine) : (modEng s e f).pending = s.pending := rfl
@[simp] theorem modEng_time (s : State) (e : Nat) (f : Engine → Engine) : (modEng s e f).time = s.time := rfl
@[simp] theorem modEng_tick (s : State) (e : Nat) (f : Engine → Engine) : (modEng s e f).tick = s.tick := rfl
@[simp] theorem modEng_ports (s : State) (e : Nat) (f : Engine → Engine) : (modEng s e f).ports = s.ports := rfl
@[simp] theorem modEng_jobs (s : State) (e : Nat) (f : Engine → Engine) : (modEng s e f).jobs = s.jobs := rfl
@[simp] theorem modEng_req (s : State) (e : Nat) (f : Engine → Engine) : (modEng s e f).req = s.req := rfl
@[simp] theorem modEng_fns (s : State) (e : Nat) (f : Engine → Engine) : (modEng s e f).fns = s.fns := rfl
@[simp] theorem modEng_acct (s : State) (e : Nat) (f : Engine → Engine) : (modEng s e f).acct = s.acct := rfl
@[simp] theorem modEng_mortise (s : State) (e : Nat) (f : Engine → Engine) : (modEng s e f).mortise = s.mortise := rfl
@[simp] theorem modEng_text (s : State) (e : Nat) (f : Engine → Engine) : (modEng s e f).text = s.text := rfl
@[simp] theorem modEng_cal (s : State) (e : Nat) (f : Engine → Engine) : (modEng s e f).cal = s.cal := rfl
@[simp] theorem modEng_stream (s : State) (e : Nat) (f : Engine → Engine) : (modEng s e f).stream = s.stream := rfl
@[simp] theorem modEng_tune (s : State) (e : Nat) (f : Engine → Engine) : (modEng s e f).tune = s.tune := rfl
@[simp] theorem modEng_ckpt (s : State) (e : Nat) (f : Engine → Engine) : (modEng s e f).ckpt = s.ckpt := rfl
@[simp] theorem modEng_err (s : State) (e : Nat) (f : Engine → Engine) : (modEng s e f).err = s.err := rfl
@[simp] theorem modEng_mgmt (s : State) (e : Nat) (f : Engine → Engine) : (modEng s e f).mgmt = s.mgmt := rfl
@[simp] theorem modEng_view (s : State) (e : Nat) (f : Engine → Engine) : (modEng s e f).view = s.view := rfl
@[simp] theorem modEng_pwr (s : State) (e : Nat) (f : Engine → Engine) : (modEng s e f).pwr = s.pwr := rfl
@[simp] theorem modEng_boot (s : State) (e : Nat) (f : Engine → Engine) : (modEng s e f).boot = s.boot := rfl
@[simp] theorem modEng_fuse (s : State) (e : Nat) (f : Engine → Engine) : (modEng s e f).fuse = s.fuse := rfl
@[simp] theorem modEng_sensed (s : State) (e : Nat) (f : Engine → Engine) : (modEng s e f).sensed = s.sensed := rfl
@[simp] theorem modEng_tap (s : State) (e : Nat) (f : Engine → Engine) : (modEng s e f).tap = s.tap := rfl

@[simp] theorem setPlan_pending (s : State) (p : Byte) (v : Plan) : (setPlan s p v).pending = s.pending := rfl
@[simp] theorem setPlan_time (s : State) (p : Byte) (v : Plan) : (setPlan s p v).time = s.time := rfl
@[simp] theorem setPlan_tick (s : State) (p : Byte) (v : Plan) : (setPlan s p v).tick = s.tick := rfl
@[simp] theorem setPlan_ports (s : State) (p : Byte) (v : Plan) : (setPlan s p v).ports = s.ports := rfl
@[simp] theorem setPlan_jobs (s : State) (p : Byte) (v : Plan) : (setPlan s p v).jobs = s.jobs := rfl
@[simp] theorem setPlan_req (s : State) (p : Byte) (v : Plan) : (setPlan s p v).req = s.req := rfl
@[simp] theorem setPlan_fns (s : State) (p : Byte) (v : Plan) : (setPlan s p v).fns = s.fns := rfl
@[simp] theorem setPlan_acct (s : State) (p : Byte) (v : Plan) : (setPlan s p v).acct = s.acct := rfl
@[simp] theorem setPlan_mortise (s : State) (p : Byte) (v : Plan) : (setPlan s p v).mortise = s.mortise := rfl
@[simp] theorem setPlan_text (s : State) (p : Byte) (v : Plan) : (setPlan s p v).text = s.text := rfl
@[simp] theorem setPlan_cal (s : State) (p : Byte) (v : Plan) : (setPlan s p v).cal = s.cal := rfl
@[simp] theorem setPlan_stream (s : State) (p : Byte) (v : Plan) : (setPlan s p v).stream = s.stream := rfl
@[simp] theorem setPlan_tune (s : State) (p : Byte) (v : Plan) : (setPlan s p v).tune = s.tune := rfl
@[simp] theorem setPlan_ckpt (s : State) (p : Byte) (v : Plan) : (setPlan s p v).ckpt = s.ckpt := rfl
@[simp] theorem setPlan_err (s : State) (p : Byte) (v : Plan) : (setPlan s p v).err = s.err := rfl
@[simp] theorem setPlan_mgmt (s : State) (p : Byte) (v : Plan) : (setPlan s p v).mgmt = s.mgmt := rfl
@[simp] theorem setPlan_view (s : State) (p : Byte) (v : Plan) : (setPlan s p v).view = s.view := rfl
@[simp] theorem setPlan_pwr (s : State) (p : Byte) (v : Plan) : (setPlan s p v).pwr = s.pwr := rfl
@[simp] theorem setPlan_boot (s : State) (p : Byte) (v : Plan) : (setPlan s p v).boot = s.boot := rfl
@[simp] theorem setPlan_fuse (s : State) (p : Byte) (v : Plan) : (setPlan s p v).fuse = s.fuse := rfl
@[simp] theorem setPlan_sensed (s : State) (p : Byte) (v : Plan) : (setPlan s p v).sensed = s.sensed := rfl
@[simp] theorem setPlan_tap (s : State) (p : Byte) (v : Plan) : (setPlan s p v).tap = s.tap := rfl

@[simp] theorem setTenant_pending (s : State) (t : BitVec 14) (v : Tenant) : (setTenant s t v).pending = s.pending := rfl
@[simp] theorem setTenant_time (s : State) (t : BitVec 14) (v : Tenant) : (setTenant s t v).time = s.time := rfl
@[simp] theorem setTenant_tick (s : State) (t : BitVec 14) (v : Tenant) : (setTenant s t v).tick = s.tick := rfl
@[simp] theorem setTenant_ports (s : State) (t : BitVec 14) (v : Tenant) : (setTenant s t v).ports = s.ports := rfl
@[simp] theorem setTenant_jobs (s : State) (t : BitVec 14) (v : Tenant) : (setTenant s t v).jobs = s.jobs := rfl
@[simp] theorem setTenant_req (s : State) (t : BitVec 14) (v : Tenant) : (setTenant s t v).req = s.req := rfl
@[simp] theorem setTenant_fns (s : State) (t : BitVec 14) (v : Tenant) : (setTenant s t v).fns = s.fns := rfl
@[simp] theorem setTenant_mortise (s : State) (t : BitVec 14) (v : Tenant) : (setTenant s t v).mortise = s.mortise := rfl
@[simp] theorem setTenant_text (s : State) (t : BitVec 14) (v : Tenant) : (setTenant s t v).text = s.text := rfl
@[simp] theorem setTenant_eng (s : State) (t : BitVec 14) (v : Tenant) : (setTenant s t v).eng = s.eng := rfl
@[simp] theorem setTenant_cal (s : State) (t : BitVec 14) (v : Tenant) : (setTenant s t v).cal = s.cal := rfl
@[simp] theorem setTenant_stream (s : State) (t : BitVec 14) (v : Tenant) : (setTenant s t v).stream = s.stream := rfl
@[simp] theorem setTenant_tune (s : State) (t : BitVec 14) (v : Tenant) : (setTenant s t v).tune = s.tune := rfl
@[simp] theorem setTenant_ckpt (s : State) (t : BitVec 14) (v : Tenant) : (setTenant s t v).ckpt = s.ckpt := rfl
@[simp] theorem setTenant_err (s : State) (t : BitVec 14) (v : Tenant) : (setTenant s t v).err = s.err := rfl
@[simp] theorem setTenant_mgmt (s : State) (t : BitVec 14) (v : Tenant) : (setTenant s t v).mgmt = s.mgmt := rfl
@[simp] theorem setTenant_view (s : State) (t : BitVec 14) (v : Tenant) : (setTenant s t v).view = s.view := rfl
@[simp] theorem setTenant_pwr (s : State) (t : BitVec 14) (v : Tenant) : (setTenant s t v).pwr = s.pwr := rfl
@[simp] theorem setTenant_boot (s : State) (t : BitVec 14) (v : Tenant) : (setTenant s t v).boot = s.boot := rfl
@[simp] theorem setTenant_fuse (s : State) (t : BitVec 14) (v : Tenant) : (setTenant s t v).fuse = s.fuse := rfl
@[simp] theorem setTenant_sensed (s : State) (t : BitVec 14) (v : Tenant) : (setTenant s t v).sensed = s.sensed := rfl
@[simp] theorem setTenant_tap (s : State) (t : BitVec 14) (v : Tenant) : (setTenant s t v).tap = s.tap := rfl

@[simp] theorem setPolicy_pending (s : State) (p : BitVec 12) (v : Policy) : (setPolicy s p v).pending = s.pending := rfl
@[simp] theorem setPolicy_time (s : State) (p : BitVec 12) (v : Policy) : (setPolicy s p v).time = s.time := rfl
@[simp] theorem setPolicy_tick (s : State) (p : BitVec 12) (v : Policy) : (setPolicy s p v).tick = s.tick := rfl
@[simp] theorem setPolicy_ports (s : State) (p : BitVec 12) (v : Policy) : (setPolicy s p v).ports = s.ports := rfl
@[simp] theorem setPolicy_jobs (s : State) (p : BitVec 12) (v : Policy) : (setPolicy s p v).jobs = s.jobs := rfl
@[simp] theorem setPolicy_req (s : State) (p : BitVec 12) (v : Policy) : (setPolicy s p v).req = s.req := rfl
@[simp] theorem setPolicy_fns (s : State) (p : BitVec 12) (v : Policy) : (setPolicy s p v).fns = s.fns := rfl
@[simp] theorem setPolicy_mortise (s : State) (p : BitVec 12) (v : Policy) : (setPolicy s p v).mortise = s.mortise := rfl
@[simp] theorem setPolicy_text (s : State) (p : BitVec 12) (v : Policy) : (setPolicy s p v).text = s.text := rfl
@[simp] theorem setPolicy_eng (s : State) (p : BitVec 12) (v : Policy) : (setPolicy s p v).eng = s.eng := rfl
@[simp] theorem setPolicy_cal (s : State) (p : BitVec 12) (v : Policy) : (setPolicy s p v).cal = s.cal := rfl
@[simp] theorem setPolicy_stream (s : State) (p : BitVec 12) (v : Policy) : (setPolicy s p v).stream = s.stream := rfl
@[simp] theorem setPolicy_tune (s : State) (p : BitVec 12) (v : Policy) : (setPolicy s p v).tune = s.tune := rfl
@[simp] theorem setPolicy_ckpt (s : State) (p : BitVec 12) (v : Policy) : (setPolicy s p v).ckpt = s.ckpt := rfl
@[simp] theorem setPolicy_err (s : State) (p : BitVec 12) (v : Policy) : (setPolicy s p v).err = s.err := rfl
@[simp] theorem setPolicy_mgmt (s : State) (p : BitVec 12) (v : Policy) : (setPolicy s p v).mgmt = s.mgmt := rfl
@[simp] theorem setPolicy_view (s : State) (p : BitVec 12) (v : Policy) : (setPolicy s p v).view = s.view := rfl
@[simp] theorem setPolicy_pwr (s : State) (p : BitVec 12) (v : Policy) : (setPolicy s p v).pwr = s.pwr := rfl
@[simp] theorem setPolicy_boot (s : State) (p : BitVec 12) (v : Policy) : (setPolicy s p v).boot = s.boot := rfl
@[simp] theorem setPolicy_fuse (s : State) (p : BitVec 12) (v : Policy) : (setPolicy s p v).fuse = s.fuse := rfl
@[simp] theorem setPolicy_sensed (s : State) (p : BitVec 12) (v : Policy) : (setPolicy s p v).sensed = s.sensed := rfl
@[simp] theorem setPolicy_tap (s : State) (p : BitVec 12) (v : Policy) : (setPolicy s p v).tap = s.tap := rfl

@[simp] theorem setVocab_pending (s : State) (v : Fin 8) (x : Vocab) : (setVocab s v x).pending = s.pending := rfl
@[simp] theorem setVocab_time (s : State) (v : Fin 8) (x : Vocab) : (setVocab s v x).time = s.time := rfl
@[simp] theorem setVocab_tick (s : State) (v : Fin 8) (x : Vocab) : (setVocab s v x).tick = s.tick := rfl
@[simp] theorem setVocab_ports (s : State) (v : Fin 8) (x : Vocab) : (setVocab s v x).ports = s.ports := rfl
@[simp] theorem setVocab_jobs (s : State) (v : Fin 8) (x : Vocab) : (setVocab s v x).jobs = s.jobs := rfl
@[simp] theorem setVocab_req (s : State) (v : Fin 8) (x : Vocab) : (setVocab s v x).req = s.req := rfl
@[simp] theorem setVocab_fns (s : State) (v : Fin 8) (x : Vocab) : (setVocab s v x).fns = s.fns := rfl
@[simp] theorem setVocab_acct (s : State) (v : Fin 8) (x : Vocab) : (setVocab s v x).acct = s.acct := rfl
@[simp] theorem setVocab_mortise (s : State) (v : Fin 8) (x : Vocab) : (setVocab s v x).mortise = s.mortise := rfl
@[simp] theorem setVocab_eng (s : State) (v : Fin 8) (x : Vocab) : (setVocab s v x).eng = s.eng := rfl
@[simp] theorem setVocab_cal (s : State) (v : Fin 8) (x : Vocab) : (setVocab s v x).cal = s.cal := rfl
@[simp] theorem setVocab_stream (s : State) (v : Fin 8) (x : Vocab) : (setVocab s v x).stream = s.stream := rfl
@[simp] theorem setVocab_tune (s : State) (v : Fin 8) (x : Vocab) : (setVocab s v x).tune = s.tune := rfl
@[simp] theorem setVocab_ckpt (s : State) (v : Fin 8) (x : Vocab) : (setVocab s v x).ckpt = s.ckpt := rfl
@[simp] theorem setVocab_err (s : State) (v : Fin 8) (x : Vocab) : (setVocab s v x).err = s.err := rfl
@[simp] theorem setVocab_mgmt (s : State) (v : Fin 8) (x : Vocab) : (setVocab s v x).mgmt = s.mgmt := rfl
@[simp] theorem setVocab_view (s : State) (v : Fin 8) (x : Vocab) : (setVocab s v x).view = s.view := rfl
@[simp] theorem setVocab_pwr (s : State) (v : Fin 8) (x : Vocab) : (setVocab s v x).pwr = s.pwr := rfl
@[simp] theorem setVocab_boot (s : State) (v : Fin 8) (x : Vocab) : (setVocab s v x).boot = s.boot := rfl
@[simp] theorem setVocab_fuse (s : State) (v : Fin 8) (x : Vocab) : (setVocab s v x).fuse = s.fuse := rfl
@[simp] theorem setVocab_sensed (s : State) (v : Fin 8) (x : Vocab) : (setVocab s v x).sensed = s.sensed := rfl
@[simp] theorem setVocab_tap (s : State) (v : Fin 8) (x : Vocab) : (setVocab s v x).tap = s.tap := rfl

@[simp] theorem setGrammar_pending (s : State) (g : Fin 64) (x : Grammar) : (setGrammar s g x).pending = s.pending := rfl
@[simp] theorem setGrammar_time (s : State) (g : Fin 64) (x : Grammar) : (setGrammar s g x).time = s.time := rfl
@[simp] theorem setGrammar_tick (s : State) (g : Fin 64) (x : Grammar) : (setGrammar s g x).tick = s.tick := rfl
@[simp] theorem setGrammar_ports (s : State) (g : Fin 64) (x : Grammar) : (setGrammar s g x).ports = s.ports := rfl
@[simp] theorem setGrammar_jobs (s : State) (g : Fin 64) (x : Grammar) : (setGrammar s g x).jobs = s.jobs := rfl
@[simp] theorem setGrammar_req (s : State) (g : Fin 64) (x : Grammar) : (setGrammar s g x).req = s.req := rfl
@[simp] theorem setGrammar_fns (s : State) (g : Fin 64) (x : Grammar) : (setGrammar s g x).fns = s.fns := rfl
@[simp] theorem setGrammar_acct (s : State) (g : Fin 64) (x : Grammar) : (setGrammar s g x).acct = s.acct := rfl
@[simp] theorem setGrammar_mortise (s : State) (g : Fin 64) (x : Grammar) : (setGrammar s g x).mortise = s.mortise := rfl
@[simp] theorem setGrammar_eng (s : State) (g : Fin 64) (x : Grammar) : (setGrammar s g x).eng = s.eng := rfl
@[simp] theorem setGrammar_cal (s : State) (g : Fin 64) (x : Grammar) : (setGrammar s g x).cal = s.cal := rfl
@[simp] theorem setGrammar_stream (s : State) (g : Fin 64) (x : Grammar) : (setGrammar s g x).stream = s.stream := rfl
@[simp] theorem setGrammar_tune (s : State) (g : Fin 64) (x : Grammar) : (setGrammar s g x).tune = s.tune := rfl
@[simp] theorem setGrammar_ckpt (s : State) (g : Fin 64) (x : Grammar) : (setGrammar s g x).ckpt = s.ckpt := rfl
@[simp] theorem setGrammar_err (s : State) (g : Fin 64) (x : Grammar) : (setGrammar s g x).err = s.err := rfl
@[simp] theorem setGrammar_mgmt (s : State) (g : Fin 64) (x : Grammar) : (setGrammar s g x).mgmt = s.mgmt := rfl
@[simp] theorem setGrammar_view (s : State) (g : Fin 64) (x : Grammar) : (setGrammar s g x).view = s.view := rfl
@[simp] theorem setGrammar_pwr (s : State) (g : Fin 64) (x : Grammar) : (setGrammar s g x).pwr = s.pwr := rfl
@[simp] theorem setGrammar_boot (s : State) (g : Fin 64) (x : Grammar) : (setGrammar s g x).boot = s.boot := rfl
@[simp] theorem setGrammar_fuse (s : State) (g : Fin 64) (x : Grammar) : (setGrammar s g x).fuse = s.fuse := rfl
@[simp] theorem setGrammar_sensed (s : State) (g : Fin 64) (x : Grammar) : (setGrammar s g x).sensed = s.sensed := rfl
@[simp] theorem setGrammar_tap (s : State) (g : Fin 64) (x : Grammar) : (setGrammar s g x).tap = s.tap := rfl

@[simp] theorem setDset_pending (s : State) (d : BitVec 10) (x : DeltaSet) : (setDset s d x).pending = s.pending := rfl
@[simp] theorem setDset_time (s : State) (d : BitVec 10) (x : DeltaSet) : (setDset s d x).time = s.time := rfl
@[simp] theorem setDset_tick (s : State) (d : BitVec 10) (x : DeltaSet) : (setDset s d x).tick = s.tick := rfl
@[simp] theorem setDset_ports (s : State) (d : BitVec 10) (x : DeltaSet) : (setDset s d x).ports = s.ports := rfl
@[simp] theorem setDset_jobs (s : State) (d : BitVec 10) (x : DeltaSet) : (setDset s d x).jobs = s.jobs := rfl
@[simp] theorem setDset_req (s : State) (d : BitVec 10) (x : DeltaSet) : (setDset s d x).req = s.req := rfl
@[simp] theorem setDset_fns (s : State) (d : BitVec 10) (x : DeltaSet) : (setDset s d x).fns = s.fns := rfl
@[simp] theorem setDset_acct (s : State) (d : BitVec 10) (x : DeltaSet) : (setDset s d x).acct = s.acct := rfl
@[simp] theorem setDset_mortise (s : State) (d : BitVec 10) (x : DeltaSet) : (setDset s d x).mortise = s.mortise := rfl
@[simp] theorem setDset_text (s : State) (d : BitVec 10) (x : DeltaSet) : (setDset s d x).text = s.text := rfl
@[simp] theorem setDset_eng (s : State) (d : BitVec 10) (x : DeltaSet) : (setDset s d x).eng = s.eng := rfl
@[simp] theorem setDset_cal (s : State) (d : BitVec 10) (x : DeltaSet) : (setDset s d x).cal = s.cal := rfl
@[simp] theorem setDset_stream (s : State) (d : BitVec 10) (x : DeltaSet) : (setDset s d x).stream = s.stream := rfl
@[simp] theorem setDset_ckpt (s : State) (d : BitVec 10) (x : DeltaSet) : (setDset s d x).ckpt = s.ckpt := rfl
@[simp] theorem setDset_err (s : State) (d : BitVec 10) (x : DeltaSet) : (setDset s d x).err = s.err := rfl
@[simp] theorem setDset_mgmt (s : State) (d : BitVec 10) (x : DeltaSet) : (setDset s d x).mgmt = s.mgmt := rfl
@[simp] theorem setDset_view (s : State) (d : BitVec 10) (x : DeltaSet) : (setDset s d x).view = s.view := rfl
@[simp] theorem setDset_pwr (s : State) (d : BitVec 10) (x : DeltaSet) : (setDset s d x).pwr = s.pwr := rfl
@[simp] theorem setDset_boot (s : State) (d : BitVec 10) (x : DeltaSet) : (setDset s d x).boot = s.boot := rfl
@[simp] theorem setDset_fuse (s : State) (d : BitVec 10) (x : DeltaSet) : (setDset s d x).fuse = s.fuse := rfl
@[simp] theorem setDset_sensed (s : State) (d : BitVec 10) (x : DeltaSet) : (setDset s d x).sensed = s.sensed := rfl
@[simp] theorem setDset_tap (s : State) (d : BitVec 10) (x : DeltaSet) : (setDset s d x).tap = s.tap := rfl

@[simp] theorem setScreen_pending (s : State) (b : BitVec 10) (x : Screen) : (setScreen s b x).pending = s.pending := rfl
@[simp] theorem setScreen_time (s : State) (b : BitVec 10) (x : Screen) : (setScreen s b x).time = s.time := rfl
@[simp] theorem setScreen_tick (s : State) (b : BitVec 10) (x : Screen) : (setScreen s b x).tick = s.tick := rfl
@[simp] theorem setScreen_ports (s : State) (b : BitVec 10) (x : Screen) : (setScreen s b x).ports = s.ports := rfl
@[simp] theorem setScreen_jobs (s : State) (b : BitVec 10) (x : Screen) : (setScreen s b x).jobs = s.jobs := rfl
@[simp] theorem setScreen_req (s : State) (b : BitVec 10) (x : Screen) : (setScreen s b x).req = s.req := rfl
@[simp] theorem setScreen_fns (s : State) (b : BitVec 10) (x : Screen) : (setScreen s b x).fns = s.fns := rfl
@[simp] theorem setScreen_acct (s : State) (b : BitVec 10) (x : Screen) : (setScreen s b x).acct = s.acct := rfl
@[simp] theorem setScreen_mortise (s : State) (b : BitVec 10) (x : Screen) : (setScreen s b x).mortise = s.mortise := rfl
@[simp] theorem setScreen_text (s : State) (b : BitVec 10) (x : Screen) : (setScreen s b x).text = s.text := rfl
@[simp] theorem setScreen_eng (s : State) (b : BitVec 10) (x : Screen) : (setScreen s b x).eng = s.eng := rfl
@[simp] theorem setScreen_cal (s : State) (b : BitVec 10) (x : Screen) : (setScreen s b x).cal = s.cal := rfl
@[simp] theorem setScreen_stream (s : State) (b : BitVec 10) (x : Screen) : (setScreen s b x).stream = s.stream := rfl
@[simp] theorem setScreen_ckpt (s : State) (b : BitVec 10) (x : Screen) : (setScreen s b x).ckpt = s.ckpt := rfl
@[simp] theorem setScreen_err (s : State) (b : BitVec 10) (x : Screen) : (setScreen s b x).err = s.err := rfl
@[simp] theorem setScreen_mgmt (s : State) (b : BitVec 10) (x : Screen) : (setScreen s b x).mgmt = s.mgmt := rfl
@[simp] theorem setScreen_view (s : State) (b : BitVec 10) (x : Screen) : (setScreen s b x).view = s.view := rfl
@[simp] theorem setScreen_pwr (s : State) (b : BitVec 10) (x : Screen) : (setScreen s b x).pwr = s.pwr := rfl
@[simp] theorem setScreen_boot (s : State) (b : BitVec 10) (x : Screen) : (setScreen s b x).boot = s.boot := rfl
@[simp] theorem setScreen_fuse (s : State) (b : BitVec 10) (x : Screen) : (setScreen s b x).fuse = s.fuse := rfl
@[simp] theorem setScreen_sensed (s : State) (b : BitVec 10) (x : Screen) : (setScreen s b x).sensed = s.sensed := rfl
@[simp] theorem setScreen_tap (s : State) (b : BitVec 10) (x : Screen) : (setScreen s b x).tap = s.tap := rfl

@[simp] theorem markOnce_pending (s : State) (k u t : Nat) : (markOnce s k u t).pending = s.pending := rfl
@[simp] theorem markOnce_time (s : State) (k u t : Nat) : (markOnce s k u t).time = s.time := rfl
@[simp] theorem markOnce_tick (s : State) (k u t : Nat) : (markOnce s k u t).tick = s.tick := rfl
@[simp] theorem markOnce_ports (s : State) (k u t : Nat) : (markOnce s k u t).ports = s.ports := rfl
@[simp] theorem markOnce_jobs (s : State) (k u t : Nat) : (markOnce s k u t).jobs = s.jobs := rfl
@[simp] theorem markOnce_req (s : State) (k u t : Nat) : (markOnce s k u t).req = s.req := rfl
@[simp] theorem markOnce_fns (s : State) (k u t : Nat) : (markOnce s k u t).fns = s.fns := rfl
@[simp] theorem markOnce_acct (s : State) (k u t : Nat) : (markOnce s k u t).acct = s.acct := rfl
@[simp] theorem markOnce_mortise (s : State) (k u t : Nat) : (markOnce s k u t).mortise = s.mortise := rfl
@[simp] theorem markOnce_text (s : State) (k u t : Nat) : (markOnce s k u t).text = s.text := rfl
@[simp] theorem markOnce_eng (s : State) (k u t : Nat) : (markOnce s k u t).eng = s.eng := rfl
@[simp] theorem markOnce_cal (s : State) (k u t : Nat) : (markOnce s k u t).cal = s.cal := rfl
@[simp] theorem markOnce_stream (s : State) (k u t : Nat) : (markOnce s k u t).stream = s.stream := rfl
@[simp] theorem markOnce_tune (s : State) (k u t : Nat) : (markOnce s k u t).tune = s.tune := rfl
@[simp] theorem markOnce_ckpt (s : State) (k u t : Nat) : (markOnce s k u t).ckpt = s.ckpt := rfl
@[simp] theorem markOnce_mgmt (s : State) (k u t : Nat) : (markOnce s k u t).mgmt = s.mgmt := rfl
@[simp] theorem markOnce_view (s : State) (k u t : Nat) : (markOnce s k u t).view = s.view := rfl
@[simp] theorem markOnce_pwr (s : State) (k u t : Nat) : (markOnce s k u t).pwr = s.pwr := rfl
@[simp] theorem markOnce_boot (s : State) (k u t : Nat) : (markOnce s k u t).boot = s.boot := rfl
@[simp] theorem markOnce_fuse (s : State) (k u t : Nat) : (markOnce s k u t).fuse = s.fuse := rfl
@[simp] theorem markOnce_sensed (s : State) (k u t : Nat) : (markOnce s k u t).sensed = s.sensed := rfl
@[simp] theorem markOnce_tap (s : State) (k u t : Nat) : (markOnce s k u t).tap = s.tap := rfl

@[simp] theorem raiseRec_pending (s : State) (e : Raised) : (raiseRec s e).pending = s.pending := rfl
@[simp] theorem raiseRec_time (s : State) (e : Raised) : (raiseRec s e).time = s.time := rfl
@[simp] theorem raiseRec_tick (s : State) (e : Raised) : (raiseRec s e).tick = s.tick := rfl
@[simp] theorem raiseRec_ports (s : State) (e : Raised) : (raiseRec s e).ports = s.ports := rfl
@[simp] theorem raiseRec_jobs (s : State) (e : Raised) : (raiseRec s e).jobs = s.jobs := rfl
@[simp] theorem raiseRec_req (s : State) (e : Raised) : (raiseRec s e).req = s.req := rfl
@[simp] theorem raiseRec_fns (s : State) (e : Raised) : (raiseRec s e).fns = s.fns := rfl
@[simp] theorem raiseRec_acct (s : State) (e : Raised) : (raiseRec s e).acct = s.acct := rfl
@[simp] theorem raiseRec_mortise (s : State) (e : Raised) : (raiseRec s e).mortise = s.mortise := rfl
@[simp] theorem raiseRec_text (s : State) (e : Raised) : (raiseRec s e).text = s.text := rfl
@[simp] theorem raiseRec_eng (s : State) (e : Raised) : (raiseRec s e).eng = s.eng := rfl
@[simp] theorem raiseRec_cal (s : State) (e : Raised) : (raiseRec s e).cal = s.cal := rfl
@[simp] theorem raiseRec_stream (s : State) (e : Raised) : (raiseRec s e).stream = s.stream := rfl
@[simp] theorem raiseRec_tune (s : State) (e : Raised) : (raiseRec s e).tune = s.tune := rfl
@[simp] theorem raiseRec_ckpt (s : State) (e : Raised) : (raiseRec s e).ckpt = s.ckpt := rfl
@[simp] theorem raiseRec_mgmt (s : State) (e : Raised) : (raiseRec s e).mgmt = s.mgmt := rfl
@[simp] theorem raiseRec_view (s : State) (e : Raised) : (raiseRec s e).view = s.view := rfl
@[simp] theorem raiseRec_pwr (s : State) (e : Raised) : (raiseRec s e).pwr = s.pwr := rfl
@[simp] theorem raiseRec_boot (s : State) (e : Raised) : (raiseRec s e).boot = s.boot := rfl
@[simp] theorem raiseRec_fuse (s : State) (e : Raised) : (raiseRec s e).fuse = s.fuse := rfl
@[simp] theorem raiseRec_sensed (s : State) (e : Raised) : (raiseRec s e).sensed = s.sensed := rfl
@[simp] theorem raiseRec_tap (s : State) (e : Raised) : (raiseRec s e).tap = s.tap := rfl

@[simp] theorem raise_pending (s : State) (c : ErrCode) (p : Place) (a b : Nat) : (raise s c p a b).pending = s.pending := rfl
@[simp] theorem raise_time (s : State) (c : ErrCode) (p : Place) (a b : Nat) : (raise s c p a b).time = s.time := rfl
@[simp] theorem raise_tick (s : State) (c : ErrCode) (p : Place) (a b : Nat) : (raise s c p a b).tick = s.tick := rfl
@[simp] theorem raise_ports (s : State) (c : ErrCode) (p : Place) (a b : Nat) : (raise s c p a b).ports = s.ports := rfl
@[simp] theorem raise_jobs (s : State) (c : ErrCode) (p : Place) (a b : Nat) : (raise s c p a b).jobs = s.jobs := rfl
@[simp] theorem raise_req (s : State) (c : ErrCode) (p : Place) (a b : Nat) : (raise s c p a b).req = s.req := rfl
@[simp] theorem raise_fns (s : State) (c : ErrCode) (p : Place) (a b : Nat) : (raise s c p a b).fns = s.fns := rfl
@[simp] theorem raise_acct (s : State) (c : ErrCode) (p : Place) (a b : Nat) : (raise s c p a b).acct = s.acct := rfl
@[simp] theorem raise_mortise (s : State) (c : ErrCode) (p : Place) (a b : Nat) : (raise s c p a b).mortise = s.mortise := rfl
@[simp] theorem raise_text (s : State) (c : ErrCode) (p : Place) (a b : Nat) : (raise s c p a b).text = s.text := rfl
@[simp] theorem raise_eng (s : State) (c : ErrCode) (p : Place) (a b : Nat) : (raise s c p a b).eng = s.eng := rfl
@[simp] theorem raise_cal (s : State) (c : ErrCode) (p : Place) (a b : Nat) : (raise s c p a b).cal = s.cal := rfl
@[simp] theorem raise_stream (s : State) (c : ErrCode) (p : Place) (a b : Nat) : (raise s c p a b).stream = s.stream := rfl
@[simp] theorem raise_tune (s : State) (c : ErrCode) (p : Place) (a b : Nat) : (raise s c p a b).tune = s.tune := rfl
@[simp] theorem raise_ckpt (s : State) (c : ErrCode) (p : Place) (a b : Nat) : (raise s c p a b).ckpt = s.ckpt := rfl
@[simp] theorem raise_mgmt (s : State) (c : ErrCode) (p : Place) (a b : Nat) : (raise s c p a b).mgmt = s.mgmt := rfl
@[simp] theorem raise_view (s : State) (c : ErrCode) (p : Place) (a b : Nat) : (raise s c p a b).view = s.view := rfl
@[simp] theorem raise_pwr (s : State) (c : ErrCode) (p : Place) (a b : Nat) : (raise s c p a b).pwr = s.pwr := rfl
@[simp] theorem raise_boot (s : State) (c : ErrCode) (p : Place) (a b : Nat) : (raise s c p a b).boot = s.boot := rfl
@[simp] theorem raise_fuse (s : State) (c : ErrCode) (p : Place) (a b : Nat) : (raise s c p a b).fuse = s.fuse := rfl
@[simp] theorem raise_sensed (s : State) (c : ErrCode) (p : Place) (a b : Nat) : (raise s c p a b).sensed = s.sensed := rfl
@[simp] theorem raise_tap (s : State) (c : ErrCode) (p : Place) (a b : Nat) : (raise s c p a b).tap = s.tap := rfl

@[simp] theorem sendWrite_pending (s : State) (p : Fin 8) (d : Dest) (a : W64) (x : Payload) (l : Bool) :
    (sendWrite s p d a x l).pending = s.pending := rfl
@[simp] theorem sendWrite_time (s : State) (p : Fin 8) (d : Dest) (a : W64) (x : Payload) (l : Bool) :
    (sendWrite s p d a x l).time = s.time := rfl
@[simp] theorem sendWrite_tick (s : State) (p : Fin 8) (d : Dest) (a : W64) (x : Payload) (l : Bool) :
    (sendWrite s p d a x l).tick = s.tick := rfl
@[simp] theorem sendWrite_jobs (s : State) (p : Fin 8) (d : Dest) (a : W64) (x : Payload) (l : Bool) :
    (sendWrite s p d a x l).jobs = s.jobs := rfl
@[simp] theorem sendWrite_req (s : State) (p : Fin 8) (d : Dest) (a : W64) (x : Payload) (l : Bool) :
    (sendWrite s p d a x l).req = s.req := rfl
@[simp] theorem sendWrite_fns (s : State) (p : Fin 8) (d : Dest) (a : W64) (x : Payload) (l : Bool) :
    (sendWrite s p d a x l).fns = s.fns := rfl
@[simp] theorem sendWrite_acct (s : State) (p : Fin 8) (d : Dest) (a : W64) (x : Payload) (l : Bool) :
    (sendWrite s p d a x l).acct = s.acct := rfl
@[simp] theorem sendWrite_mortise (s : State) (p : Fin 8) (d : Dest) (a : W64) (x : Payload) (l : Bool) :
    (sendWrite s p d a x l).mortise = s.mortise := rfl
@[simp] theorem sendWrite_text (s : State) (p : Fin 8) (d : Dest) (a : W64) (x : Payload) (l : Bool) :
    (sendWrite s p d a x l).text = s.text := rfl
@[simp] theorem sendWrite_eng (s : State) (p : Fin 8) (d : Dest) (a : W64) (x : Payload) (l : Bool) :
    (sendWrite s p d a x l).eng = s.eng := rfl
@[simp] theorem sendWrite_cal (s : State) (p : Fin 8) (d : Dest) (a : W64) (x : Payload) (l : Bool) :
    (sendWrite s p d a x l).cal = s.cal := rfl
@[simp] theorem sendWrite_stream (s : State) (p : Fin 8) (d : Dest) (a : W64) (x : Payload) (l : Bool) :
    (sendWrite s p d a x l).stream = s.stream := rfl
@[simp] theorem sendWrite_tune (s : State) (p : Fin 8) (d : Dest) (a : W64) (x : Payload) (l : Bool) :
    (sendWrite s p d a x l).tune = s.tune := rfl
@[simp] theorem sendWrite_ckpt (s : State) (p : Fin 8) (d : Dest) (a : W64) (x : Payload) (l : Bool) :
    (sendWrite s p d a x l).ckpt = s.ckpt := rfl
@[simp] theorem sendWrite_err (s : State) (p : Fin 8) (d : Dest) (a : W64) (x : Payload) (l : Bool) :
    (sendWrite s p d a x l).err = s.err := rfl
@[simp] theorem sendWrite_mgmt (s : State) (p : Fin 8) (d : Dest) (a : W64) (x : Payload) (l : Bool) :
    (sendWrite s p d a x l).mgmt = s.mgmt := rfl
@[simp] theorem sendWrite_view (s : State) (p : Fin 8) (d : Dest) (a : W64) (x : Payload) (l : Bool) :
    (sendWrite s p d a x l).view = s.view := rfl
@[simp] theorem sendWrite_pwr (s : State) (p : Fin 8) (d : Dest) (a : W64) (x : Payload) (l : Bool) :
    (sendWrite s p d a x l).pwr = s.pwr := rfl
@[simp] theorem sendWrite_boot (s : State) (p : Fin 8) (d : Dest) (a : W64) (x : Payload) (l : Bool) :
    (sendWrite s p d a x l).boot = s.boot := rfl
@[simp] theorem sendWrite_fuse (s : State) (p : Fin 8) (d : Dest) (a : W64) (x : Payload) (l : Bool) :
    (sendWrite s p d a x l).fuse = s.fuse := rfl
@[simp] theorem sendWrite_sensed (s : State) (p : Fin 8) (d : Dest) (a : W64) (x : Payload) (l : Bool) :
    (sendWrite s p d a x l).sensed = s.sensed := rfl
@[simp] theorem sendWrite_tap (s : State) (p : Fin 8) (d : Dest) (a : W64) (x : Payload) (l : Bool) :
    (sendWrite s p d a x l).tap = s.tap := rfl

@[simp] theorem sendRead_pending (s : State) (p : Fin 8) (a : W64) (n : Nat) (x : Purpose) : (sendRead s p a n x).pending = s.pending := rfl
@[simp] theorem sendRead_time (s : State) (p : Fin 8) (a : W64) (n : Nat) (x : Purpose) : (sendRead s p a n x).time = s.time := rfl
@[simp] theorem sendRead_tick (s : State) (p : Fin 8) (a : W64) (n : Nat) (x : Purpose) : (sendRead s p a n x).tick = s.tick := rfl
@[simp] theorem sendRead_jobs (s : State) (p : Fin 8) (a : W64) (n : Nat) (x : Purpose) : (sendRead s p a n x).jobs = s.jobs := rfl
@[simp] theorem sendRead_req (s : State) (p : Fin 8) (a : W64) (n : Nat) (x : Purpose) : (sendRead s p a n x).req = s.req := rfl
@[simp] theorem sendRead_fns (s : State) (p : Fin 8) (a : W64) (n : Nat) (x : Purpose) : (sendRead s p a n x).fns = s.fns := rfl
@[simp] theorem sendRead_acct (s : State) (p : Fin 8) (a : W64) (n : Nat) (x : Purpose) : (sendRead s p a n x).acct = s.acct := rfl
@[simp] theorem sendRead_mortise (s : State) (p : Fin 8) (a : W64) (n : Nat) (x : Purpose) : (sendRead s p a n x).mortise = s.mortise := rfl
@[simp] theorem sendRead_text (s : State) (p : Fin 8) (a : W64) (n : Nat) (x : Purpose) : (sendRead s p a n x).text = s.text := rfl
@[simp] theorem sendRead_eng (s : State) (p : Fin 8) (a : W64) (n : Nat) (x : Purpose) : (sendRead s p a n x).eng = s.eng := rfl
@[simp] theorem sendRead_cal (s : State) (p : Fin 8) (a : W64) (n : Nat) (x : Purpose) : (sendRead s p a n x).cal = s.cal := rfl
@[simp] theorem sendRead_stream (s : State) (p : Fin 8) (a : W64) (n : Nat) (x : Purpose) : (sendRead s p a n x).stream = s.stream := rfl
@[simp] theorem sendRead_tune (s : State) (p : Fin 8) (a : W64) (n : Nat) (x : Purpose) : (sendRead s p a n x).tune = s.tune := rfl
@[simp] theorem sendRead_ckpt (s : State) (p : Fin 8) (a : W64) (n : Nat) (x : Purpose) : (sendRead s p a n x).ckpt = s.ckpt := rfl
@[simp] theorem sendRead_err (s : State) (p : Fin 8) (a : W64) (n : Nat) (x : Purpose) : (sendRead s p a n x).err = s.err := rfl
@[simp] theorem sendRead_mgmt (s : State) (p : Fin 8) (a : W64) (n : Nat) (x : Purpose) : (sendRead s p a n x).mgmt = s.mgmt := rfl
@[simp] theorem sendRead_view (s : State) (p : Fin 8) (a : W64) (n : Nat) (x : Purpose) : (sendRead s p a n x).view = s.view := rfl
@[simp] theorem sendRead_pwr (s : State) (p : Fin 8) (a : W64) (n : Nat) (x : Purpose) : (sendRead s p a n x).pwr = s.pwr := rfl
@[simp] theorem sendRead_boot (s : State) (p : Fin 8) (a : W64) (n : Nat) (x : Purpose) : (sendRead s p a n x).boot = s.boot := rfl
@[simp] theorem sendRead_fuse (s : State) (p : Fin 8) (a : W64) (n : Nat) (x : Purpose) : (sendRead s p a n x).fuse = s.fuse := rfl
@[simp] theorem sendRead_sensed (s : State) (p : Fin 8) (a : W64) (n : Nat) (x : Purpose) : (sendRead s p a n x).sensed = s.sensed := rfl
@[simp] theorem sendRead_tap (s : State) (p : Fin 8) (a : W64) (n : Nat) (x : Purpose) : (sendRead s p a n x).tap = s.tap := rfl

@[simp] theorem startJob_pending (s : State) (k : JobKey) (p : Fin 8) (a : W64) (n : Nat) : (startJob s k p a n).pending = s.pending := rfl
@[simp] theorem startJob_time (s : State) (k : JobKey) (p : Fin 8) (a : W64) (n : Nat) : (startJob s k p a n).time = s.time := rfl
@[simp] theorem startJob_tick (s : State) (k : JobKey) (p : Fin 8) (a : W64) (n : Nat) : (startJob s k p a n).tick = s.tick := rfl
@[simp] theorem startJob_req (s : State) (k : JobKey) (p : Fin 8) (a : W64) (n : Nat) : (startJob s k p a n).req = s.req := rfl
@[simp] theorem startJob_fns (s : State) (k : JobKey) (p : Fin 8) (a : W64) (n : Nat) : (startJob s k p a n).fns = s.fns := rfl
@[simp] theorem startJob_acct (s : State) (k : JobKey) (p : Fin 8) (a : W64) (n : Nat) : (startJob s k p a n).acct = s.acct := rfl
@[simp] theorem startJob_mortise (s : State) (k : JobKey) (p : Fin 8) (a : W64) (n : Nat) : (startJob s k p a n).mortise = s.mortise := rfl
@[simp] theorem startJob_text (s : State) (k : JobKey) (p : Fin 8) (a : W64) (n : Nat) : (startJob s k p a n).text = s.text := rfl
@[simp] theorem startJob_eng (s : State) (k : JobKey) (p : Fin 8) (a : W64) (n : Nat) : (startJob s k p a n).eng = s.eng := rfl
@[simp] theorem startJob_cal (s : State) (k : JobKey) (p : Fin 8) (a : W64) (n : Nat) : (startJob s k p a n).cal = s.cal := rfl
@[simp] theorem startJob_stream (s : State) (k : JobKey) (p : Fin 8) (a : W64) (n : Nat) : (startJob s k p a n).stream = s.stream := rfl
@[simp] theorem startJob_tune (s : State) (k : JobKey) (p : Fin 8) (a : W64) (n : Nat) : (startJob s k p a n).tune = s.tune := rfl
@[simp] theorem startJob_ckpt (s : State) (k : JobKey) (p : Fin 8) (a : W64) (n : Nat) : (startJob s k p a n).ckpt = s.ckpt := rfl
@[simp] theorem startJob_err (s : State) (k : JobKey) (p : Fin 8) (a : W64) (n : Nat) : (startJob s k p a n).err = s.err := rfl
@[simp] theorem startJob_mgmt (s : State) (k : JobKey) (p : Fin 8) (a : W64) (n : Nat) : (startJob s k p a n).mgmt = s.mgmt := rfl
@[simp] theorem startJob_view (s : State) (k : JobKey) (p : Fin 8) (a : W64) (n : Nat) : (startJob s k p a n).view = s.view := rfl
@[simp] theorem startJob_pwr (s : State) (k : JobKey) (p : Fin 8) (a : W64) (n : Nat) : (startJob s k p a n).pwr = s.pwr := rfl
@[simp] theorem startJob_boot (s : State) (k : JobKey) (p : Fin 8) (a : W64) (n : Nat) : (startJob s k p a n).boot = s.boot := rfl
@[simp] theorem startJob_fuse (s : State) (k : JobKey) (p : Fin 8) (a : W64) (n : Nat) : (startJob s k p a n).fuse = s.fuse := rfl
@[simp] theorem startJob_sensed (s : State) (k : JobKey) (p : Fin 8) (a : W64) (n : Nat) : (startJob s k p a n).sensed = s.sensed := rfl
@[simp] theorem startJob_tap (s : State) (k : JobKey) (p : Fin 8) (a : W64) (n : Nat) : (startJob s k p a n).tap = s.tap := rfl

@[simp] theorem dropJob_pending (s : State) (k : JobKey) : (dropJob s k).pending = s.pending := rfl
@[simp] theorem dropJob_time (s : State) (k : JobKey) : (dropJob s k).time = s.time := rfl
@[simp] theorem dropJob_tick (s : State) (k : JobKey) : (dropJob s k).tick = s.tick := rfl
@[simp] theorem dropJob_ports (s : State) (k : JobKey) : (dropJob s k).ports = s.ports := rfl
@[simp] theorem dropJob_req (s : State) (k : JobKey) : (dropJob s k).req = s.req := rfl
@[simp] theorem dropJob_fns (s : State) (k : JobKey) : (dropJob s k).fns = s.fns := rfl
@[simp] theorem dropJob_acct (s : State) (k : JobKey) : (dropJob s k).acct = s.acct := rfl
@[simp] theorem dropJob_mortise (s : State) (k : JobKey) : (dropJob s k).mortise = s.mortise := rfl
@[simp] theorem dropJob_text (s : State) (k : JobKey) : (dropJob s k).text = s.text := rfl
@[simp] theorem dropJob_eng (s : State) (k : JobKey) : (dropJob s k).eng = s.eng := rfl
@[simp] theorem dropJob_cal (s : State) (k : JobKey) : (dropJob s k).cal = s.cal := rfl
@[simp] theorem dropJob_stream (s : State) (k : JobKey) : (dropJob s k).stream = s.stream := rfl
@[simp] theorem dropJob_tune (s : State) (k : JobKey) : (dropJob s k).tune = s.tune := rfl
@[simp] theorem dropJob_ckpt (s : State) (k : JobKey) : (dropJob s k).ckpt = s.ckpt := rfl
@[simp] theorem dropJob_err (s : State) (k : JobKey) : (dropJob s k).err = s.err := rfl
@[simp] theorem dropJob_mgmt (s : State) (k : JobKey) : (dropJob s k).mgmt = s.mgmt := rfl
@[simp] theorem dropJob_view (s : State) (k : JobKey) : (dropJob s k).view = s.view := rfl
@[simp] theorem dropJob_pwr (s : State) (k : JobKey) : (dropJob s k).pwr = s.pwr := rfl
@[simp] theorem dropJob_boot (s : State) (k : JobKey) : (dropJob s k).boot = s.boot := rfl
@[simp] theorem dropJob_fuse (s : State) (k : JobKey) : (dropJob s k).fuse = s.fuse := rfl
@[simp] theorem dropJob_sensed (s : State) (k : JobKey) : (dropJob s k).sensed = s.sensed := rfl
@[simp] theorem dropJob_tap (s : State) (k : JobKey) : (dropJob s k).tap = s.tap := rfl

@[simp] theorem setBoot_pending (s : State) (b : Boot) : (setBoot s b).pending = s.pending := rfl
@[simp] theorem setBoot_time (s : State) (b : Boot) : (setBoot s b).time = s.time := rfl
@[simp] theorem setBoot_tick (s : State) (b : Boot) : (setBoot s b).tick = s.tick := rfl
@[simp] theorem setBoot_ports (s : State) (b : Boot) : (setBoot s b).ports = s.ports := rfl
@[simp] theorem setBoot_jobs (s : State) (b : Boot) : (setBoot s b).jobs = s.jobs := rfl
@[simp] theorem setBoot_req (s : State) (b : Boot) : (setBoot s b).req = s.req := rfl
@[simp] theorem setBoot_fns (s : State) (b : Boot) : (setBoot s b).fns = s.fns := rfl
@[simp] theorem setBoot_acct (s : State) (b : Boot) : (setBoot s b).acct = s.acct := rfl
@[simp] theorem setBoot_mortise (s : State) (b : Boot) : (setBoot s b).mortise = s.mortise := rfl
@[simp] theorem setBoot_text (s : State) (b : Boot) : (setBoot s b).text = s.text := rfl
@[simp] theorem setBoot_eng (s : State) (b : Boot) : (setBoot s b).eng = s.eng := rfl
@[simp] theorem setBoot_cal (s : State) (b : Boot) : (setBoot s b).cal = s.cal := rfl
@[simp] theorem setBoot_stream (s : State) (b : Boot) : (setBoot s b).stream = s.stream := rfl
@[simp] theorem setBoot_tune (s : State) (b : Boot) : (setBoot s b).tune = s.tune := rfl
@[simp] theorem setBoot_ckpt (s : State) (b : Boot) : (setBoot s b).ckpt = s.ckpt := rfl
@[simp] theorem setBoot_err (s : State) (b : Boot) : (setBoot s b).err = s.err := rfl
@[simp] theorem setBoot_mgmt (s : State) (b : Boot) : (setBoot s b).mgmt = s.mgmt := rfl
@[simp] theorem setBoot_view (s : State) (b : Boot) : (setBoot s b).view = s.view := rfl
@[simp] theorem setBoot_pwr (s : State) (b : Boot) : (setBoot s b).pwr = s.pwr := rfl
@[simp] theorem setBoot_fuse (s : State) (b : Boot) : (setBoot s b).fuse = s.fuse := rfl
@[simp] theorem setBoot_sensed (s : State) (b : Boot) : (setBoot s b).sensed = s.sensed := rfl
@[simp] theorem setBoot_tap (s : State) (b : Boot) : (setBoot s b).tap = s.tap := rfl

@[simp] theorem noteWrite_pending (s : State) (p : Path) (i : W16) : (noteWrite s p i).pending = s.pending := rfl
@[simp] theorem noteWrite_time (s : State) (p : Path) (i : W16) : (noteWrite s p i).time = s.time := rfl
@[simp] theorem noteWrite_tick (s : State) (p : Path) (i : W16) : (noteWrite s p i).tick = s.tick := rfl
@[simp] theorem noteWrite_ports (s : State) (p : Path) (i : W16) : (noteWrite s p i).ports = s.ports := rfl
@[simp] theorem noteWrite_jobs (s : State) (p : Path) (i : W16) : (noteWrite s p i).jobs = s.jobs := rfl
@[simp] theorem noteWrite_req (s : State) (p : Path) (i : W16) : (noteWrite s p i).req = s.req := rfl
@[simp] theorem noteWrite_fns (s : State) (p : Path) (i : W16) : (noteWrite s p i).fns = s.fns := rfl
@[simp] theorem noteWrite_acct (s : State) (p : Path) (i : W16) : (noteWrite s p i).acct = s.acct := rfl
@[simp] theorem noteWrite_mortise (s : State) (p : Path) (i : W16) : (noteWrite s p i).mortise = s.mortise := rfl
@[simp] theorem noteWrite_text (s : State) (p : Path) (i : W16) : (noteWrite s p i).text = s.text := rfl
@[simp] theorem noteWrite_eng (s : State) (p : Path) (i : W16) : (noteWrite s p i).eng = s.eng := rfl
@[simp] theorem noteWrite_cal (s : State) (p : Path) (i : W16) : (noteWrite s p i).cal = s.cal := rfl
@[simp] theorem noteWrite_stream (s : State) (p : Path) (i : W16) : (noteWrite s p i).stream = s.stream := rfl
@[simp] theorem noteWrite_tune (s : State) (p : Path) (i : W16) : (noteWrite s p i).tune = s.tune := rfl
@[simp] theorem noteWrite_ckpt (s : State) (p : Path) (i : W16) : (noteWrite s p i).ckpt = s.ckpt := rfl
@[simp] theorem noteWrite_err (s : State) (p : Path) (i : W16) : (noteWrite s p i).err = s.err := rfl
@[simp] theorem noteWrite_view (s : State) (p : Path) (i : W16) : (noteWrite s p i).view = s.view := rfl
@[simp] theorem noteWrite_pwr (s : State) (p : Path) (i : W16) : (noteWrite s p i).pwr = s.pwr := rfl
@[simp] theorem noteWrite_boot (s : State) (p : Path) (i : W16) : (noteWrite s p i).boot = s.boot := rfl
@[simp] theorem noteWrite_fuse (s : State) (p : Path) (i : W16) : (noteWrite s p i).fuse = s.fuse := rfl
@[simp] theorem noteWrite_sensed (s : State) (p : Path) (i : W16) : (noteWrite s p i).sensed = s.sensed := rfl
@[simp] theorem noteWrite_tap (s : State) (p : Path) (i : W16) : (noteWrite s p i).tap = s.tap := rfl

end Sys2Proof.Machine
end

