-- ==== Sys2Proof/Laws/Arrive.lean ====
section
/-! SUPPORT. What a clean descriptor meets: its stamp stage and the way to its request's processing stage
(03 R55 to R62, R70, R116). -/
namespace Sys2Proof.Machine
open Sys2Proof

/-- The stamp stage of a clean descriptor. -/
theorem stampStage_clean {s : State} {d : Desc} {type : Nat} (h1 : 1 ≤ type) (h2 : type ≤ 10) (h : Clean s d type) :
    stampStage s d type = (arrived s d, some
      { desc := d, type := BitVec.ofNat 8 type, stamp := s.time.now, tick := tickOf s, gt := s.time.gtAccepted
        reported := false, tickBad := false }) := by
  obtain ⟨a1, a2, a3, a4, a5, a6, a7, a8⟩ := h
  have up : nodeUp s = true := by unfold operational at a1; unfold nodeUp; revert a1; cases coreRuns s <;> cases s.mgmt.nmt <;> simp
  have op : s.mgmt.nmt = .operational := by unfold operational at a1; simp at a1; exact a1.2
  have c : countDesc s d.port type = modPort s d.port fun v => { v with descs := v.descs + 1 } := by
    unfold countDesc; exact if_pos (a3.symm)
  have w : (true && type != 10 && decide (6 ≤ d.port.val)) = false := by
    rcases a3 with a3 | a3
    · simp [a3]
    · simp; omega
  unfold stampStage
  rw [if_neg (by simp [up, a2])]
  simp only [c, a4, a5, a8, decide_eq_true (And.intro h1 h2), w, takeSeq, ← a6]
  simp only [if_true, Option.isSome_none, not_true, Bool.false_eq_true, if_false, false_and, or_self, lastRows]
  rw [if_neg (by rintro ⟨-, x⟩; exact x op), if_neg ?_]
  · rfl
  · rintro ⟨x, y⟩
    refine y (a7 ?_)
    have : (BitVec.ofNat 8 type).toNat = type := by simp; omega
    exact this ▸ x

/-- A clean descriptor of a request goes to its request. -/
theorem receive_clean {s : State} {d : Desc} {kind : DKind} (before : State → Slot → State) (errs : List DetErr)
    (h : Clean s d (typeOf kind).toNat) :
    receive s d kind before errs = done (route (before (arrived s d) (handleSlot d.handle)) (handleSlot d.handle)
      (itemOf s d kind errs)) := by
  unfold receive
  rw [stampStage_clean (by cases kind <;> decide) (by cases kind <;> decide) h]
  rfl

/-- The way to the processing stage of a descriptor that is processed at once. -/
theorem route_direct {s : State} {d : Desc} {kind : DKind} (errs : List DetErr) (h : Direct s d kind) :
    route (arrived s d) (handleSlot d.handle) (itemOf s d kind errs)
      = act (arrived s d) (handleSlot d.handle) (itemOf s d kind errs) := by
  obtain ⟨-, h1, h2, h3, h4, h5⟩ := h
  have e : reqOf (arrived s d) (handleSlot d.handle) = reqOf s (handleSlot d.handle) := rfl
  have k : mustQueue (arrived s d) (handleSlot d.handle) (itemOf s d kind errs).kind = false := h4
  have j : judge (reqOf s (handleSlot d.handle)) (itemOf s d kind errs) = none := h5
  unfold route
  simp only [e, h1, h2, h3, k, if_false, Bool.false_eq_true, false_and]
  unfold processItem
  rw [e, j]
  rfl

/-- A descriptor that is processed at once acts. -/
theorem receive_direct {s : State} {d : Desc} {kind : DKind} (h : Direct s d kind) :
    receive s d kind = done (act (arrived s d) (handleSlot d.handle) (itemOf s d kind)) := by
  rw [receive_clean _ _ h.1]; exact congrArg done (route_direct [] h)

/-- A served write is judged in the state that has counted and noted it (15 R460 to R466). -/
theorem mgmtWrite_served {s : State} {path : Path} {index : W16} {sub : Byte} (act : State → WriteRes)
    (h : Served s path index sub) :
    mgmtWrite s path index sub act = done (finishWrite path index sub (act (heard s path index))) := by
  obtain ⟨h1, h2, h3⟩ := h
  have e : sessionOf (noteWrite (countRequest s path) path index) path = none := by cases path <;> exact h2
  have n : (noteWrite (countRequest s path) path index).mgmt.nmt = s.mgmt.nmt := by cases path <;> rfl
  unfold mgmtWrite
  simp only [h1, e, n, not_true, if_false, Option.isSome_none, Bool.false_eq_true]
  rw [if_neg (by rintro ⟨a, b⟩; rcases h3 with h3 | h3
                 · exact h3 a
                 · exact b h3)]
  rfl

/-! ## The state in which a served write takes effect differs from the one before in management only -/

@[simp] theorem heard_pending (s : State) (p : Path) (i : W16) : (heard s p i).pending = s.pending := by cases p <;> rfl
@[simp] theorem heard_time (s : State) (p : Path) (i : W16) : (heard s p i).time = s.time := by cases p <;> rfl
@[simp] theorem heard_tick (s : State) (p : Path) (i : W16) : (heard s p i).tick = s.tick := by cases p <;> rfl
@[simp] theorem heard_ports (s : State) (p : Path) (i : W16) : (heard s p i).ports = s.ports := by cases p <;> rfl
@[simp] theorem heard_jobs (s : State) (p : Path) (i : W16) : (heard s p i).jobs = s.jobs := by cases p <;> rfl
@[simp] theorem heard_req (s : State) (p : Path) (i : W16) : (heard s p i).req = s.req := by cases p <;> rfl
@[simp] theorem heard_fns (s : State) (p : Path) (i : W16) : (heard s p i).fns = s.fns := by cases p <;> rfl
@[simp] theorem heard_acct (s : State) (p : Path) (i : W16) : (heard s p i).acct = s.acct := by cases p <;> rfl
@[simp] theorem heard_mortise (s : State) (p : Path) (i : W16) : (heard s p i).mortise = s.mortise := by cases p <;> rfl
@[simp] theorem heard_text (s : State) (p : Path) (i : W16) : (heard s p i).text = s.text := by cases p <;> rfl
@[simp] theorem heard_eng (s : State) (p : Path) (i : W16) : (heard s p i).eng = s.eng := by cases p <;> rfl
@[simp] theorem heard_cal (s : State) (p : Path) (i : W16) : (heard s p i).cal = s.cal := by cases p <;> rfl
@[simp] theorem heard_stream (s : State) (p : Path) (i : W16) : (heard s p i).stream = s.stream := by cases p <;> rfl
@[simp] theorem heard_tune (s : State) (p : Path) (i : W16) : (heard s p i).tune = s.tune := by cases p <;> rfl
@[simp] theorem heard_ckpt (s : State) (p : Path) (i : W16) : (heard s p i).ckpt = s.ckpt := by cases p <;> rfl
@[simp] theorem heard_err (s : State) (p : Path) (i : W16) : (heard s p i).err = s.err := by cases p <;> rfl
@[simp] theorem heard_view (s : State) (p : Path) (i : W16) : (heard s p i).view = s.view := by cases p <;> rfl
@[simp] theorem heard_pwr (s : State) (p : Path) (i : W16) : (heard s p i).pwr = s.pwr := by cases p <;> rfl
@[simp] theorem heard_boot (s : State) (p : Path) (i : W16) : (heard s p i).boot = s.boot := by cases p <;> rfl
@[simp] theorem heard_fuse (s : State) (p : Path) (i : W16) : (heard s p i).fuse = s.fuse := by cases p <;> rfl
@[simp] theorem heard_sensed (s : State) (p : Path) (i : W16) : (heard s p i).sensed = s.sensed := by cases p <;> rfl
@[simp] theorem heard_tap (s : State) (p : Path) (i : W16) : (heard s p i).tap = s.tap := by cases p <;> rfl
@[simp] theorem heard_nmt (s : State) (p : Path) (i : W16) : (heard s p i).mgmt.nmt = s.mgmt.nmt := by cases p <;> rfl
@[simp] theorem planOf_heard (s : State) (p : Path) (i : W16) (x) : planOf (heard s p i) x = planOf s x := by
  cases p <;> rfl
@[simp] theorem vocabOf_heard (s : State) (p : Path) (i : W16) (x) : vocabOf (heard s p i) x = vocabOf s x := by
  cases p <;> rfl
@[simp] theorem grammarOf_heard (s : State) (p : Path) (i : W16) (x) : grammarOf (heard s p i) x = grammarOf s x := by
  cases p <;> rfl
@[simp] theorem dsetOf_heard (s : State) (p : Path) (i : W16) (x) : dsetOf (heard s p i) x = dsetOf s x := by
  cases p <;> rfl
@[simp] theorem screenOf_heard (s : State) (p : Path) (i : W16) (x) : screenOf (heard s p i) x = screenOf s x := by
  cases p <;> rfl
@[simp] theorem reqOf_heard (s : State) (p : Path) (i : W16) (x) : reqOf (heard s p i) x = reqOf s x := by
  cases p <;> rfl
@[simp] theorem fnOf_heard (s : State) (p : Path) (i : W16) (x) : fnOf (heard s p i) x = fnOf s x := by
  cases p <;> rfl
@[simp] theorem engOf_heard (s : State) (p : Path) (i : W16) (x) : engOf (heard s p i) x = engOf s x := by
  cases p <;> rfl
@[simp] theorem tenantOf_heard (s : State) (p : Path) (i : W16) (x) : tenantOf (heard s p i) x = tenantOf s x := by
  cases p <;> rfl
@[simp] theorem policyOf_heard (s : State) (p : Path) (i : W16) (x) : policyOf (heard s p i) x = policyOf s x := by
  cases p <;> rfl
@[simp] theorem portOf_heard (s : State) (p : Path) (i : W16) (x) : portOf (heard s p i) x = portOf s x := by
  cases p <;> rfl
@[simp] theorem weightPort_heard (s : State) (p : Path) (i : W16) : weightPort (heard s p i) = weightPort s := by
  cases p <;> rfl
@[simp] theorem selectedPlan_heard (s : State) (p : Path) (i : W16) : selectedPlan (heard s p i) = selectedPlan s := by
  cases p <;> rfl
@[simp] theorem selectedSet_heard (s : State) (p : Path) (i : W16) : selectedSet (heard s p i) = selectedSet s := by
  cases p <;> rfl
@[simp] theorem selectedScreen_heard (s : State) (p : Path) (i : W16) : selectedScreen (heard s p i) = selectedScreen s := by
  cases p <;> rfl
@[simp] theorem selectedTenant_heard (s : State) (p : Path) (i : W16) : selectedTenant (heard s p i) = selectedTenant s := by
  cases p <;> rfl

/-- A served write that its object takes. -/
theorem mgmtWrite_ok {s t : State} {path : Path} {index : W16} {sub : Byte} {act : State → WriteRes}
    (h : Served s path index sub) (e : act (heard s path index) = .ok t) :
    mgmtWrite s path index sub act = .next (settle (respond t path 0 [])) := by
  rw [mgmtWrite_served _ h, e]; rfl

/-- A served write that its object refuses. -/
theorem mgmtWrite_abort {s t : State} {path : Path} {index : W16} {sub : Byte} {act : State → WriteRes} {code : W32}
    {reason : W16} (h : Served s path index sub) (e : act (heard s path index) = .abort code reason t) :
    mgmtWrite s path index sub act = .next (settle (abortReq t path code reason index sub)) := by
  rw [mgmtWrite_served _ h, e]; rfl

end Sys2Proof.Machine
end

