-- ==== Sys2Proof/Laws/KeptShared.lean ====
section
/-! SUPPORT. What an ordinary command never touches (`State.kept`) stays the same through every operation of
the shared operations, the management paths, power, bring-up and the TAP: one lemma per operation. -/
namespace Sys2Proof.Machine
open Sys2Proof

/-! ## Ops -/

@[simp] theorem setPort_kept (s : State) (p : Fin 8) (v : Port) :
    (setPort s p v).kept = s.kept := by
  rfl

@[simp] theorem modPort_kept (s : State) (p : Fin 8) (f : Port → Port) :
    (modPort s p f).kept = s.kept := by
  rfl

@[simp] theorem setReq_kept (s : State) (slot : Slot) (r : Request) :
    (setReq s slot r).kept = s.kept := by
  rfl

@[simp] theorem modReq_kept (s : State) (slot : Slot) (f : Request → Request) :
    (modReq s slot f).kept = s.kept := by
  rfl

@[simp] theorem setFn_kept (s : State) (f : Fin 64) (v : Fn) :
    (setFn s f v).kept = s.kept := by
  rfl

@[simp] theorem modFn_kept (s : State) (f : Fin 64) (g : Fn → Fn) :
    (modFn s f g).kept = s.kept := by
  rfl

@[simp] theorem fnCount_kept (s : State) (f : Fin 64) (k n : Nat) :
    (fnCount s f k n).kept = s.kept := by
  rfl

@[simp] theorem setEng_kept (s : State) (e : Nat) (v : Engine) :
    (setEng s e v).kept = s.kept := by
  rfl

@[simp] theorem modEng_kept (s : State) (e : Nat) (f : Engine → Engine) :
    (modEng s e f).kept = s.kept := by
  rfl

@[simp] theorem setPlan_kept (s : State) (p : Byte) (v : Plan) :
    (setPlan s p v).kept = s.kept := by
  rfl

@[simp] theorem setTenant_kept (s : State) (t : BitVec 14) (v : Tenant) :
    (setTenant s t v).kept = s.kept := by
  rfl

@[simp] theorem setPolicy_kept (s : State) (p : BitVec 12) (v : Policy) :
    (setPolicy s p v).kept = s.kept := by
  rfl

@[simp] theorem setVocab_kept (s : State) (v : Fin 8) (x : Vocab) :
    (setVocab s v x).kept = s.kept := by
  rfl

@[simp] theorem setGrammar_kept (s : State) (g : Fin 64) (x : Grammar) :
    (setGrammar s g x).kept = s.kept := by
  rfl

@[simp] theorem setDset_kept (s : State) (d : BitVec 10) (x : DeltaSet) :
    (setDset s d x).kept = s.kept := by
  rfl

@[simp] theorem setScreen_kept (s : State) (b : BitVec 10) (x : Screen) :
    (setScreen s b x).kept = s.kept := by
  rfl

@[simp] theorem takeBit_kept (s : State) :
    (takeBit s).2.kept = s.kept := by
  rfl

@[simp] theorem takeWord_kept (s : State) (place : Nat) :
    (takeWord s place).2.kept = s.kept := by
  rfl

@[simp] theorem markOnce_kept (s : State) (kind unit tick : Nat) :
    (markOnce s kind unit tick).kept = s.kept := by
  rfl

@[simp] theorem pumpAfter_kept (s : State) (p : Fin 8) (f : Port → Port) :
    (pumpAfter s p f).kept = s.kept := by
  rfl

@[simp] theorem pumpAt_kept (s : State) (p : Fin 8) :
    (pumpAt s p).kept = s.kept := by
  rfl

@[simp] theorem sendWrite_kept (s : State) (p : Fin 8) (dest : Dest) (addr : W64) (data : Payload) (lat : Bool) :
    (sendWrite s p dest addr data lat).kept = s.kept := by
  rfl

@[simp] theorem sendBytes_kept (s : State) (p : Fin 8) (dest : Dest) (addr : W64) (bs : List Byte) :
    (sendBytes s p dest addr bs).kept = s.kept := by
  unfold sendBytes; exact foldl_kept _ (fun _ _ => by simp) _ _

@[simp] theorem sendRead_kept (s : State) (p : Fin 8) (addr : W64) (len : Nat) (purpose : Purpose) :
    (sendRead s p addr len purpose).kept = s.kept := by
  rfl

@[simp] theorem startJob_kept (s : State) (key : JobKey) (port : Fin 8) (addr : W64) (len : Nat) :
    (startJob s key port addr len).kept = s.kept := by
  rfl

@[simp] theorem dropJob_kept (s : State) (k : JobKey) :
    (dropJob s k).kept = s.kept := by
  rfl

@[simp] theorem dropWrites_kept (s : State) (d : Dest) :
    (dropWrites s d).kept = s.kept := by
  unfold dropWrites; exact foldl_kept _ (fun _ _ => by simp) _ _

@[simp] theorem errRingWrite_kept (s : State) (rc : Rec) :
    (errRingWrite s rc).kept = s.kept := by
  unfold errRingWrite; (try dsimp only); (repeat' split) <;> simp

@[simp] theorem violateAt_kept (s : State) (tick : TickRef) (handle : W32) (v : ViolRec) :
    (violateAt s tick handle v).kept = s.kept := by
  unfold violateAt; (try dsimp only); (repeat' split) <;> simp

@[simp] theorem violate_kept (s : State) (d : Desc) (type : Byte) (stamp : Nat) (tick : TickRef) (code : ViolCode) (a : Nat) (b : Nat) :
    (violate s d type stamp tick code a b).kept = s.kept := by
  unfold violate; simp

@[simp] theorem emcySend_kept (s : State) (code : W16) (reg : Byte) (detail : BitVec 40) :
    (emcySend s code reg detail).kept = s.kept := by
  unfold emcySend; (try dsimp only); (repeat' split) <;> simp

@[simp] theorem viewCount_kept (s : State) (place : Place) (cls : BitVec 3) :
    (viewCount s place cls).kept = s.kept := by
  unfold viewCount; (try dsimp only); (repeat' split) <;> simp

@[simp] theorem unitCount_kept (s : State) (place : Place) (cls : BitVec 3) :
    (unitCount s place cls).kept = s.kept := by
  unfold unitCount; (try dsimp only); (repeat' split) <;> simp

@[simp] theorem reportOne_kept (s : State) (e : Raised) :
    (reportOne s e).kept = s.kept := by
  unfold reportOne; (try unfold guardWrite); (try dsimp only); (repeat' split) <;> first | rfl | simp [kept_mk, kept_eta]

@[simp] theorem raise_kept (s : State) (code : ErrCode) (place : Place) (argA : Nat) (argB : Nat) :
    (raise s code place argA argB).kept = s.kept := by
  rfl

@[simp] theorem raiseRec_kept (s : State) (e : Raised) :
    (raiseRec s e).kept = s.kept := by
  rfl

@[simp] theorem refreshRegister_kept (s : State) :
    (refreshRegister s).kept = s.kept := by
  unfold refreshRegister; (try dsimp only); (repeat' split) <;> simp

@[simp] theorem settle_kept (s : State) :
    (settle s).kept = s.kept := by
  rfl

@[simp] theorem report_kept (s : State) : (report s).kept = s.kept := by
  unfold report; simp [foldl_kept]

@[simp] theorem countVerdict_kept (s : State) (fn : Fin 64) (stage : Nat) (t : TickRef) (cls : BitVec 4) (fault : Bool) :
    (countVerdict s fn stage t cls fault).kept = s.kept := by
  unfold countVerdict; (try dsimp only); (repeat' split) <;> simp

@[simp] theorem countRecord_kept (s : State) (fn : Fin 64) (rc : Rec) :
    (countRecord s fn rc).kept = s.kept := by
  unfold countRecord; (try dsimp only); (repeat' split) <;> simp

@[simp] theorem ringWrite_kept (s : State) (slot : Slot) (rc : Rec) :
    (ringWrite s slot rc).kept = s.kept := by
  unfold ringWrite; simp

@[simp] theorem issue_kept (s : State) (slot : Slot) (rc : Rec) :
    (issue s slot rc).kept = s.kept := by
  unfold issue; (try dsimp only); (repeat' split) <;> simp

@[simp] theorem writeClosed_kept (s : State) (slot : Slot) (c : ClosedRec) :
    (writeClosed s slot c).kept = s.kept := by
  unfold writeClosed; simp

@[simp] theorem formClosed_kept (s : State) (slot : Slot) (c : ClosedRec) :
    (formClosed s slot c).kept = s.kept := by
  unfold formClosed; (try dsimp only); (repeat' split) <;> simp

@[simp] theorem drainRing_kept (n : Nat) (s : State) (slot : Slot) : (drainRing n s slot).kept = s.kept := by
  induction n generalizing s with
  | zero => rfl
  | succ n ih => unfold drainRing; dsimp only; (repeat' split) <;> simp [ih]

@[simp] theorem drain_kept (s : State) (slot : Slot) :
    (drain s slot).kept = s.kept := by
  unfold drain; simp

/-! ## Paths -/

@[simp] theorem setSession_kept (s : State) (path : Path) (x : Option Session) :
    (setSession s path x).kept = s.kept := by
  unfold setSession; (try dsimp only); (repeat' split) <;> simp

@[simp] theorem countRequest_kept (s : State) (x0 : Path) :
    (countRequest s x0).kept = s.kept := by
  unfold countRequest; (try dsimp only); (repeat' split) <;> simp

@[simp] theorem respond_kept (s : State) (path : Path) (abort : W32) (data : List Byte) :
    (respond s path abort data).kept = s.kept := by
  unfold respond; (try dsimp only); (repeat' split) <;> simp

@[simp] theorem recordAbort_kept (s : State) (path : Path) (code : W32) (reason : W16) (index : W16) (sub : Byte) :
    (recordAbort s path code reason index sub).kept = s.kept := by
  unfold recordAbort; (try dsimp only); (repeat' split) <;> simp

@[simp] theorem abortReq_kept (s : State) (path : Path) (code : W32) (reason : W16) (index : W16) (sub : Byte) :
    (abortReq s path code reason index sub).kept = s.kept := by
  unfold abortReq; simp

@[simp] theorem noteWrite_kept (s : State) (path : Path) (index : W16) :
    (noteWrite s path index).kept = s.kept := by
  rfl

/-! ## Power -/

@[simp] theorem raiseIf_kept (c : Bool) (s : State) (code : ErrCode) (place : Place) (a b : Nat) :
    (raiseIf c s code place a b).kept = s.kept := by
  unfold raiseIf; split <;> rfl

/-! ## Boot -/

@[simp] theorem setBoot_kept (s : State) (b : Boot) :
    (setBoot s b).kept = s.kept := by
  rfl

@[simp] theorem trainPort_kept (up half : BitVec 8) (s : State) (p : Fin 8) :
    (trainPort up half s p).kept = s.kept := by
  unfold trainPort; (try dsimp only); (repeat' split) <;> simp

@[simp] theorem startBootRead_kept (s : State) :
    (startBootRead s).kept = s.kept := by
  rfl

@[simp] theorem bootFail_kept (s : State) (code : ErrCode) (place : Place) (a : Nat) :
    (bootFail s code place a).kept = s.kept := by
  rfl

@[simp] theorem bootReadFail_kept (s : State) (j : Job) :
    (bootReadFail s j).kept = s.kept := by
  rfl

@[simp] theorem sendBootUp_kept (s : State) :
    (sendBootUp s).kept = s.kept := by
  unfold sendBootUp; (try dsimp only); (repeat' split) <;> simp

@[simp] theorem raiseFloors_kept (s : State) :
    (raiseFloors s).kept = s.kept := by
  unfold raiseFloors; (try unfold guardWrite); (try dsimp only); (repeat' split) <;> rfl

/-! ## Tap -/



end Sys2Proof.Machine
end

