-- ==== Sys2Proof/Laws/KeptRequests.lean ====
section
/-! SUPPORT. What an ordinary command never touches (`State.kept`) stays the same through every operation of
text, the mortise array, requests, release and links: one lemma per operation. -/
namespace Sys2Proof.Machine
open Sys2Proof

/-! ## Text -/

@[simp] theorem textCount_kept (s : State) (k n : Nat) :
    (textCount s k n).kept = s.kept := by
  rfl

@[simp] theorem countId_kept (s : State) (e : VEntry) :
    (countId s e).kept = s.kept := by
  unfold countId; (try dsimp only); (repeat' split) <;> simp

@[simp] theorem cacheRead_kept (s : State) (g : Fin 64) (ls : List Nat) :
    (cacheRead s g ls).1.kept = s.kept := by
  unfold cacheRead; (try unfold guardWrite); (try dsimp only); (repeat' split) <;> first | simp [kept_mk, kept_eta] | rfl

@[simp] theorem writeMask_kept (s : State) (port : Fin 8) (g : Fin 64) (m : BitVec 20) :
    (writeMask s port g m).1.kept = s.kept := by
  unfold writeMask; split
  · rfl
  · extract_lets t odd k img addr s1 ix s2 s3
    have h : s3.kept = s.kept := by simp [s3, s2, s1]
    split
    · rfl
    · exact (kept_text s3 _).trans h

@[simp] theorem writeMasks_kept (port : Fin 8) (g : Fin 64) (l : List (BitVec 20)) (s : State) (b : List (BitVec 20)) :
    (writeMasks port g l s b).1.kept = s.kept := by
  induction l generalizing s b with
  | nil => rfl
  | cons m t ih => unfold writeMasks; dsimp only; rw [ih, writeMask_kept]

@[simp] theorem flushMasks_kept (t : Nat) (x0 : List MaskWait) (x1 : List MaskWait) (s : State) :
    (flushMasks t x0 x1 s).kept = s.kept := by
  induction x0 generalizing s x1 with
  | nil => first | simp [flushMasks] | rfl
  | cons a t ih => unfold flushMasks; (try dsimp only); (repeat' split) <;> first | simp [ih] | rfl

@[simp] theorem flushAll_kept (s : State) (t : Nat) :
    (flushAll s t).kept = s.kept := by
  unfold flushAll; (try unfold guardWrite); (try dsimp only); (repeat' split) <;> first | simp [kept_mk, kept_eta] | rfl

@[simp] theorem wakeAt_kept (s : State) (slot : Slot) (cycle : Nat) :
    (wakeAt s slot cycle).kept = s.kept := by
  unfold wakeAt; (try unfold guardWrite); (try dsimp only); (repeat' split) <;> first | simp [kept_mk, kept_eta] | rfl

@[simp] theorem placeMask_kept (s : State) (w : MaskWait) :
    (placeMask s w).kept = s.kept := by
  unfold placeMask; (try dsimp only); (repeat' split) <;> simp

@[simp] theorem queueMask_kept (s : State) (slot : Slot) (g : Fin 64) (tick : TickRef) (due : Nat) (m : MaskRec) :
    (queueMask s slot g tick due m).kept = s.kept := by
  unfold queueMask; (try unfold guardWrite); (try dsimp only); (repeat' split) <;> first | simp | rfl

@[simp] theorem issueChain_kept (s : State) (slot : Slot) (lo hi : Nat) (tick : TickRef) (due : Nat) :
    (issueChain s slot lo hi tick due).kept = s.kept := by
  unfold issueChain; (try unfold guardWrite); (try dsimp only); (repeat' split) <;> first | simp [foldl_kept] | rfl

@[simp] theorem maskBoundary_kept (s : State) :
    (maskBoundary s).kept = s.kept := by
  unfold maskBoundary; (try dsimp only); (repeat' split) <;> simp [foldl_kept]

@[simp] theorem jobTaken_kept (s : State) (j : Job) :
    (jobTaken s j).kept = s.kept := by
  unfold jobTaken; (try unfold guardWrite); (try dsimp only); (repeat' split) <;> first | simp [kept_mk, kept_eta] | rfl

@[simp] theorem vocabLoad_kept (s : State) (v : Fin 8) :
    (vocabLoad s v).kept = s.kept := by
  unfold vocabLoad; (try unfold guardWrite); (try dsimp only); (repeat' split) <;> rfl

@[simp] theorem emptyVocab_kept (s : State) (v : Fin 8) :
    (emptyVocab s v).kept = s.kept := by
  rfl

@[simp] theorem vocabUnload_kept (s : State) (v : Fin 8) :
    (vocabUnload s v).kept = s.kept := by
  unfold vocabUnload; (try unfold guardWrite); (try dsimp only); (repeat' split) <;> rfl

@[simp] theorem installVocab_kept (s : State) (v : Fin 8) (img : List Byte) :
    (installVocab s v img).kept = s.kept := by
  rfl

@[simp] theorem grammarLoad_kept (s : State) (g : Fin 64) :
    (grammarLoad s g).kept = s.kept := by
  unfold grammarLoad; (try unfold guardWrite); (try dsimp only); (repeat' split) <;> rfl

@[simp] theorem grammarUnload_kept (s : State) (g : Fin 64) :
    (grammarUnload s g).kept = s.kept := by
  unfold grammarUnload; (try unfold guardWrite); (try dsimp only); (repeat' split) <;> rfl

/-! ## Mortise -/

@[simp] theorem setEntry_kept (s : State) (e : Nat) (v : MEntry) :
    (setEntry s e v).kept = s.kept := by
  rfl

@[simp] theorem askSearch_kept (s : State) (q : SearchReq) :
    (askSearch s q).kept = s.kept := by
  rfl

@[simp] theorem captureKey_kept (s : State) (q : SearchReq) (w : W32 × W32) :
    (captureKey s q w).kept = s.kept := by
  unfold captureKey; (try dsimp only); (repeat' split) <;> simp

@[simp] theorem issueSearch_kept (s : State) (q : SearchReq) :
    (issueSearch s q).kept = s.kept := by
  unfold issueSearch; simp

@[simp] theorem readAction_kept (s : State) (f : Found) (issue : Nat) (ecc : Ecc) (handle : W32) :
    (readAction s f issue ecc handle).1.kept = s.kept := by
  unfold readAction; (try unfold guardWrite); (try dsimp only); (repeat' split) <;> first | simp | rfl

@[simp] theorem issueRemote_kept (s : State) (q : SearchReq) :
    (issueRemote s q).kept = s.kept := by
  unfold issueRemote; (try unfold guardWrite); (try dsimp only); (repeat' split) <;> first | simp [kept_mk, kept_eta] | rfl

@[simp] theorem grantSearch_kept (s : State) :
    (grantSearch s).kept = s.kept := by
  unfold grantSearch; extract_lets del
  have h : ∀ s q, (del s q).kept = s.kept := fun _ _ => rfl
  (repeat' split) <;> first | simp [h] | rfl

@[simp] theorem dropSearches_kept (s : State) (keep : SearchReq → Bool) :
    (dropSearches s keep).kept = s.kept := by
  rfl

@[simp] theorem dropSearch_kept (s : State) (id : Nat) :
    (dropSearch s id).kept = s.kept := by
  rfl

@[simp] theorem replaceSearch_kept (s : State) (x : Search) :
    (replaceSearch s x).kept = s.kept := by
  rfl

@[simp] theorem noteStep_kept (s : State) (e : Nat) :
    (noteStep s e).kept = s.kept := by
  rfl

@[simp] theorem step1_kept (s : State) (e : Nat) :
    (step1 s e).kept = s.kept := by
  unfold step1; (try dsimp only); (repeat' split) <;> simp

@[simp] theorem invalidateStep_kept (x0 : State) :
    (invalidateStep x0).kept = x0.kept := by
  unfold invalidateStep mgmtStep guardWrite; (try unfold guardWrite); dsimp only; (repeat' split) <;> simp

@[simp] theorem writeStep_kept (x0 : State) :
    (writeStep x0).kept = x0.kept := by
  unfold writeStep mgmtStep guardWrite; (try unfold guardWrite); dsimp only; (repeat' split) <;> simp

@[simp] theorem validateStep_kept (x0 : State) :
    (validateStep x0).kept = x0.kept := by
  unfold validateStep mgmtStep guardWrite; (try unfold guardWrite); dsimp only; (repeat' split) <;> simp

@[simp] theorem windowEntry_kept (value : W32) (s : State) :
    (windowEntry value s).kept = s.kept := by
  unfold windowEntry; (try dsimp only); (repeat' split) <;> simp

@[simp] theorem bulkRun_kept (s : State) :
    (bulkRun s).kept = s.kept := by
  unfold bulkRun; (try unfold guardWrite); (try dsimp only); (repeat' split) <;> rfl

@[simp] theorem bulkFail_kept (s : State) (k : Nat) :
    (bulkFail s k).kept = s.kept := by
  rfl

@[simp] theorem bulkRecordDone_kept (s : State) :
    (bulkRecordDone s).kept = s.kept := by
  unfold bulkRecordDone; (try unfold guardWrite); (try dsimp only); (repeat' split) <;> first | simp [kept_mk, kept_eta] | rfl

@[simp] theorem bulkApply_kept (s : State) (b : List Byte) :
    (bulkApply s b).kept = s.kept := by
  unfold bulkApply; (try dsimp only); (repeat' split) <;> simp

@[simp] theorem bulkCycle_kept (s : State) :
    (bulkCycle s).kept = s.kept := by
  unfold bulkCycle; (try unfold guardWrite); (try dsimp only); (repeat' split) <;> first | simp [kept_mk, kept_eta] | rfl

@[simp] theorem cursorAsk_kept (s : State) (above : Option (BitVec 20)) :
    (cursorAsk s above).kept = s.kept := by
  rfl

@[simp] theorem cursorFirst_kept (s : State) :
    (cursorFirst s).kept = s.kept := by
  unfold cursorFirst; (try unfold guardWrite); (try dsimp only); (repeat' split) <;> rfl

@[simp] theorem cursorNext_kept (s : State) :
    (cursorNext s).kept = s.kept := by
  unfold cursorNext; (try unfold guardWrite); (try dsimp only); (repeat' split) <;> rfl

@[simp] theorem cursorResult_kept (s : State) (merged : Bool) (f : Found) :
    (cursorResult s merged f).kept = s.kept := by
  rfl

@[simp] theorem keyArm_kept (value : Byte) (s : State) :
    (keyArm value s).kept = s.kept := by
  unfold keyArm; (try dsimp only); (repeat' split) <;> simp

@[simp] theorem rewriteShadow_kept (s : State) :
    (rewriteShadow s).kept = s.kept := by
  rfl

/-! ## Release -/

@[simp] theorem reportBad_kept (s : State) (x : Found) (v : Verd) :
    (reportBad s x v).kept = s.kept := by
  unfold reportBad; (try dsimp only); (repeat' split) <;> simp

@[simp] theorem issueVerdict_kept (s : State) (slot : Slot) (stage : Nat) (pos : W32) (t : TickRef) (v : Verd) :
    (issueVerdict s slot stage pos t v).kept = s.kept := by
  unfold issueVerdict; (try dsimp only); (repeat' split) <;> simp

@[simp] theorem emitRecs_kept (slot : Slot) (x0 : List Rec) (s : State) :
    (emitRecs slot x0 s).kept = s.kept := by
  induction x0 generalizing s with
  | nil => first | simp [emitRecs] | rfl
  | cons a t ih => unfold emitRecs; (try dsimp only); (repeat' split) <;> first | simp [ih] | rfl

@[simp] theorem emitRelease_kept (s : State) (slot : Slot) (t : Nat) :
    (emitRelease s slot t).kept = s.kept := by
  unfold emitRelease; (try unfold guardWrite); (try dsimp only); (repeat' split) <;> first | simp | rfl

@[simp] theorem dropResults_kept (s : State) (slot : Slot) (keep : SearchReq → Bool) :
    (dropResults s slot keep).kept = s.kept := by
  unfold dropResults; (try unfold guardWrite); (try dsimp only); (repeat' split) <;> first | simp | rfl

@[simp] theorem dropWatch_kept (s : State) (slot : Slot) (keep : Nat → Bool) :
    (dropWatch s slot keep).kept = s.kept := by
  rfl

@[simp] theorem dropWork_kept (s : State) (slot : Slot) :
    (dropWork s slot).kept = s.kept := by
  rfl

@[simp] theorem scoreGroup_kept (slot : Slot) (t : Nat) (ps : List Pos) (x0 : Nat) (s : State) (x2 : ScoreGroup) :
    (scoreGroup slot t ps x0 s x2).1.kept = s.kept := by
  induction x0 generalizing s x2 with
  | zero => first | simp [scoreGroup] | rfl
  | succ n ih => unfold scoreGroup; (try dsimp only); (repeat' split) <;> first | simp [ih] | rfl

@[simp] theorem scoreGroups_kept (slot : Slot) (t : Nat) (ps : List Pos) (x0 : List ScoreGroup) (s : State) (x2 : List ScoreGroup) :
    (scoreGroups slot t ps x0 s x2).1.kept = s.kept := by
  induction x0 generalizing s x2 with
  | nil => first | simp [scoreGroups] | rfl
  | cons a t ih => unfold scoreGroups; (try dsimp only); (repeat' split) <;> first | simp [ih] | rfl

@[simp] theorem flushScores_kept (s : State) (slot : Slot) (t : Nat) :
    (flushScores s slot t).kept = s.kept := by
  unfold flushScores; (try unfold guardWrite); (try dsimp only); (repeat' split) <;> first | simp | rfl

@[simp] theorem field16_kept (s : State) (n : Nat) :
    (field16 s n).2.kept = s.kept := by
  unfold field16; (try dsimp only); (repeat' split) <;> simp

@[simp] theorem finishRequest_kept (s : State) (slot : Slot) (front : Nat) (cause : Byte) (tick : TickRef) (reason : W16) :
    (finishRequest s slot front cause tick reason).kept = s.kept := by
  unfold finishRequest; simp

@[simp] theorem tryClose_kept (s : State) (slot : Slot) (t : Nat) :
    (tryClose s slot t).kept = s.kept := by
  unfold tryClose; dsimp only; split <;> simp

@[simp] theorem takeStop_kept (s : State) (slot : Slot) :
    (takeStop s slot).kept = s.kept := by
  unfold takeStop; (try dsimp only); (repeat' split) <;> simp

@[simp] theorem flushEnd_kept (s : State) (slot : Slot) :
    (flushEnd s slot).kept = s.kept := by
  unfold flushEnd; (try dsimp only); (repeat' split) <;> simp

@[simp] theorem runGate_kept (s : State) (slot : Slot) (t : Nat) :
    (runGate s slot t).kept = s.kept := by
  unfold runGate; (try unfold guardWrite); (try dsimp only); (repeat' split) <;> first | simp | rfl

@[simp] theorem issueDue_kept (slot : Slot) (t : Nat) (x0 : Nat) (s : State) :
    (issueDue slot t x0 s).kept = s.kept := by
  induction x0 generalizing s with
  | zero => first | simp [issueDue] | rfl
  | succ n ih => unfold issueDue; (try dsimp only); (repeat' split) <;> first | simp [ih] | rfl

@[simp] theorem pumpTo_kept (s : State) (slot : Slot) (t : Nat) :
    (pumpTo s slot t).kept = s.kept := by
  unfold pumpTo; dsimp only; split <;> simp

@[simp] theorem pump_kept (s : State) (slot : Slot) :
    (pump s slot).kept = s.kept := by
  simp [pump]

@[simp] theorem runWakes_kept (s : State) :
    (runWakes s).kept = s.kept := by
  unfold runWakes; dsimp only; split
  · rfl
  · exact (foldl_kept _ (fun _ _ => by simp) _ _).trans (by simp)

@[simp] theorem promptScores_kept (s : State) (slot : Slot) (v : Verd) :
    (promptScores s slot v).kept = s.kept := by
  unfold promptScores; (try dsimp only); (repeat' split) <;> simp

@[simp] theorem promptVerdict_kept (s : State) (slot : Slot) (v : Verd) :
    (promptVerdict s slot v).kept = s.kept := by
  unfold promptVerdict; (try dsimp only); (repeat' split) <;> first | simp | rfl

@[simp] theorem stage3Verdict_kept (s : State) (slot : Slot) (p : Nat) (v : Verd) :
    (stage3Verdict s slot p v).kept = s.kept := by
  unfold stage3Verdict; (try dsimp only); (repeat' split) <;> simp

@[simp] theorem lateWatch_kept (s : State) (slot : Slot) (x : Pos) (v : Verd) :
    (lateWatch s slot x v).kept = s.kept := by
  unfold lateWatch; (try dsimp only); (repeat' split) <;> simp

@[simp] theorem stage4Verdict_kept (s : State) (slot : Slot) (p : Nat) (v : Verd) :
    (stage4Verdict s slot p v).kept = s.kept := by
  unfold stage4Verdict; (try dsimp only); (repeat' split) <;> simp

@[simp] theorem useResult_kept (s : State) (q : SearchReq) (f : Found) :
    (useResult s q f).kept = s.kept := by
  unfold useResult; (repeat' split) <;> (try dsimp only) <;> (repeat' split) <;> first | simp [*] | rfl

@[simp] theorem applyResult_kept (s : State) (q : SearchReq) (f : Found) :
    (applyResult s q f).kept = s.kept := by
  unfold applyResult; (try dsimp only); (repeat' split) <;> simp

@[simp] theorem useResults_kept (slot : Slot) (x0 : Nat) (s : State) :
    (useResults slot x0 s).kept = s.kept := by
  induction x0 generalizing s with
  | zero => first | simp [useResults] | rfl
  | succ n ih => unfold useResults; (try dsimp only); (repeat' split) <;> first | simp [ih] | rfl

@[simp] theorem goOn_kept (s : State) (slot : Slot) :
    (goOn s slot).kept = s.kept := by
  unfold goOn; (try unfold guardWrite); (try dsimp only); (repeat' split) <;> first | simp | rfl

@[simp] theorem reportTimeout_kept (s : State) (x : Search) :
    (reportTimeout s x).kept = s.kept := by
  unfold reportTimeout; (try dsimp only); (repeat' split) <;> simp

/-! ## Work -/

@[simp] theorem reservePages_kept (s : State) (slot : Slot) (n p : Nat) :
    (reservePages s slot n p).kept = s.kept := by
  rfl

@[simp] theorem writeBack_kept (s : State) (slot : Slot) :
    (writeBack s slot).kept = s.kept := by
  unfold writeBack; (try unfold guardWrite); (try dsimp only); (repeat' split) <;> first | simp | rfl

@[simp] theorem storeTrim_kept (s : State) (n : Fin 8) :
    (storeTrim s n).kept = s.kept := by
  unfold storeTrim; (try unfold guardWrite); (try dsimp only); (repeat' split) <;> first | simp [foldl_kept] | rfl

@[simp] theorem useRecord_kept (s : State) (slot : Slot) :
    (useRecord s slot).1.kept = s.kept := by
  unfold useRecord; (try unfold guardWrite); (try dsimp only); (repeat' split) <;> first | simp | rfl

@[simp] theorem dropRecord_kept (s : State) (slot : Slot) :
    (dropRecord s slot).kept = s.kept := by
  unfold dropRecord; (try unfold guardWrite); (try dsimp only); (repeat' split) <;> first | simp | rfl

@[simp] theorem watchState_kept (slot : Slot) (s : State) (p : Nat) :
    (watchState slot s p).kept = s.kept := by
  unfold watchState; (try unfold guardWrite); (try dsimp only); (repeat' split) <;> first | simp [kept_mk, kept_eta] | rfl

@[simp] theorem stateFull_kept (s : State) (pages : Nat) :
    (stateFull s pages).kept = s.kept := by
  unfold stateFull; (try dsimp only); (repeat' split) <;> simp

@[simp] theorem setNode_kept (s : State) (n : Nat) (v : Node) :
    (setNode s n v).kept = s.kept := by
  rfl

@[simp] theorem modNode_kept (s : State) (n : Nat) (f : Node → Node) :
    (modNode s n f).kept = s.kept := by
  unfold modNode; (try dsimp only); (repeat' split) <;> simp

@[simp] theorem trussAdvance_kept (s : State) (slot : Slot) :
    (trussAdvance s slot).kept = s.kept := by
  unfold trussAdvance; (try unfold guardWrite); (try dsimp only); (repeat' split) <;> first | simp [foldl_kept, kept_mk, kept_eta] | rfl

@[simp] theorem trussLookup_kept (s : State) (slot : Slot) :
    (trussLookup s slot).kept = s.kept := by
  unfold trussLookup; (try dsimp only); (repeat' split) <;> simp

@[simp] theorem trussUnpin_kept (s : State) (slot : Slot) :
    (trussUnpin s slot).kept = s.kept := by
  unfold trussUnpin; (try dsimp only); (repeat' split) <;> simp

@[simp] theorem stateRoom_kept (n : Nat) (s : State) :
    (stateRoom n s).1.kept = s.kept := by
  induction n generalizing s with
  | zero => rfl
  | succ n ih => unfold stateRoom; dsimp only; (repeat' split) <;> simp [ih]

@[simp] theorem recordRoom_kept (s : State) :
    (recordRoom s).1.kept = s.kept := by
  unfold recordRoom; (try dsimp only); (repeat' split) <;> simp

@[simp] theorem skipInsert_kept (s : State) :
    (skipInsert s).kept = s.kept := by
  rfl

@[simp] theorem storeState_kept (s : State) (r : Request) (n : Nat) (backbone delta : W32) :
    (storeState s r n backbone delta).kept = s.kept := by
  unfold storeState; (try dsimp only); (repeat' split) <;> simp

@[simp] theorem trussInsert_kept (r : Request) (backbone delta : W32) (from_ : Nat) (l : List (List Byte)) (d : Nat)
    (p : W32) (fp : W64) (s : State) : (trussInsert r backbone delta from_ l d p fp s).kept = s.kept := by
  induction l generalizing d p fp s with
  | nil => rfl
  | cons b t ih => unfold trussInsert; dsimp only; (repeat' split) <;> simp [ih]

@[simp] theorem trussStore_kept (s : State) (slot : Slot) (backbone delta : W32) :
    (trussStore s slot backbone delta).kept = s.kept := by
  unfold trussStore; (try dsimp only); (repeat' split) <;> simp

@[simp] theorem charge_kept (s : State) (t : BitVec 14) (cost : Nat) :
    (charge s t cost).kept = s.kept := by
  rfl

@[simp] theorem modItem_kept (s : State) (n : Nat) (f : WorkItem → WorkItem) :
    (modItem s n f).kept = s.kept := by
  rfl

@[simp] theorem askWatch_kept (slot : Slot) (i : WorkItem) (s : State) (x : Nat × Heads) :
    (askWatch slot i s x).kept = s.kept := by
  unfold askWatch; (try dsimp only); (repeat' split) <;> simp

@[simp] theorem askPrompt_kept (s : State) (slot : Slot) :
    (askPrompt s slot).kept = s.kept := by
  unfold askPrompt; (try dsimp only); (repeat' split) <;> simp

@[simp] theorem promptItemDone_kept (s : State) (slot : Slot) (i : WorkItem) (last : Bool) :
    (promptItemDone s slot i last).kept = s.kept := by
  unfold promptItemDone; (try dsimp only); (repeat' split) <;> first | simp | rfl

@[simp] theorem finishItem_kept (s : State) (n : Nat) :
    (finishItem s n).kept = s.kept := by
  unfold finishItem; (try dsimp only); (repeat' split) <;> simp [foldl_kept]

@[simp] theorem planTiles_kept (s : State) (ts : List Tile) :
    (planTiles s ts).kept = s.kept := by
  unfold planTiles; exact foldl_kept _ (fun s x => by dsimp only; (repeat' split) <;> first | simp | rfl) _ _

@[simp] theorem placeItem_kept (s : State) (n : Nat) :
    (placeItem s n).kept = s.kept := by
  unfold placeItem; (try dsimp only); (repeat' split) <;> simp

@[simp] theorem addItem_kept (s : State) (slot : Slot) (kind : WorkKind) (cost : Nat) (tick : TickRef) (stamp : Nat) (parked : Bool) :
    (addItem s slot kind cost tick stamp parked).kept = s.kept := by
  unfold addItem; (try unfold guardWrite); (try dsimp only); (repeat' split) <;> first | simp [kept_mk, kept_eta] | rfl

/-! ## Stamp -/

@[simp] theorem reportTickField_kept (s : State) (x : Seen) :
    (reportTickField s x).kept = s.kept := by
  unfold reportTickField; (try dsimp only); (repeat' split) <;> simp

@[simp] theorem countDesc_kept (s : State) (p : Fin 8) (type : Nat) :
    (countDesc s p type).kept = s.kept := by
  unfold countDesc; (try dsimp only); (repeat' split) <;> simp

@[simp] theorem takeSeq_kept (s : State) (x : Seen) (want : W16) :
    (takeSeq s x want).kept = s.kept := by
  unfold takeSeq; (try dsimp only); (repeat' split) <;> simp

@[simp] theorem lastRows_kept (s : State) (x : Seen) :
    (lastRows s x).1.kept = s.kept := by
  unfold lastRows; (try dsimp only); (repeat' split) <;> simp

@[simp] theorem stampStage_kept (s : State) (d : Desc) (type : Nat) :
    (stampStage s d type).1.kept = s.kept := by
  unfold stampStage; (try dsimp only); (repeat' split) <;> simp

/-! ## Requests -/

@[simp] theorem promptIds_kept (v : Fin 8) (l : List Byte) (s : State) (bs : List Byte) (es : List W32) :
    (promptIds v l s bs es).1.kept = s.kept := by
  fun_induction promptIds v l s bs es with
  | case1 a b c d t s bs es e far s' ih => rw [ih]; simp only [s']; split <;> simp
  | case2 => rfl

@[simp] theorem joinSegment_kept (s : State) (slot : Slot) (x : PSeg) (data : List Byte) :
    (joinSegment s slot x data).kept = s.kept := by
  unfold joinSegment; (try dsimp only); (repeat' split) <;> simp

@[simp] theorem promptItem_kept (s : State) (slot : Slot) (patches : Nat) (last : Bool) (tick : TickRef) (parked : Bool) :
    (promptItem s slot patches last tick parked).kept = s.kept := by
  unfold promptItem; (try unfold guardWrite); (try dsimp only); (repeat' split) <;> first | simp | rfl

@[simp] theorem promptItems_kept (slot : Slot) (tick : TickRef) (p f : Bool) (n : Nat) (s : State) :
    (promptItems slot tick p f n s).kept = s.kept := by
  induction n generalizing s with
  | zero => rfl
  | succ n ih => unfold promptItems; dsimp only; (repeat' split) <;> simp [ih]

@[simp] theorem promptComplete_kept (s : State) (slot : Slot) :
    (promptComplete s slot).kept = s.kept := by
  unfold promptComplete; (try dsimp only); (repeat' split) <;> simp

@[simp] theorem advancePrompt_kept  (x0 : Nat) (s : State) (x2 : Slot) :
    (advancePrompt x0 s x2).kept = s.kept := by
  induction x0 generalizing s x2 with
  | zero => rfl
  | succ n ih => unfold advancePrompt; dsimp only; (repeat' split) <;> simp [ih]

@[simp] theorem runPrompt_kept (s : State) (slot : Slot) :
    (runPrompt s slot).kept = s.kept := by
  unfold runPrompt; simp

@[simp] theorem promptAct_kept (s : State) (slot : Slot) (q : QItem) :
    (promptAct s slot q).kept = s.kept := by
  unfold promptAct; (try dsimp only); (repeat' split) <;> simp

@[simp] theorem pushBulk_kept (s : State) (n : Fin 8) (start beats : Nat) :
    (pushBulk s n start beats).kept = s.kept := by
  unfold pushBulk; (try unfold guardWrite); (try dsimp only); (repeat' split) <;> first | simp [kept_mk, kept_eta] | rfl

@[simp] theorem scribeTake_kept (s : State) (slot : Slot) (x : Pos) (len delay : Nat) :
    (scribeTake s slot x len delay).1.kept = s.kept := by
  unfold scribeTake; (try unfold guardWrite); (try dsimp only); (repeat' split) <;> first | simp | rfl

@[simp] theorem askStage3_kept (s : State) (slot : Slot) (x : Pos) (fault : Bool) (ready : Nat) :
    (askStage3 s slot x fault ready).kept = s.kept := by
  rfl

@[simp] theorem grammarRead_kept (s : State) (r : Request) (a : Auto) (bytes : List Byte) :
    (grammarRead s r a bytes).1.kept = s.kept := by
  unfold grammarRead; (try unfold guardWrite); (try dsimp only); (repeat' split) <;> first | simp | rfl

@[simp] theorem scanOne_kept (s : State) (slot : Slot) (x : Pos) (ending : Bool) :
    (scanOne s slot x ending).kept = s.kept := by
  unfold scanOne; (try unfold guardWrite); (try dsimp only); (repeat' split) <;> first | simp | rfl

@[simp] theorem chunkItem_kept (s : State) (slot : Slot) (k : Chunk) :
    (chunkItem s slot k).kept = s.kept := by
  unfold chunkItem; (try unfold guardWrite); (try dsimp only); (repeat' split) <;> first | simp | rfl

@[simp] theorem chunkChain_kept (s : State) (slot : Slot) (k : Chunk) :
    (chunkChain s slot k).kept = s.kept := by
  unfold chunkChain; (try unfold guardWrite); (try dsimp only); (repeat' split) <;> first | simp | rfl

@[simp] theorem scanAll_kept (n : Nat) (s : State) (slot : Slot) : (scanAll n s slot).kept = s.kept := by
  induction n generalizing s with
  | zero => rfl
  | succ n ih => unfold scanAll; dsimp only; (repeat' split) <;> simp [ih]

@[simp] theorem runScan_kept (s : State) (slot : Slot) :
    (runScan s slot).kept = s.kept := by
  unfold runScan; simp

@[simp] theorem rejectFrom_kept (s : State) (slot : Slot) (n stamp : Nat) :
    (rejectFrom s slot n stamp).kept = s.kept := by
  simp [rejectFrom]

@[simp] theorem addGroup_kept (s : State) (slot : Slot) (first count : Nat) :
    (addGroup s slot first count).kept = s.kept := by
  unfold addGroup; (try dsimp only); (repeat' split) <;> simp

@[simp] theorem reportRow_kept (s : State) (q : QItem) (type : Byte) (code : ViolCode) (a b : Nat) :
    (reportRow s q type code a b).kept = s.kept := by
  unfold reportRow; (try dsimp only); (repeat' split) <;> simp

@[simp] theorem enterTokens_kept (s : State) (slot : Slot) :
    (enterTokens s slot).1.kept = s.kept := by
  unfold enterTokens; (try unfold guardWrite); (try dsimp only); (repeat' split) <;> first | simp | rfl

@[simp] theorem tokensAct_kept (s : State) (slot : Slot) (q : QItem) :
    (tokensAct s slot q).kept = s.kept := by
  unfold tokensAct; (try dsimp only); (repeat' split) <;> simp

@[simp] theorem acceptAct_kept (s : State) (slot : Slot) (q : QItem) :
    (acceptAct s slot q).kept = s.kept := by
  unfold acceptAct; (try dsimp only); (repeat' split) <;> simp

@[simp] theorem stopCold_kept (s : State) (slot : Slot) :
    (stopCold s slot).kept = s.kept := by
  unfold stopCold; (try dsimp only); (repeat' split) <;> simp

@[simp] theorem reportAfterClose_kept  (x0 : List QItem) (x1 : Bool) (s : State) :
    (reportAfterClose x0 x1 s).kept = s.kept := by
  induction x0 generalizing s x1 with
  | nil => first | simp [reportAfterClose] | rfl
  | cons a t ih => unfold reportAfterClose; (try dsimp only); (repeat' split) <;> first | simp [ih] | rfl

@[simp] theorem cancelAct_kept (s : State) (slot : Slot) (q : QItem) :
    (cancelAct s slot q).kept = s.kept := by
  unfold cancelAct; (try dsimp only); (repeat' split) <;> first | simp | rfl

@[simp] theorem closeAct_kept (s : State) (slot : Slot) (q : QItem) :
    (closeAct s slot q).kept = s.kept := by
  unfold closeAct; (try dsimp only); (repeat' split) <;> first | simp | rfl

@[simp] theorem coldCount_kept (s : State) (k : Nat) :
    (coldCount s k).kept = s.kept := by
  unfold coldCount; (try dsimp only); (repeat' split) <;> simp

@[simp] theorem copyBack_kept (s : State) (slot : Slot) (k : Nat) :
    (copyBack s slot k).kept = s.kept := by
  unfold copyBack; (try unfold guardWrite); (try dsimp only); (repeat' split) <;> first | simp | rfl

@[simp] theorem resumeColdAct_kept (s : State) (slot : Slot) (q : QItem) :
    (resumeColdAct s slot q).kept = s.kept := by
  unfold resumeColdAct; (try dsimp only); (repeat' split) <;> first | simp | rfl

@[simp] theorem resumeHoldAct_kept (s : State) (slot : Slot) :
    (resumeHoldAct s slot).kept = s.kept := by
  unfold resumeHoldAct; (try dsimp only); (repeat' split) <;> simp

@[simp] theorem refuseOpen_kept (s : State) (slot : Slot) (tick : TickRef) (reason : Nat) :
    (refuseOpen s slot tick reason).kept = s.kept := by
  unfold refuseOpen; (try dsimp only); (repeat' split) <;> first | simp | rfl

@[simp] theorem admitReq_kept (s : State) (slot : Slot) (tick : TickRef) :
    (admitReq s slot tick).kept = s.kept := by
  unfold admitReq; (try dsimp only); (repeat' split) <;> first | simp [kept_mk, kept_eta] | rfl

@[simp] theorem openAct_kept (s : State) (slot : Slot) (q : QItem) :
    (openAct s slot q).kept = s.kept := by
  unfold openAct; (try dsimp only); (repeat' split) <;> first | simp | rfl

@[simp] theorem act_kept (s : State) (slot : Slot) (q : QItem) :
    (act s slot q).kept = s.kept := by
  unfold act; (try dsimp only); (repeat' split) <;> first | simp | rfl

@[simp] theorem processItem_kept (s : State) (slot : Slot) (q : QItem) :
    (processItem s slot q).kept = s.kept := by
  unfold processItem; (repeat' split) <;> (try dsimp only) <;> (repeat' split) <;> first | simp [*] | rfl

@[simp] theorem enqueue_kept (s : State) (slot : Slot) (q : QItem) :
    (enqueue s slot q).kept = s.kept := by
  unfold enqueue; (try dsimp only); (repeat' split) <;> simp

@[simp] theorem endBadEntry_kept (s : State) (slot : Slot) :
    (endBadEntry s slot).kept = s.kept := by
  unfold endBadEntry; (try dsimp only); (repeat' split) <;> simp

@[simp] theorem route_kept (s : State) (slot : Slot) (q : QItem) :
    (route s slot q).kept = s.kept := by
  unfold route; (try dsimp only); (repeat' split) <;> simp

@[simp] theorem raiseTokensErrs_kept (errs : List DetErr) (d : Desc) (s : State) (slot : Slot) :
    (raiseTokensErrs errs d s slot).kept = s.kept := by
  exact foldl_kept _ (fun _ _ => by dsimp only; (repeat' split) <;> simp) _ _

@[simp] theorem admitParked_kept (s : State) (slot : Slot) (q : QItem) :
    (admitParked s slot q).kept = s.kept := by
  unfold admitParked; (repeat' split) <;> (try dsimp only) <;> (repeat' split) <;> first | simp [*] | rfl

@[simp] theorem takeHead_kept (s : State) (slot : Slot) :
    (takeHead s slot).kept = s.kept := by
  unfold takeHead; (try dsimp only); (repeat' split) <;> simp

@[simp] theorem unpark_kept (s : State) (f : Fin 64) :
    (unpark s f).kept = s.kept := by
  unfold unpark
  exact (foldl_kept _ (fun _ _ => by simp) _ _).trans
    ((foldl_kept _ (fun _ _ => by split <;> simp) _ _).trans rfl)

/-! ## Links -/

@[simp] theorem violateMsg_kept (s : State) (p : Fin 8) (a : Nat) :
    (violateMsg s p a).kept = s.kept := by
  unfold violateMsg; simp

@[simp] theorem drainPort_kept (s : State) (port : Fin 8) :
    (drainPort s port).kept = s.kept := by
  unfold drainPort; (try dsimp only); (repeat' split) <;> simp [foldl_kept]

@[simp] theorem consumerAhead_kept (s : State) (port : Fin 8) (handle : W32) (value producer : W32) :
    (consumerAhead s port handle value producer).kept = s.kept := by
  unfold consumerAhead; simp

@[simp] theorem consumerReturn_kept (s : State) (ref : RingRef) (value : W32) :
    (consumerReturn s ref value).kept = s.kept := by
  unfold consumerReturn; (try dsimp only); (repeat' split) <;> simp

@[simp] theorem endRead_kept (s : State) (port : Fin 8) (tag : BitVec 15) :
    (endRead s port tag).kept = s.kept := by
  rfl

@[simp] theorem modJob_kept (s : State) (k : JobKey) (f : Job → Job) :
    (modJob s k f).kept = s.kept := by
  rfl

@[simp] theorem jobDone_kept (s : State) (k : JobKey) :
    (jobDone s k).kept = s.kept := by
  unfold jobDone; (try dsimp only); (repeat' split) <;> simp

@[simp] theorem deliverRead_kept (s : State) (m : ReadMsg) (data : List Byte) :
    (deliverRead s m data).kept = s.kept := by
  unfold deliverRead; (try dsimp only); (repeat' split) <;> simp

@[simp] theorem failRead_kept (s : State) (port : Fin 8) (m : ReadMsg) :
    (failRead s port m).kept = s.kept := by
  unfold failRead; (try dsimp only); (repeat' split) <;> simp

@[simp] theorem endCheckpoint_kept (s : State) (code : Byte) :
    (endCheckpoint s code).kept = s.kept := by
  unfold endCheckpoint; (try dsimp only); (repeat' split) <;> simp [kept_mk, kept_eta]

@[simp] theorem coldWriteFail_kept (s : State) (port : Fin 8) (slot : Slot) (addr : W64) :
    (coldWriteFail s port slot addr).kept = s.kept := by
  unfold coldWriteFail; (try dsimp only); (repeat' split) <;> simp

@[simp] theorem holdWrite_kept (s : State) (port : Fin 8) (m : WriteMsg) :
    (holdWrite s port m).kept = s.kept := by
  rfl

@[simp] theorem failWrite_kept (s : State) (port : Fin 8) (m : WriteMsg) :
    (failWrite s port m).kept = s.kept := by
  unfold failWrite
  generalize m.dest = d
  have h1 (f) : (modPort s port f).kept = s.kept := rfl
  cases d <;> dsimp only
  case cold => rw [coldWriteFail_kept, h1]
  case checkpoint =>
    split
    · rw [raiseRec_kept, endCheckpoint_kept, h1]
    · exact h1 _
  case evidence =>
    split
    · rw [bootFail_kept, dropWrites_kept, h1]
    · exact h1 _
  all_goals rw [holdWrite_kept, h1]

end Sys2Proof.Machine
end

