-- ==== Sys2Proof/Laws/KeptUnits.lean ====
section
/-! SUPPORT. What an ordinary command never touches (`State.kept`) stays the same through every operation of
numbers, plans, tuning, functions, tiles, the cold tier, checkpoints, ticks and the node: one lemma per operation. -/
namespace Sys2Proof.Machine
open Sys2Proof

/-! ## Marver -/

@[simp] theorem setCal_kept (s : State) (k : Nat) (c : CalSlot) :
    (setCal s k c).kept = s.kept := by
  rfl

@[simp] theorem calRecord_kept (s : State) (k : Nat) (st : Stat) :
    (calRecord s k st).kept = s.kept := by
  rfl

@[simp] theorem calLog_kept (s : State) (e : CalEntry) :
    (calLog s e).kept = s.kept := by
  unfold calLog; (try dsimp only); (repeat' split) <;> simp

@[simp] theorem closeSlot_kept (k : TickRef) (s : State) (slot : Nat) :
    (closeSlot k s slot).kept = s.kept := by
  unfold closeSlot; (try dsimp only); (repeat' split) <;> simp

@[simp] theorem closePeriod_kept (s : State) (k : TickRef) :
    (closePeriod s k).kept = s.kept := by
  unfold closePeriod; (try dsimp only); (repeat' split) <;> simp [foldl_kept]

@[simp] theorem promoteScales_kept (s : State) (before : Nat) :
    (promoteScales s before).kept = s.kept := by
  rfl

@[simp] theorem openPeriod_kept (s : State) :
    (openPeriod s).kept = s.kept := by
  rfl

/-! ## Plans -/

@[simp] theorem holdPegs_kept (s : State) :
    (holdPegs s).kept = s.kept := by
  unfold holdPegs; exact foldl_kept _ (fun s x => by dsimp only; (repeat' split) <;> first | simp | rfl) _ _

@[simp] theorem planLoad_kept (s : State) :
    (planLoad s).kept = s.kept := by
  unfold planLoad; (try unfold guardWrite); (try dsimp only); (repeat' split) <;> rfl

@[simp] theorem freePlanSlots_kept (s : State) (p : Byte) :
    (freePlanSlots s p).kept = s.kept := by
  rfl

@[simp] theorem planUnload_kept (s : State) :
    (planUnload s).kept = s.kept := by
  unfold planUnload; (try unfold guardWrite); (try dsimp only); (repeat' split) <;> first | simp | rfl

@[simp] theorem initPlanSlots_kept (s : State) (p : Byte) (ts : List TensorDesc) :
    (initPlanSlots s p ts).kept = s.kept := by
  unfold initPlanSlots; exact foldl_kept _ (fun _ _ => by (try dsimp only); (repeat' split) <;> simp) _ _

@[simp] theorem startPegRewrites_kept (s : State) (screen : W16) :
    (startPegRewrites s screen).kept = s.kept := by
  unfold startPegRewrites; exact foldl_kept _ (fun _ _ => by (try dsimp only); (repeat' split) <;> simp) _ _

@[simp] theorem enginePool_kept (engine : Fin 56) (value : Byte) (s : State) :
    (enginePool engine value s).kept = s.kept := by
  unfold enginePool; (try unfold guardWrite); (try dsimp only); (repeat' split) <;> rfl

/-! ## Tuning -/

@[simp] theorem tuneCount_kept (s : State) (k n : Nat) :
    (tuneCount s k n).kept = s.kept := by
  rfl

@[simp] theorem finishSpans_kept (s : State) (seqs : List W64) :
    (finishSpans s seqs).kept = s.kept := by
  rfl

@[simp] theorem formBatch_kept (s : State) (d : BitVec 10) :
    (formBatch s d).kept = s.kept := by
  unfold formBatch; (try dsimp only); (repeat' split) <;> simp

@[simp] theorem formFull_kept (n : Nat) (s : State) (d : BitVec 10) : (formFull n s d).kept = s.kept := by
  induction n generalizing s with
  | zero => rfl
  | succ n ih => unfold formFull; split <;> simp [ih]

@[simp] theorem formAll_kept (s : State) :
    (formAll s).kept = s.kept := by
  unfold formAll; (try dsimp only); (repeat' split) <;> simp [foldl_kept]

@[simp] theorem modBatch_kept (s : State) (seq : W64) (f : Batch → Batch) :
    (modBatch s seq f).kept = s.kept := by
  rfl

@[simp] theorem startBatch_kept (s : State) (b : Batch) :
    (startBatch s b).kept = s.kept := by
  unfold startBatch; (try dsimp only); (repeat' split) <;> simp [foldl_kept]

@[simp] theorem placeBatches_kept (s : State) (l : List Batch) : (placeBatches s l).kept = s.kept := by
  induction l generalizing s with
  | nil => rfl
  | cons b t ih => unfold placeBatches; (repeat' split) <;> simp [ih]

@[simp] theorem noteNumeric_kept (s : State) (e id : Nat) (n : Num) :
    (noteNumeric s e id n).kept = s.kept := by
  unfold noteNumeric; (try dsimp only); (repeat' split) <;> simp [foldl_kept]

@[simp] theorem recordAt_kept (s : State) (k : Option Nat) (st : Stat) :
    (recordAt s k st).kept = s.kept := by
  unfold recordAt; (try dsimp only); (repeat' split) <;> simp

@[simp] theorem applyStep_kept (s : State) (b : Batch) (res : BatchResult) :
    (applyStep s b res).kept = s.kept := by
  unfold applyStep; simp

@[simp] theorem endBatch_kept (s : State) (b : Batch) :
    (endBatch s b).kept = s.kept := by
  rfl

@[simp] theorem staleDiscard_kept (s : State) (b : Batch) :
    (staleDiscard s b).kept = s.kept := by
  rfl

@[simp] theorem settleBatch_kept (s : State) (b : Batch) (res : BatchResult) :
    (settleBatch s b res).kept = s.kept := by
  unfold settleBatch; (try dsimp only); (repeat' split) <;> simp

@[simp] theorem releaseSteps_kept (s : State) (set : BitVec 10) :
    (releaseSteps s set).kept = s.kept := by
  unfold releaseSteps; exact foldl_kept _ (fun _ _ => by (try dsimp only); (repeat' split) <;> simp) _ _

@[simp] theorem doomBatches_kept (s : State) (set : BitVec 10) :
    (doomBatches s set).kept = s.kept := by
  unfold doomBatches; simp

@[simp] theorem doomWaiting_kept (s : State) (set : BitVec 10) :
    (doomWaiting s set).kept = s.kept := by
  unfold doomWaiting; (try unfold guardWrite); (try dsimp only); (repeat' split) <;> first | simp [kept_mk, kept_eta] | rfl

@[simp] theorem restartTuning_kept (s : State) (set : BitVec 10) :
    (restartTuning s set).kept = s.kept := by
  unfold restartTuning; simp

@[simp] theorem promoteStaging_kept (s : State) (set : BitVec 10) :
    (promoteStaging s set).kept = s.kept := by
  unfold promoteStaging; (try dsimp only); (repeat' split) <;> simp

@[simp] theorem rollback_kept (s : State) (set : BitVec 10) :
    (rollback s set).kept = s.kept := by
  unfold rollback; (try dsimp only); (repeat' split) <;> simp

@[simp] theorem stagingReady_kept (s : State) (set : BitVec 10) (v : DVersion) :
    (stagingReady s set v).kept = s.kept := by
  unfold stagingReady; (try dsimp only); (repeat' split) <;> simp

@[simp] theorem freeStaging_kept (s : State) (set : BitVec 10) :
    (freeStaging s set).kept = s.kept := by
  unfold freeStaging; simp

@[simp] theorem deltaLoad_kept (s : State) :
    (deltaLoad s).kept = s.kept := by
  unfold deltaLoad; (try unfold guardWrite); (try dsimp only); (repeat' split) <;> simp

@[simp] theorem startCut_kept (s : State) (set : BitVec 10) :
    (startCut s set).kept = s.kept := by
  unfold startCut; simp

@[simp] theorem deltaCut_kept (s : State) :
    (deltaCut s).kept = s.kept := by
  unfold deltaCut; (try unfold guardWrite); (try dsimp only); (repeat' split) <;> simp

@[simp] theorem dropStaging_kept (s : State) :
    (dropStaging s).kept = s.kept := by
  unfold dropStaging; (try unfold guardWrite); (try dsimp only); (repeat' split) <;> simp

@[simp] theorem deltaDelete_kept (s : State) :
    (deltaDelete s).kept = s.kept := by
  unfold deltaDelete; (try unfold guardWrite); (try dsimp only); (repeat' split) <;> simp

@[simp] theorem lapse_kept (s : State) (p : Pub) :
    (lapse s p).kept = s.kept := by
  unfold lapse; simp

@[simp] theorem failDelta_kept (s : State) (set : BitVec 10) (code : Nat × Nat) :
    (failDelta s set code).kept = s.kept := by
  unfold failDelta; (try dsimp only); (repeat' split) <;> simp

@[simp] theorem backboneLoad_kept (s : State) :
    (backboneLoad s).kept = s.kept := by
  unfold backboneLoad; (try unfold guardWrite); (try dsimp only); (repeat' split) <;> rfl

@[simp] theorem freeOther_kept (s : State) (b : BitVec 10) :
    (freeOther s b).kept = s.kept := by
  rfl

@[simp] theorem dropOther_kept (s : State) :
    (dropOther s).kept = s.kept := by
  unfold dropOther; (try unfold guardWrite); (try dsimp only); (repeat' split) <;> rfl

@[simp] theorem publishScreen_kept (s : State) (b : BitVec 10) :
    (publishScreen s b).kept = s.kept := by
  unfold publishScreen; simp

@[simp] theorem failScreen_kept (s : State) (b : BitVec 10) (code : Nat) :
    (failScreen s b code).kept = s.kept := by
  unfold failScreen; (try dsimp only); (repeat' split) <;> simp

@[simp] theorem setPendingPub_kept (s : State) (screen : Bool) (t : Nat) (p : Option Pub) :
    (setPendingPub s screen t p).kept = s.kept := by
  unfold setPendingPub; (try dsimp only); (repeat' split) <;> simp

@[simp] theorem defer_kept (s : State) (t : Nat) (v : W32) :
    (defer s t v).kept = s.kept := by
  rfl

@[simp] theorem publishSet_kept (s : State) (k : Nat) :
    (publishSet s k).kept = s.kept := by
  unfold publishSet; (try dsimp only); (repeat' split) <;> simp

@[simp] theorem publishOther_kept (s : State) (k : Nat) :
    (publishOther s k).kept = s.kept := by
  unfold publishOther; (try dsimp only); (repeat' split) <;> simp

@[simp] theorem refreshPolicies_kept (s : State) :
    (refreshPolicies s).kept = s.kept := by
  rfl

@[simp] theorem tuneTick_kept (s : State) :
    (tuneTick s).kept = s.kept := by
  unfold tuneTick
  dsimp only
  rw [refreshPolicies_kept]
  refine (foldl_kept _ (fun _ _ => by (try dsimp only); split <;> simp) _ _).trans ((kept_tune _ _).trans ?_)
  rw [foldl_kept _ (fun _ _ => publishOther_kept _ _), foldl_kept _ (fun _ _ => publishSet_kept _ _)]

@[simp] theorem tuningEnable_kept (value : Byte) (s : State) :
    (tuningEnable value s).kept = s.kept := by
  unfold tuningEnable; (try dsimp only); (repeat' split) <;> simp

@[simp] theorem initBlock_kept (s : State) (set : BitVec 10) (b : Nat) :
    (initBlock s set b).kept = s.kept := by
  unfold initBlock; (try dsimp only); (repeat' split) <;> simp [foldl_kept]

@[simp] theorem freeCalBlock_kept (s : State) (b : Nat) :
    (freeCalBlock s b).kept = s.kept := by
  rfl

@[simp] theorem setTuning_kept (value : Byte) (s : State) :
    (setTuning value s).kept = s.kept := by
  unfold setTuning; (try dsimp only); (repeat' split) <;> simp

/-! ## Functions -/

@[simp] theorem applyStart_kept (s : State) (f : Fin 64) :
    (applyStart s f).2.kept = s.kept := by
  unfold applyStart; (try dsimp only); (repeat' split) <;> simp

@[simp] theorem restartFn_kept (s : State) (f : Fin 64) :
    (restartFn s f).kept = s.kept := by
  unfold restartFn; (try dsimp only); (repeat' split) <;> simp

@[simp] theorem checkStopped_kept (s : State) (f : Fin 64) :
    (checkStopped s f).kept = s.kept := by
  unfold checkStopped; (try dsimp only); (repeat' split) <;> simp

@[simp] theorem applyStop_kept (s : State) (f : Fin 64) :
    (applyStop s f).kept = s.kept := by
  unfold applyStop; (try dsimp only); (repeat' split) <;> simp

@[simp] theorem functionStart_kept (f : Fin 64) (s : State) :
    (functionStart f s).kept = s.kept := by
  unfold functionStart; (try dsimp only); (repeat' split) <;> simp

@[simp] theorem functionStop_kept (f : Fin 64) (s : State) :
    (functionStop f s).kept = s.kept := by
  unfold functionStop; (try dsimp only); (repeat' split) <;> simp

/-! ## Tiles -/

@[simp] theorem gafferTile_kept (k : Nat) (p : Plan) (s : State) (t : Tile) :
    (gafferTile k p s t).kept = s.kept := by
  unfold gafferTile; (try unfold guardWrite); (try dsimp only); (repeat' split) <;> first | simp [kept_mk, kept_eta] | rfl

@[simp] theorem gafferPairs_kept (s : State) :
    (gafferPairs s).kept = s.kept := by
  unfold gafferPairs
  exact foldl_kept _ (fun _ _ => by
    split
    · exact foldl_kept _ (fun _ _ => by simp) _ _
    · rfl) _ _

@[simp] theorem takeItem_kept (e i : Nat) (s : State) (n : Nat) :
    (takeItem e i s n).kept = s.kept := by
  unfold takeItem; (try unfold guardWrite); (try dsimp only); (repeat' split) <;> first | simp | rfl

@[simp] theorem spaceTokens_kept (s : State) (e : Nat) (t : Tile) (ns : List Nat) :
    (spaceTokens s e t ns).kept = s.kept := by
  unfold spaceTokens; dsimp only; split
  · rfl
  · exact foldl_kept _ (fun _ _ => by split <;> simp) _ _

@[simp] theorem takeTile_kept (s : State) (e : Nat) (w : TileOf) (i : Nat) (t : Tile) :
    (takeTile s e w i t).kept = s.kept := by
  unfold takeTile; (try unfold guardWrite); (try dsimp only); (repeat' split) <;> first | simp [foldl_kept] | rfl

@[simp] theorem badSlot_kept (s : State) (e : DetErr) :
    (badSlot s e).kept = s.kept := by
  unfold badSlot; (try dsimp only); (repeat' split) <;> simp

@[simp] theorem raiseErrs_kept (errs : List DetErr) (s : State) :
    (raiseErrs errs s).kept = s.kept := by
  unfold raiseErrs; (try dsimp only); (repeat' split) <;> simp [foldl_kept]

@[simp] theorem noteTile_kept (s : State) (e : Nat) (rt : RunTile) (l : TileLoad) (r : TileRes) :
    (noteTile s e rt l r).kept = s.kept := by
  unfold noteTile; (try unfold guardWrite); (try dsimp only); (repeat' split) <;> first | simp | rfl

@[simp] theorem stashFull_kept (s : State) (b : Batch) :
    (stashFull s b).kept = s.kept := by
  rfl

@[simp] theorem stashWrite_kept (s : State) (seq : W64) (x : StashWrite) :
    (stashWrite s seq x).kept = s.kept := by
  unfold stashWrite; (try dsimp only); (repeat' split) <;> simp

@[simp] theorem freeLayer_kept (s : State) (seq : W64) (t : Tile) :
    (freeLayer s seq t).kept = s.kept := by
  unfold freeLayer; (try dsimp only); (repeat' split) <;> simp

@[simp] theorem itemDone_kept (s : State) (n : Nat) (t : Tile) (heads : List Heads) (fault : Bool) :
    (itemDone s n t heads fault).kept = s.kept := by
  unfold itemDone; (try unfold guardWrite); (try dsimp only); (repeat' split) <;> first | simp | rfl

@[simp] theorem itemsDone_kept (t : Tile) (fault : Bool) (x0 : List Nat) (x1 : List Heads) (s : State) :
    (itemsDone t fault x0 x1 s).kept = s.kept := by
  induction x0 generalizing s x1 with
  | nil => first | simp [itemsDone] | rfl
  | cons a t ih => unfold itemsDone; (try dsimp only); (repeat' split) <;> first | simp [ih] | rfl

@[simp] theorem tileDone_kept (s : State) (w : TileOf) (t : Tile) (heads : List Heads) (stash : Option StashWrite) (fault : Bool) :
    (tileDone s w t heads stash fault).kept = s.kept := by
  unfold tileDone; (try dsimp only); (repeat' split) <;> simp

/-! ## Cold -/

@[simp] theorem sendColdPage_kept (slot : Slot) (image : ColdImage) (port : Fin 8) (base : W64) (s : State) (page : Nat) :
    (sendColdPage slot image port base s page).kept = s.kept := by
  unfold sendColdPage; (try unfold guardWrite); (try dsimp only); (repeat' split) <;> first | simp [foldl_kept] | rfl

@[simp] theorem startColdMove_kept (s : State) (slot : Slot) :
    (startColdMove s slot).kept = s.kept := by
  unfold startColdMove; (try unfold guardWrite); (try dsimp only); (repeat' split) <;> first | simp [foldl_kept] | rfl

@[simp] theorem coldTick_kept (s : State) :
    (coldTick s).kept = s.kept := by
  unfold coldTick; exact foldl_kept _ (fun _ _ => by (try dsimp only); (repeat' split) <;> simp) _ _

@[simp] theorem countCopyWait_kept (s : State) (r : Nat) :
    (countCopyWait s r).kept = s.kept := by
  rfl

/-! ## Checkpoint -/

@[simp] theorem checkpointCmd_kept (fragA fragB : List Byte) (s : State) :
    (checkpointCmd fragA fragB s).kept = s.kept := by
  unfold checkpointCmd; (try unfold guardWrite); (try dsimp only); (repeat' split) <;> rfl

@[simp] theorem snapshotTick_kept (s : State) :
    (snapshotTick s).kept = s.kept := by
  unfold snapshotTick; simp only []; (repeat' split) <;> (try dsimp only) <;> (repeat' split) <;> simp [kept_mk, kept_eta, *]

@[simp] theorem closeCheckpoint_kept (s : State) (code : Byte) :
    (closeCheckpoint s code).kept = s.kept := by
  unfold closeCheckpoint; (try dsimp only); (repeat' split) <;> simp

@[simp] theorem checkpointNext_kept (s : State) :
    (checkpointNext s).kept = s.kept := by
  unfold checkpointNext; simp only []; (repeat' split) <;> (try dsimp only) <;> (repeat' split) <;> simp [kept_mk, kept_eta, *]

@[simp] theorem shardJob_kept (s : State) (b : Bool) (off len : Nat) :
    (shardJob s b off len).kept = s.kept := by
  rfl

@[simp] theorem restoreCmd_kept (s : State) :
    (restoreCmd s).kept = s.kept := by
  unfold restoreCmd; (try unfold guardWrite); (try dsimp only); (repeat' split) <;> first | simp [kept_mk, kept_eta] | rfl

@[simp] theorem readCandidate_kept (s : State) (cands : List (Bool × List Byte)) :
    (readCandidate s cands).kept = s.kept := by
  unfold readCandidate; (try dsimp only); (repeat' split) <;> simp

@[simp] theorem installSet_kept (s : State) (b : List Byte) :
    (installSet s b).1.kept = s.kept := by
  unfold installSet; (try dsimp only); (repeat' split) <;> simp

@[simp] theorem installCal_kept (s : State) (b : List Byte) :
    (installCal s b).1.kept = s.kept := by
  unfold installCal; (try dsimp only); (repeat' split) <;> simp

theorem countSkips_kept (f : State → List Byte → State × Bool) (h : ∀ s b, (f s b).1.kept = s.kept)
    (s : State × Nat) (b : List Byte) : (countSkips f s b).1.kept = s.1.kept := h _ _

@[simp] theorem installSection_kept (shard : List Byte) (s : State × Nat) (e : List Byte) :
    (installSection shard s e).1.kept = s.1.kept := by
  unfold installSection
  dsimp only
  split
  · rfl
  · exact countSkips_kept _ installSet_kept _ _
  · exact foldl_fst_kept _ (countSkips_kept _ installCal_kept) _ _
  · rfl

@[simp] theorem installShard_kept (s : State) (slot : Bool) (frag shard : List Byte) :
    (installShard s slot frag shard).kept = s.kept := by
  unfold installShard
  dsimp only
  rw [closeCheckpoint_kept, kept_ckpt, foldl_fst_kept _ (installSection_kept _)]
  split <;> simp

@[simp] theorem judgeShard_kept (s : State) (slot : Bool) (j : Job) :
    (judgeShard s slot j).kept = s.kept := by
  unfold judgeShard; (try dsimp only); (repeat' split) <;> simp

@[simp] theorem foreignAck_kept (value : W16) (s : State) :
    (foreignAck value s).kept = s.kept := by
  unfold foreignAck; (try unfold guardWrite); (try dsimp only); (repeat' split) <;> simp

/-! ## Ticks -/

@[simp] theorem judgeOverrun_kept (s : State) :
    (judgeOverrun s).kept = s.kept := by
  unfold judgeOverrun; (try unfold guardWrite); (try dsimp only); (repeat' split) <;> rfl

@[simp] theorem tickViolation_kept (s : State) (code : ViolCode) (port : BitVec 5) (a b : Nat) :
    (tickViolation s code port a b).kept = s.kept := by
  unfold tickViolation; simp

@[simp] theorem reportMisses_kept (s : State) (before : W48) :
    (reportMisses s before).kept = s.kept := by
  unfold reportMisses; exact foldl_kept _ (fun _ _ => by (try dsimp only); (repeat' split) <;> simp) _ _

@[simp] theorem freeRequest_kept (s : State) (slot : Slot) :
    (freeRequest s slot).kept = s.kept := by
  unfold freeRequest; (try unfold guardWrite); (try dsimp only); (repeat' split) <;> first | simp [foldl_kept, kept_mk, kept_eta] | rfl

@[simp] theorem freeClosing_kept (s : State) :
    (freeClosing s).kept = s.kept := by
  unfold freeClosing; (try dsimp only); (repeat' split) <;> simp [foldl_kept]

@[simp] theorem applySettings_kept (s : State) :
    (applySettings s).kept = s.kept := by
  rfl

@[simp] theorem tickEngines_kept (s : State) :
    (tickEngines s).kept = s.kept := by
  rfl

@[simp] theorem refreshItems_kept (s : State) :
    (refreshItems s).kept = s.kept := by
  rfl

@[simp] theorem startFunctions_kept (s : State) :
    (startFunctions s).kept = s.kept := by
  unfold startFunctions
  split
  · rfl
  · exact foldl_kept _ (fun _ _ => by dsimp only; split <;> simp) _ _

@[simp] theorem countBoundaries_kept (s : State) :
    (countBoundaries s).kept = s.kept := by
  rfl

@[simp] theorem retryPorts_kept (s : State) :
    (retryPorts s).kept = s.kept := by
  rfl

@[simp] theorem readConsumers_kept (s : State) :
    (readConsumers s).kept = s.kept := by
  unfold readConsumers
  dsimp only
  (repeat' split) <;> (try rw [sendRead_kept]) <;> (try rw [sendRead_kept]) <;>
    exact foldl_kept _ (fun _ _ => by split <;> simp) _ _

@[simp] theorem sampleTelemetry_kept (s : State) :
    (sampleTelemetry s).kept = s.kept := by
  unfold sampleTelemetry; (try dsimp only); (repeat' split) <;> simp

@[simp] theorem tickScales_kept (s : State) (first : Bool) (before : TickRef) :
    (tickScales s first before).kept = s.kept := by
  unfold tickScales; (try dsimp only); (repeat' split) <;> simp

@[simp] theorem serveTenant_kept (t : BitVec 14) (k n : Nat) (s : State) (left : Nat) :
    (serveTenant t k n s left).1.kept = s.kept := by
  induction n generalizing s left with
  | zero => rfl
  | succ n ih => unfold serveTenant; (repeat' split) <;> simp [ih]

@[simp] theorem tenantTurn_kept (k : Nat) (x : State × Nat) (t : BitVec 14) :
    (tenantTurn k x t).1.kept = x.1.kept := by
  unfold tenantTurn; (try dsimp only); (repeat' split) <;> simp

@[simp] theorem planRounds_kept (k : Nat) (ts : List (BitVec 14)) (n : Nat) (x : State × Nat) :
    (planRounds k ts n x).1.kept = x.1.kept := by
  induction n generalizing x with
  | zero => rfl
  | succ n ih =>
    unfold planRounds
    split
    · rw [ih, foldl_fst_kept _ (fun _ _ => tenantTurn_kept _ _ _)]
    · rfl

@[simp] theorem placeParked_kept (x : State × Nat) :
    (placeParked x).1.kept = x.1.kept := by
  unfold placeParked
  exact foldl_fst_kept _ (fun _ _ => placeItem_kept _ _) _ _

@[simp] theorem planBulk_kept (s : State) (k : Nat) :
    (planBulk s k).kept = s.kept := by
  unfold planBulk; (try unfold guardWrite); (try dsimp only); (repeat' split) <;> first | simp [kept_mk, kept_eta] | rfl

@[simp] theorem noteBacklog_kept (s : State) :
    (noteBacklog s).kept = s.kept := by
  rfl

@[simp] theorem buildPlan_kept (s : State) :
    (buildPlan s).kept = s.kept := by
  unfold buildPlan; (try unfold guardWrite); (try dsimp only); (repeat' split) <;> first | simp [kept_mk, kept_eta] | rfl

/-! ## Nmt -/

@[simp] theorem restartMarked_kept (s : State) :
    (restartMarked s).kept = s.kept := by
  unfold restartMarked; (try dsimp only); (repeat' split) <;> simp [foldl_kept]

@[simp] theorem enterOperational_kept (s : State) :
    (enterOperational s).kept = s.kept := by
  unfold enterOperational; (try unfold guardWrite); (try dsimp only); (repeat' split) <;> first | simp [kept_mk, kept_eta] | rfl

@[simp] theorem startFailed_kept (s : State) (code : ErrCode) (place : Place) (a : Nat) :
    (startFailed s code place a).kept = s.kept := by
  unfold startFailed; (try unfold guardWrite); (try dsimp only); (repeat' split) <;> first | simp [kept_mk, kept_eta] | rfl

@[simp] theorem dropProbe_kept (s : State) :
    (dropProbe s).kept = s.kept := by
  unfold dropProbe; (try dsimp only); (repeat' split) <;> simp

@[simp] theorem nmtStart_kept (s : State) :
    (nmtStart s).kept = s.kept := by
  unfold nmtStart; (try dsimp only); (repeat' split) <;> simp

@[simp] theorem leaveOperational_kept (s : State) (next : Nmt) :
    (leaveOperational s next).kept = s.kept := by
  unfold leaveOperational; (try unfold guardWrite); (try dsimp only); (repeat' split) <;> first | simp [foldl_kept, kept_mk, kept_eta] | rfl

@[simp] theorem discardEmcy_kept (s : State) :
    (discardEmcy s).kept = s.kept := by
  rfl

@[simp] theorem nmtStop_kept (s : State) :
    (nmtStop s).kept = s.kept := by
  unfold nmtStop; (try dsimp only); (repeat' split) <;> simp

@[simp] theorem nmtPreop_kept (s : State) :
    (nmtPreop s).kept = s.kept := by
  unfold nmtPreop; (try dsimp only); (repeat' split) <;> simp

@[simp] theorem nmtReset_kept (s : State) :
    (nmtReset s).kept = s.kept := by
  unfold nmtReset; (try dsimp only); (repeat' split) <;> simp

@[simp] theorem probeFailed_kept (s : State) :
    (probeFailed s).kept = s.kept := by
  unfold probeFailed; (try unfold guardWrite); (try dsimp only); (repeat' split) <;> first | simp [kept_mk, kept_eta] | rfl

@[simp] theorem forwardProbe_kept (s : State) (p : Probe) :
    (forwardProbe s p).kept = s.kept := by
  unfold forwardProbe; (try unfold guardWrite); (try dsimp only); (repeat' split) <;> first | simp [kept_mk, kept_eta] | rfl

@[simp] theorem sendFrame_kept (s : State) (f : CanFrame) :
    (sendFrame s f).kept = s.kept := by
  rfl

@[simp] theorem setTpdo_kept (s : State) (n : Nat) (v : Tpdo) :
    (setTpdo s n v).kept = s.kept := by
  rfl

end Sys2Proof.Machine
end

