-- ==== Sys2Proof/Laws/KeptDict.lean ====
section
/-! SUPPORT. What an ordinary command never touches (`State.kept`) stays the same through every operation of
the object dictionary and the transfers: one lemma per operation. -/
namespace Sys2Proof.Machine
open Sys2Proof

/-! ## Dict -/

@[simp] theorem setMgmt_kept (f : MgmtState → MgmtState) (s : State) :
    (setMgmt f s).kept = s.kept := by
  rfl

@[simp] theorem errorListWrite_kept (v : Nat) (s : State) :
    (errorListWrite v s).kept = s.kept := by
  unfold errorListWrite store; split <;> rfl

@[simp] theorem modTpdo_kept (n : Nat) (f : Tpdo → Tpdo) (s : State) :
    (modTpdo n f s).kept = s.kept := by
  rfl

@[simp] theorem mapEntry_kept (n k v : Nat) (s : State) :
    (mapEntry n k v s).kept = s.kept := by
  unfold mapEntry; (try dsimp only); (repeat' split) <;> simp

@[simp] theorem mapCount_kept (n v : Nat) (s : State) :
    (mapCount n v s).kept = s.kept := by
  unfold mapCount; (try dsimp only); (repeat' split) <;> simp

@[simp] theorem nmtWrite_kept (v : Nat) (s : State) :
    (nmtWrite v s).kept = s.kept := by
  unfold nmtWrite; (try dsimp only); (repeat' split) <;> simp

@[simp] theorem setErr_kept (f : ErrState → ErrState) (s : State) :
    (setErr f s).kept = s.kept := by
  rfl

@[simp] theorem rearmWrite_kept (v : Nat) (s : State) :
    (rearmWrite v s).kept = s.kept := by
  unfold rearmWrite store; split <;> rfl

@[simp] theorem acknowledgeWrite_kept (v : Nat) (s : State) :
    (acknowledgeWrite v s).kept = s.kept := by
  unfold acknowledgeWrite; (try unfold guardWrite); (try dsimp only); (repeat' split) <;> rfl

/-! ## Objects -/

@[simp] theorem modPlan_kept (f : Plan → Plan) (s : State) :
    (modPlan f s).kept = s.kept := by
  rfl

@[simp] theorem modRegion_kept (r : Nat) (f : Region → Region) (s : State) :
    (modRegion r f s).kept = s.kept := by
  unfold modRegion; (try dsimp only); (repeat' split) <;> simp

@[simp] theorem setStream_kept (f : StreamState → StreamState) (s : State) :
    (setStream f s).kept = s.kept := by
  rfl

@[simp] theorem setMort_kept (f : MortiseState → MortiseState) (s : State) :
    (setMort f s).kept = s.kept := by
  rfl

@[simp] theorem setWin_kept (f : MImage → MImage) (x0 : State) :
    (setWin f x0).kept = x0.kept := by
  rfl

@[simp] theorem stepWrite_kept (v : Nat) (s : State) :
    (stepWrite v s).kept = s.kept := by
  unfold stepWrite; (try dsimp only); (repeat' split) <;> simp

@[simp] theorem cursorSet_kept (f : MortiseState → MortiseState) (x0 : State) :
    (cursorSet f x0).kept = x0.kept := by
  rfl

@[simp] theorem setEngs_kept (f : EngineState → EngineState) (s : State) :
    (setEngs f s).kept = s.kept := by
  rfl

@[simp] theorem setCalS_kept (f : CalState → CalState) (s : State) :
    (setCalS f s).kept = s.kept := by
  rfl

@[simp] theorem setText_kept (f : TextState → TextState) (s : State) :
    (setText f s).kept = s.kept := by
  rfl

@[simp] theorem modVocab_kept (v : Fin 8) (f : Vocab → Vocab) (s : State) :
    (modVocab v f s).kept = s.kept := by
  rfl

@[simp] theorem modGrammar_kept (g : Fin 64) (f : Grammar → Grammar) (s : State) :
    (modGrammar g f s).kept = s.kept := by
  rfl

@[simp] theorem modStops_kept (f : StopSet → StopSet) (s : State) :
    (modStops f s).kept = s.kept := by
  rfl

/-! ## Windows -/

@[simp] theorem setTune_kept (f : TuneState → TuneState) (s : State) :
    (setTune f s).kept = s.kept := by
  rfl

@[simp] theorem modSet_kept (f : DeltaSet → DeltaSet) (s : State) :
    (modSet f s).kept = s.kept := by
  rfl

@[simp] theorem deltaCommand_kept (v : Nat) (s : State) :
    (deltaCommand v s).kept = s.kept := by
  unfold deltaCommand; (try dsimp only); (repeat' split) <;> simp

@[simp] theorem modScreen_kept (f : Screen → Screen) (s : State) :
    (modScreen f s).kept = s.kept := by
  rfl

@[simp] theorem ckptCommand_kept (v : Nat) (s : State) :
    (ckptCommand v s).kept = s.kept := by
  unfold ckptCommand
  split
  · split
    · next s' h =>
      have := checkpointCmd_kept (Config.hostFragment false s.time.freeIdx) (Config.hostFragment true s.time.freeIdx) s
      rw [h] at this
      exact this
    · exact checkpointCmd_kept _ _ _
  · exact restoreCmd_kept _
  · rfl

@[simp] theorem setCkpt_kept (f : CkptState → CkptState) (s : State) :
    (setCkpt f s).kept = s.kept := by
  rfl

@[simp] theorem ckptSlot_kept (v : Nat) (f : CkptState → CkptState) (s : State) :
    (ckptSlot v f s).kept = s.kept := by
  unfold ckptSlot; (try unfold guardWrite); (try dsimp only); (repeat' split) <;> rfl

@[simp] theorem modTenant_kept (f : Tenant → Tenant) (s : State) :
    (modTenant f s).kept = s.kept := by
  rfl

@[simp] theorem setAcct_kept (f : Accounts → Accounts) (s : State) :
    (setAcct f s).kept = s.kept := by
  rfl

@[simp] theorem tenantValid_kept (value : Byte) (s : State) :
    (tenantValid value s).kept = s.kept := by
  unfold tenantValid; (try unfold guardWrite); (try dsimp only); (repeat' split) <;> rfl

@[simp] theorem modPolicy_kept (f : Policy → Policy) (s : State) :
    (modPolicy f s).kept = s.kept := by
  rfl

@[simp] theorem policyValid_kept (v : Nat) (s : State) :
    (policyValid v s).kept = s.kept := by
  unfold policyValid; (try unfold guardWrite); (try dsimp only); (repeat' split) <;> rfl

@[simp] theorem setView_kept (f : ViewState → ViewState) (s : State) :
    (setView f s).kept = s.kept := by
  rfl

@[simp] theorem setRegionPrio_kept (r : Nat) (p : Byte) (x0 : State) :
    (setRegionPrio r p x0).kept = x0.kept := by
  rfl

@[simp] theorem setBlockPrio_kept (b : Nat) (p : Byte) (x0 : State) :
    (setBlockPrio b p x0).kept = x0.kept := by
  rfl

@[simp] theorem setCellPrio_kept (k : Nat) (p : Byte) (x0 : State) :
    (setCellPrio k p x0).kept = x0.kept := by
  rfl

/-! ## Obj -/

def Obj.Keeps (o : Obj) : Prop := ∀ w, o.write = some w → ∀ b s, (w b s).kept = s.kept

theorem ro_keeps (n v) : (ro n v).Keeps := by intro w h; cases h
theorem roW_keeps {w} (n) (v : BitVec w) : (roW n v).Keeps := by intro w h; cases h
theorem roBytes_keeps (b) : (roBytes b).Keeps := by intro w h; cases h
theorem rwIf_keeps (c n v) (f : Nat → State → WriteRes) (h : ∀ v s, (f v s).kept = s.kept) : (rwIf c n v f).Keeps := by
  intro w hw; cases hw; intro b s; exact h _ _
theorem rw__keeps (n v) (f : Nat → State → WriteRes) (h : ∀ v s, (f v s).kept = s.kept) : (rw_ n v f).Keeps :=
  rwIf_keeps _ _ _ _ h
theorem rwP_keeps (s n v) (f : Nat → State → WriteRes) (h : ∀ v s, (f v s).kept = s.kept) : (rwP s n v f).Keeps :=
  rwIf_keeps _ _ _ _ h
theorem wo_keeps (n) (f : Nat → State → WriteRes) (h : ∀ v s, (f v s).kept = s.kept) : (wo n f).Keeps := by
  intro w hw; cases hw; intro b s; exact h _ _
theorem command2_keeps (a b : State → WriteRes) (ha : ∀ s, (a s).kept = s.kept) (hb : ∀ s, (b s).kept = s.kept) :
    (command2 a b).Keeps := wo_keeps _ _ fun v s => by
  split
  · exact ha s
  · exact hb s
  · rfl
theorem store_kept (ok : Bool) (f : State → State) (s : State) (h : (f s).kept = s.kept) : (store ok f s).kept = s.kept := by
  unfold store; split
  · exact h
  · rfl
theorem guardWrite_kept (s : State) (b : Bool) (r : W16) (f : State → WriteRes) (h : (f s).kept = s.kept) :
    (guardWrite s b r f).kept = s.kept := by
  unfold guardWrite; split
  · rfl
  · exact h

def Entry.Keeps : Entry → Prop
  | .var o => o.Keeps
  | .record _ f => ∀ k o, f k = some o → o.Keeps
  | .array head f => head.Keeps ∧ ∀ k o, f k = some o → o.Keeps

theorem storeFree_kept (ok used : Bool) (f : State → State) (s : State) (h : (f s).kept = s.kept) :
    (storeFree ok used f s).kept = s.kept := by
  unfold storeFree; split
  · exact guardWrite_kept _ _ _ _ h
  · rfl

theorem unitObj_keeps (s u out) (set : Byte → State → State) (h : ∀ p s, (set p s).kept = s.kept) (k o)
    (ho : unitObj s u out set k = some o) : o.Keeps := by
  unfold unitObj at ho
  split at ho <;> cases ho
  · exact rwP_keeps _ _ _ _ fun v s => store_kept _ _ _ (h _ _)
  · exact roW_keeps _ _
  · exact roW_keeps _ _
  · exact ro_keeps _ _

theorem ringObj_keeps (s r) (set : (RingCfg → RingCfg) → State → State) (h : ∀ f s, (set f s).kept = s.kept) (k o)
    (ho : ringObj s r set k = some o) : o.Keeps := by
  unfold ringObj at ho
  split at ho <;> cases ho <;> exact rwP_keeps _ _ _ _ fun v s => store_kept _ _ _ (h _ _)

theorem obj1800_keeps (s n k o) (ho : obj1800 s n k = some o) : o.Keeps := by
  unfold obj1800 at ho
  split at ho <;> cases ho <;> exact rw__keeps _ _ _ fun v s => store_kept _ _ _ rfl

theorem obj1018_keeps (s k o) (ho : obj1018 s k = some o) : o.Keeps := by
  unfold obj1018 at ho; (try dsimp only at ho)
  (repeat' split at ho) <;> cases ho <;> first
    | exact ro_keeps _ _ | exact roW_keeps _ _ | exact roBytes_keeps _
    | (refine rw__keeps _ _ _ fun v s => store_kept _ _ _ ?_; first | rfl | simp; done)
    | (refine rwP_keeps _ _ _ _ fun v s => store_kept _ _ _ ?_; first | rfl | simp; done)
    | (refine rwIf_keeps _ _ _ _ fun v s => store_kept _ _ _ ?_; first | rfl | simp; done)
    | exact command2_keeps _ _ (fun s => by simp) (fun s => by simp)
    | (refine rw__keeps _ _ _ fun v s => ?_; first | (simp; done) | ((repeat' split) <;> first | rfl | exact guardWrite_kept _ _ _ _ rfl))
    | (refine wo_keeps _ _ fun v s => ?_; first | (simp; done) | (split <;> simp; done))
    | (refine rwIf_keeps _ _ _ _ fun v s => ?_; simp; done)

theorem obj1A00_keeps (s n k o) (ho : obj1A00 s n k = some o) : o.Keeps := by
  unfold obj1A00 at ho; (try dsimp only at ho)
  (repeat' split at ho) <;> cases ho <;> first
    | exact ro_keeps _ _ | exact roW_keeps _ _ | exact roBytes_keeps _
    | (refine rw__keeps _ _ _ fun v s => store_kept _ _ _ ?_; first | rfl | simp; done)
    | (refine rwP_keeps _ _ _ _ fun v s => store_kept _ _ _ ?_; first | rfl | simp; done)
    | (refine rwIf_keeps _ _ _ _ fun v s => store_kept _ _ _ ?_; first | rfl | simp; done)
    | exact command2_keeps _ _ (fun s => by simp) (fun s => by simp)
    | (refine rw__keeps _ _ _ fun v s => ?_; first | (simp; done) | ((repeat' split) <;> first | rfl | exact guardWrite_kept _ _ _ _ rfl))
    | (refine wo_keeps _ _ fun v s => ?_; first | (simp; done) | (split <;> simp; done))
    | (refine rwIf_keeps _ _ _ _ fun v s => ?_; simp; done)

theorem obj2001_keeps (s k o) (ho : obj2001 s k = some o) : o.Keeps := by
  unfold obj2001 at ho; (try dsimp only at ho)
  (repeat' split at ho) <;> cases ho <;> first
    | exact ro_keeps _ _ | exact roW_keeps _ _ | exact roBytes_keeps _
    | (refine rw__keeps _ _ _ fun v s => store_kept _ _ _ ?_; first | rfl | simp; done)
    | (refine rwP_keeps _ _ _ _ fun v s => store_kept _ _ _ ?_; first | rfl | simp; done)
    | (refine rwIf_keeps _ _ _ _ fun v s => store_kept _ _ _ ?_; first | rfl | simp; done)
    | exact command2_keeps _ _ (fun s => by simp) (fun s => by simp)
    | (refine rw__keeps _ _ _ fun v s => ?_; first | (simp; done) | ((repeat' split) <;> first | rfl | exact guardWrite_kept _ _ _ _ rfl))
    | (refine wo_keeps _ _ fun v s => ?_; first | (simp; done) | (split <;> simp; done))
    | (refine rwIf_keeps _ _ _ _ fun v s => ?_; simp; done)

theorem obj2003_keeps (s path k o) (ho : obj2003 s path k = some o) : o.Keeps := by
  unfold obj2003 at ho; (try dsimp only at ho)
  (repeat' split at ho) <;> cases ho <;> first
    | exact ro_keeps _ _ | exact roW_keeps _ _ | exact roBytes_keeps _
    | (refine rw__keeps _ _ _ fun v s => store_kept _ _ _ ?_; first | rfl | simp; done)
    | (refine rwP_keeps _ _ _ _ fun v s => store_kept _ _ _ ?_; first | rfl | simp; done)
    | (refine rwIf_keeps _ _ _ _ fun v s => store_kept _ _ _ ?_; first | rfl | simp; done)
    | exact command2_keeps _ _ (fun s => by simp) (fun s => by simp)
    | (refine rw__keeps _ _ _ fun v s => ?_; first | (simp; done) | ((repeat' split) <;> first | rfl | exact guardWrite_kept _ _ _ _ rfl))
    | (refine wo_keeps _ _ fun v s => ?_; first | (simp; done) | (split <;> simp; done))
    | (refine rwIf_keeps _ _ _ _ fun v s => ?_; simp; done)

theorem obj2004_keeps (s k o) (ho : obj2004 s k = some o) : o.Keeps := by
  unfold obj2004 at ho; (try dsimp only at ho)
  (repeat' split at ho) <;> cases ho <;> first
    | exact ro_keeps _ _ | exact roW_keeps _ _ | exact roBytes_keeps _
    | (refine rw__keeps _ _ _ fun v s => store_kept _ _ _ ?_; first | rfl | simp; done)
    | (refine rwP_keeps _ _ _ _ fun v s => store_kept _ _ _ ?_; first | rfl | simp; done)
    | (refine rwIf_keeps _ _ _ _ fun v s => store_kept _ _ _ ?_; first | rfl | simp; done)
    | exact command2_keeps _ _ (fun s => by simp) (fun s => by simp)
    | (refine rw__keeps _ _ _ fun v s => ?_; first | (simp; done) | ((repeat' split) <;> first | rfl | exact guardWrite_kept _ _ _ _ rfl))
    | (refine wo_keeps _ _ fun v s => ?_; first | (simp; done) | (split <;> simp; done))
    | (refine rwIf_keeps _ _ _ _ fun v s => ?_; simp; done)

theorem objAbort_keeps (d k o) (ho : objAbort d k = some o) : o.Keeps := by
  unfold objAbort at ho; (try dsimp only at ho)
  (repeat' split at ho) <;> cases ho <;> first
    | exact ro_keeps _ _ | exact roW_keeps _ _ | exact roBytes_keeps _
    | (refine rw__keeps _ _ _ fun v s => store_kept _ _ _ ?_; first | rfl | simp; done)
    | (refine rwP_keeps _ _ _ _ fun v s => store_kept _ _ _ ?_; first | rfl | simp; done)
    | (refine rwIf_keeps _ _ _ _ fun v s => store_kept _ _ _ ?_; first | rfl | simp; done)
    | exact command2_keeps _ _ (fun s => by simp) (fun s => by simp)
    | (refine rw__keeps _ _ _ fun v s => ?_; first | (simp; done) | ((repeat' split) <;> first | rfl | exact guardWrite_kept _ _ _ _ rfl))
    | (refine wo_keeps _ _ fun v s => ?_; first | (simp; done) | (split <;> simp; done))
    | (refine rwIf_keeps _ _ _ _ fun v s => ?_; simp; done)

theorem obj2010_keeps (s k o) (ho : obj2010 s k = some o) : o.Keeps := by
  unfold obj2010 at ho; (try dsimp only at ho)
  (repeat' split at ho) <;> cases ho <;> first
    | exact ro_keeps _ _ | exact roW_keeps _ _ | exact roBytes_keeps _
    | (refine rw__keeps _ _ _ fun v s => store_kept _ _ _ ?_; first | rfl | simp; done)
    | (refine rwP_keeps _ _ _ _ fun v s => store_kept _ _ _ ?_; first | rfl | simp; done)
    | (refine rwIf_keeps _ _ _ _ fun v s => store_kept _ _ _ ?_; first | rfl | simp; done)
    | exact command2_keeps _ _ (fun s => by simp) (fun s => by simp)
    | (refine rw__keeps _ _ _ fun v s => ?_; first | (simp; done) | ((repeat' split) <;> first | rfl | exact guardWrite_kept _ _ _ _ rfl))
    | (refine wo_keeps _ _ fun v s => ?_; first | (simp; done) | (split <;> simp; done))
    | (refine rwIf_keeps _ _ _ _ fun v s => ?_; simp; done)

theorem obj2011_keeps (s k o) (ho : obj2011 s k = some o) : o.Keeps := by
  unfold obj2011 at ho; (try dsimp only at ho)
  (repeat' split at ho) <;> cases ho <;> first
    | exact ro_keeps _ _ | exact roW_keeps _ _ | exact roBytes_keeps _
    | (refine rw__keeps _ _ _ fun v s => store_kept _ _ _ ?_; first | rfl | simp; done)
    | (refine rwP_keeps _ _ _ _ fun v s => store_kept _ _ _ ?_; first | rfl | simp; done)
    | (refine rwIf_keeps _ _ _ _ fun v s => store_kept _ _ _ ?_; first | rfl | simp; done)
    | exact command2_keeps _ _ (fun s => by simp) (fun s => by simp)
    | (refine rw__keeps _ _ _ fun v s => ?_; first | (simp; done) | ((repeat' split) <;> first | rfl | exact guardWrite_kept _ _ _ _ rfl))
    | (refine wo_keeps _ _ fun v s => ?_; first | (simp; done) | (split <;> simp; done))
    | (refine rwIf_keeps _ _ _ _ fun v s => ?_; simp; done)

theorem obj2020_keeps (s k o) (ho : obj2020 s k = some o) : o.Keeps := by
  unfold obj2020 at ho; (try dsimp only at ho)
  (repeat' split at ho) <;> cases ho <;> first
    | exact ro_keeps _ _ | exact roW_keeps _ _ | exact roBytes_keeps _
    | (refine rw__keeps _ _ _ fun v s => store_kept _ _ _ ?_; first | rfl | simp; done)
    | (refine rwP_keeps _ _ _ _ fun v s => store_kept _ _ _ ?_; first | rfl | simp; done)
    | (refine rwIf_keeps _ _ _ _ fun v s => store_kept _ _ _ ?_; first | rfl | simp; done)
    | exact command2_keeps _ _ (fun s => by simp) (fun s => by simp)
    | (refine rw__keeps _ _ _ fun v s => ?_; first | (simp; done) | ((repeat' split) <;> first | rfl | exact guardWrite_kept _ _ _ _ rfl))
    | (refine wo_keeps _ _ fun v s => ?_; first | (simp; done) | (split <;> simp; done))
    | (refine rwIf_keeps _ _ _ _ fun v s => ?_; simp; done)

theorem obj2030_keeps (s k o) (ho : obj2030 s k = some o) : o.Keeps := by
  unfold obj2030 at ho; (try dsimp only at ho)
  (repeat' split at ho) <;> cases ho <;> first
    | exact ro_keeps _ _ | exact roW_keeps _ _ | exact roBytes_keeps _
    | (refine rw__keeps _ _ _ fun v s => store_kept _ _ _ ?_; first | rfl | simp; done)
    | (refine rwP_keeps _ _ _ _ fun v s => store_kept _ _ _ ?_; first | rfl | simp; done)
    | (refine rwIf_keeps _ _ _ _ fun v s => store_kept _ _ _ ?_; first | rfl | simp; done)
    | exact command2_keeps _ _ (fun s => by simp) (fun s => by simp)
    | (refine rw__keeps _ _ _ fun v s => ?_; first | (simp; done) | ((repeat' split) <;> first | rfl | exact guardWrite_kept _ _ _ _ rfl))
    | (refine wo_keeps _ _ fun v s => ?_; first | (simp; done) | (split <;> simp; done))
    | (refine rwIf_keeps _ _ _ _ fun v s => ?_; simp; done)

theorem obj2901_keeps (s k o) (ho : obj2901 s k = some o) : o.Keeps := by
  unfold obj2901 at ho; (try dsimp only at ho)
  (repeat' split at ho) <;> cases ho <;> first
    | exact ro_keeps _ _ | exact roW_keeps _ _ | exact roBytes_keeps _
    | (refine rw__keeps _ _ _ fun v s => store_kept _ _ _ ?_; first | rfl | simp; done)
    | (refine rwP_keeps _ _ _ _ fun v s => store_kept _ _ _ ?_; first | rfl | simp; done)
    | (refine rwIf_keeps _ _ _ _ fun v s => store_kept _ _ _ ?_; first | rfl | simp; done)
    | exact command2_keeps _ _ (fun s => by simp) (fun s => by simp)
    | (refine rw__keeps _ _ _ fun v s => ?_; first | (simp; done) | ((repeat' split) <;> first | rfl | exact guardWrite_kept _ _ _ _ rfl))
    | (refine wo_keeps _ _ fun v s => ?_; first | (simp; done) | (split <;> simp; done))
    | (refine rwIf_keeps _ _ _ _ fun v s => ?_; simp; done)

theorem obj2905_keeps (s k o) (ho : obj2905 s k = some o) : o.Keeps := by
  unfold obj2905 at ho; (try dsimp only at ho)
  split at ho
  all_goals first | (cases ho; exact roW_keeps _ _) | (refine ringObj_keeps _ _ _ ?_ _ _ ho; exact fun _ _ => rfl)

theorem obj2910_keeps (s k o) (ho : obj2910 s k = some o) : o.Keeps := by
  unfold obj2910 at ho; (try dsimp only at ho)
  (repeat' split at ho) <;> cases ho <;> first
    | exact ro_keeps _ _ | exact roW_keeps _ _ | exact roBytes_keeps _
    | (refine rw__keeps _ _ _ fun v s => store_kept _ _ _ ?_; first | rfl | simp; done)
    | (refine rwP_keeps _ _ _ _ fun v s => store_kept _ _ _ ?_; first | rfl | simp; done)
    | (refine rwIf_keeps _ _ _ _ fun v s => store_kept _ _ _ ?_; first | rfl | simp; done)
    | exact command2_keeps _ _ (fun s => by simp) (fun s => by simp)
    | (refine rw__keeps _ _ _ fun v s => ?_; first | (simp; done) | ((repeat' split) <;> first | rfl | exact guardWrite_kept _ _ _ _ rfl))
    | (refine wo_keeps _ _ fun v s => ?_; first | (simp; done) | (split <;> simp; done))
    | (refine rwIf_keeps _ _ _ _ fun v s => ?_; simp; done)

theorem obj2A00_keeps (s k o) (ho : obj2A00 s k = some o) : o.Keeps := by
  unfold obj2A00 at ho; (try dsimp only at ho)
  (repeat' split at ho) <;> cases ho <;> first
    | exact ro_keeps _ _ | exact roW_keeps _ _ | exact roBytes_keeps _
    | (refine rw__keeps _ _ _ fun v s => store_kept _ _ _ ?_; first | rfl | simp; done)
    | (refine rwP_keeps _ _ _ _ fun v s => store_kept _ _ _ ?_; first | rfl | simp; done)
    | (refine rwIf_keeps _ _ _ _ fun v s => store_kept _ _ _ ?_; first | rfl | simp; done)
    | exact command2_keeps _ _ (fun s => by simp) (fun s => by simp)
    | (refine rw__keeps _ _ _ fun v s => ?_; first | (simp; done) | ((repeat' split) <;> first | rfl | exact guardWrite_kept _ _ _ _ rfl))
    | (refine wo_keeps _ _ fun v s => ?_; first | (simp; done) | (split <;> simp; done))
    | (refine rwIf_keeps _ _ _ _ fun v s => ?_; simp; done)

theorem obj2A10_keeps (s k o) (ho : obj2A10 s k = some o) : o.Keeps := by
  unfold obj2A10 at ho; (try dsimp only at ho)
  (repeat' split at ho) <;> cases ho <;> first
    | exact ro_keeps _ _ | exact roW_keeps _ _ | exact roBytes_keeps _
    | (refine rw__keeps _ _ _ fun v s => store_kept _ _ _ ?_; first | rfl | simp; done)
    | (refine rwP_keeps _ _ _ _ fun v s => store_kept _ _ _ ?_; first | rfl | simp; done)
    | (refine rwIf_keeps _ _ _ _ fun v s => store_kept _ _ _ ?_; first | rfl | simp; done)
    | exact command2_keeps _ _ (fun s => by simp) (fun s => by simp)
    | (refine rw__keeps _ _ _ fun v s => ?_; first | (simp; done) | ((repeat' split) <;> first | rfl | exact guardWrite_kept _ _ _ _ rfl))
    | (refine wo_keeps _ _ fun v s => ?_; first | (simp; done) | (split <;> simp; done))
    | (refine rwIf_keeps _ _ _ _ fun v s => ?_; simp; done)

theorem obj2100_keeps (s e k o) (ho : obj2100 s e k = some o) : o.Keeps := by
  unfold obj2100 at ho; (try dsimp only at ho)
  (repeat' split at ho) <;> cases ho <;> first
    | exact ro_keeps _ _ | exact roW_keeps _ _ | exact roBytes_keeps _
    | (refine rw__keeps _ _ _ fun v s => store_kept _ _ _ ?_; first | rfl | simp; done)
    | (refine rwP_keeps _ _ _ _ fun v s => store_kept _ _ _ ?_; first | rfl | simp; done)
    | (refine rwIf_keeps _ _ _ _ fun v s => store_kept _ _ _ ?_; first | rfl | simp; done)
    | exact command2_keeps _ _ (fun s => by simp) (fun s => by simp)
    | (refine rw__keeps _ _ _ fun v s => ?_; first | (simp; done) | ((repeat' split) <;> first | rfl | exact guardWrite_kept _ _ _ _ rfl))
    | (refine wo_keeps _ _ fun v s => ?_; first | (simp; done) | (split <;> simp; done))
    | (refine rwIf_keeps _ _ _ _ fun v s => ?_; simp; done)

theorem obj2140_keeps (s k o) (ho : obj2140 s k = some o) : o.Keeps := by
  unfold obj2140 at ho; (try dsimp only at ho)
  (repeat' split at ho) <;> cases ho <;> first
    | exact ro_keeps _ _ | exact roW_keeps _ _ | exact roBytes_keeps _
    | (refine rw__keeps _ _ _ fun v s => store_kept _ _ _ ?_; first | rfl | simp; done)
    | (refine rwP_keeps _ _ _ _ fun v s => store_kept _ _ _ ?_; first | rfl | simp; done)
    | (refine rwIf_keeps _ _ _ _ fun v s => store_kept _ _ _ ?_; first | rfl | simp; done)
    | exact command2_keeps _ _ (fun s => by simp) (fun s => by simp)
    | (refine rw__keeps _ _ _ fun v s => ?_; first | (simp; done) | ((repeat' split) <;> first | rfl | exact guardWrite_kept _ _ _ _ rfl))
    | (refine wo_keeps _ _ fun v s => ?_; first | (simp; done) | (split <;> simp; done))
    | (refine rwIf_keeps _ _ _ _ fun v s => ?_; simp; done)

theorem obj2200_keeps (s r k o) (ho : obj2200 s r k = some o) : o.Keeps := by
  unfold obj2200 at ho; (try dsimp only at ho)
  (repeat' split at ho) <;> cases ho <;> first
    | exact ro_keeps _ _ | exact roW_keeps _ _ | exact roBytes_keeps _
    | (refine rw__keeps _ _ _ fun v s => store_kept _ _ _ ?_; first | rfl | simp; done)
    | (refine rwP_keeps _ _ _ _ fun v s => store_kept _ _ _ ?_; first | rfl | simp; done)
    | (refine rwIf_keeps _ _ _ _ fun v s => store_kept _ _ _ ?_; first | rfl | simp; done)
    | exact command2_keeps _ _ (fun s => by simp) (fun s => by simp)
    | (refine rw__keeps _ _ _ fun v s => ?_; first | (simp; done) | ((repeat' split) <;> first | rfl | exact guardWrite_kept _ _ _ _ rfl))
    | (refine wo_keeps _ _ fun v s => ?_; first | (simp; done) | (split <;> simp; done))
    | (refine rwIf_keeps _ _ _ _ fun v s => ?_; simp; done)

theorem obj2210_keeps (s k o) (ho : obj2210 s k = some o) : o.Keeps := by
  unfold obj2210 at ho; (try dsimp only at ho)
  (repeat' split at ho) <;> cases ho <;> first
    | exact ro_keeps _ _ | exact roW_keeps _ _ | exact roBytes_keeps _
    | (refine rw__keeps _ _ _ fun v s => store_kept _ _ _ ?_; first | rfl | simp; done)
    | (refine rwP_keeps _ _ _ _ fun v s => store_kept _ _ _ ?_; first | rfl | simp; done)
    | (refine rwIf_keeps _ _ _ _ fun v s => store_kept _ _ _ ?_; first | rfl | simp; done)
    | exact command2_keeps _ _ (fun s => by simp) (fun s => by simp)
    | (refine rw__keeps _ _ _ fun v s => ?_; first | (simp; done) | ((repeat' split) <;> first | rfl | exact guardWrite_kept _ _ _ _ rfl))
    | (refine wo_keeps _ _ fun v s => ?_; first | (simp; done) | (split <;> simp; done))
    | (refine rwIf_keeps _ _ _ _ fun v s => ?_; simp; done)

theorem obj2211_keeps (s k o) (ho : obj2211 s k = some o) : o.Keeps := by
  unfold obj2211 at ho; (try dsimp only at ho)
  (repeat' split at ho) <;> cases ho <;> first
    | exact ro_keeps _ _ | exact roW_keeps _ _ | exact roBytes_keeps _
    | (refine rw__keeps _ _ _ fun v s => store_kept _ _ _ ?_; first | rfl | simp; done)
    | (refine rwP_keeps _ _ _ _ fun v s => store_kept _ _ _ ?_; first | rfl | simp; done)
    | (refine rwIf_keeps _ _ _ _ fun v s => store_kept _ _ _ ?_; first | rfl | simp; done)
    | exact command2_keeps _ _ (fun s => by simp) (fun s => by simp)
    | (refine rw__keeps _ _ _ fun v s => ?_; first | (simp; done) | ((repeat' split) <;> first | rfl | exact guardWrite_kept _ _ _ _ rfl))
    | (refine wo_keeps _ _ fun v s => ?_; first | (simp; done) | (split <;> simp; done))
    | (refine rwIf_keeps _ _ _ _ fun v s => ?_; simp; done)

theorem obj2300_keeps (p k o) (ho : obj2300 p k = some o) : o.Keeps := by
  unfold obj2300 at ho; (try dsimp only at ho)
  (repeat' split at ho) <;> cases ho <;> first
    | exact ro_keeps _ _ | exact roW_keeps _ _ | exact roBytes_keeps _
    | (refine rw__keeps _ _ _ fun v s => store_kept _ _ _ ?_; first | rfl | simp; done)
    | (refine rwP_keeps _ _ _ _ fun v s => store_kept _ _ _ ?_; first | rfl | simp; done)
    | (refine rwIf_keeps _ _ _ _ fun v s => store_kept _ _ _ ?_; first | rfl | simp; done)
    | exact command2_keeps _ _ (fun s => by simp) (fun s => by simp)
    | (refine rw__keeps _ _ _ fun v s => ?_; first | (simp; done) | ((repeat' split) <;> first | rfl | exact guardWrite_kept _ _ _ _ rfl))
    | (refine wo_keeps _ _ fun v s => ?_; first | (simp; done) | (split <;> simp; done))
    | (refine rwIf_keeps _ _ _ _ fun v s => ?_; simp; done)

theorem obj2308_keeps (s k o) (ho : obj2308 s k = some o) : o.Keeps := by
  unfold obj2308 at ho; (try dsimp only at ho)
  (repeat' split at ho) <;> cases ho <;> first
    | exact ro_keeps _ _ | exact roW_keeps _ _ | exact roBytes_keeps _
    | (refine rw__keeps _ _ _ fun v s => store_kept _ _ _ ?_; first | rfl | simp; done)
    | (refine rwP_keeps _ _ _ _ fun v s => store_kept _ _ _ ?_; first | rfl | simp; done)
    | (refine rwIf_keeps _ _ _ _ fun v s => store_kept _ _ _ ?_; first | rfl | simp; done)
    | exact command2_keeps _ _ (fun s => by simp) (fun s => by simp)
    | (refine rw__keeps _ _ _ fun v s => ?_; first | (simp; done) | ((repeat' split) <;> first | rfl | exact guardWrite_kept _ _ _ _ rfl))
    | (refine wo_keeps _ _ fun v s => ?_; first | (simp; done) | (split <;> simp; done))
    | (refine rwIf_keeps _ _ _ _ fun v s => ?_; simp; done)

theorem obj2400_keeps (s k o) (ho : obj2400 s k = some o) : o.Keeps := by
  unfold obj2400 at ho; (try dsimp only at ho)
  (repeat' split at ho) <;> cases ho <;> first
    | exact ro_keeps _ _ | exact roW_keeps _ _ | exact roBytes_keeps _
    | (refine rw__keeps _ _ _ fun v s => store_kept _ _ _ ?_; first | rfl | simp; done)
    | (refine rwP_keeps _ _ _ _ fun v s => store_kept _ _ _ ?_; first | rfl | simp; done)
    | (refine rwIf_keeps _ _ _ _ fun v s => store_kept _ _ _ ?_; first | rfl | simp; done)
    | exact command2_keeps _ _ (fun s => by simp) (fun s => by simp)
    | (refine rw__keeps _ _ _ fun v s => ?_; first | (simp; done) | ((repeat' split) <;> first | rfl | exact guardWrite_kept _ _ _ _ rfl))
    | (refine wo_keeps _ _ fun v s => ?_; first | (simp; done) | (split <;> simp; done))
    | (refine rwIf_keeps _ _ _ _ fun v s => ?_; simp; done)

theorem obj2401_keeps (s k o) (ho : obj2401 s k = some o) : o.Keeps := by
  unfold obj2401 at ho; (try dsimp only at ho)
  (repeat' split at ho) <;> cases ho <;> first
    | exact ro_keeps _ _ | exact roW_keeps _ _ | exact roBytes_keeps _
    | (refine rw__keeps _ _ _ fun v s => store_kept _ _ _ ?_; first | rfl | simp; done)
    | (refine rwP_keeps _ _ _ _ fun v s => store_kept _ _ _ ?_; first | rfl | simp; done)
    | (refine rwIf_keeps _ _ _ _ fun v s => store_kept _ _ _ ?_; first | rfl | simp; done)
    | exact command2_keeps _ _ (fun s => by simp) (fun s => by simp)
    | (refine rw__keeps _ _ _ fun v s => ?_; first | (simp; done) | ((repeat' split) <;> first | rfl | exact guardWrite_kept _ _ _ _ rfl))
    | (refine wo_keeps _ _ fun v s => ?_; first | (simp; done) | (split <;> simp; done))
    | (refine rwIf_keeps _ _ _ _ fun v s => ?_; simp; done)

theorem obj2402_keeps (s k o) (ho : obj2402 s k = some o) : o.Keeps := by
  unfold obj2402 at ho; (try dsimp only at ho)
  (repeat' split at ho) <;> cases ho <;> first
    | exact ro_keeps _ _ | exact roW_keeps _ _ | exact roBytes_keeps _
    | (refine rw__keeps _ _ _ fun v s => store_kept _ _ _ ?_; first | rfl | simp; done)
    | (refine rwP_keeps _ _ _ _ fun v s => store_kept _ _ _ ?_; first | rfl | simp; done)
    | (refine rwIf_keeps _ _ _ _ fun v s => store_kept _ _ _ ?_; first | rfl | simp; done)
    | exact command2_keeps _ _ (fun s => by simp) (fun s => by simp)
    | (refine rw__keeps _ _ _ fun v s => ?_; first | (simp; done) | ((repeat' split) <;> first | rfl | exact guardWrite_kept _ _ _ _ rfl))
    | (refine wo_keeps _ _ fun v s => ?_; first | (simp; done) | (split <;> simp; done))
    | (refine rwIf_keeps _ _ _ _ fun v s => ?_; simp; done)

theorem obj2403_keeps (s k o) (ho : obj2403 s k = some o) : o.Keeps := by
  unfold obj2403 at ho; (try dsimp only at ho)
  (repeat' split at ho) <;> cases ho <;> first
    | exact ro_keeps _ _ | exact roW_keeps _ _ | exact roBytes_keeps _
    | (refine rw__keeps _ _ _ fun v s => store_kept _ _ _ ?_; first | rfl | simp; done)
    | (refine rwP_keeps _ _ _ _ fun v s => store_kept _ _ _ ?_; first | rfl | simp; done)
    | (refine rwIf_keeps _ _ _ _ fun v s => store_kept _ _ _ ?_; first | rfl | simp; done)
    | exact command2_keeps _ _ (fun s => by simp) (fun s => by simp)
    | (refine rw__keeps _ _ _ fun v s => ?_; first | (simp; done) | ((repeat' split) <;> first | rfl | exact guardWrite_kept _ _ _ _ rfl))
    | (refine wo_keeps _ _ fun v s => ?_; first | (simp; done) | (split <;> simp; done))
    | (refine rwIf_keeps _ _ _ _ fun v s => ?_; simp; done)

theorem obj2404_keeps (s k o) (ho : obj2404 s k = some o) : o.Keeps := by
  unfold obj2404 at ho; (try dsimp only at ho)
  (repeat' split at ho) <;> cases ho <;> first
    | exact ro_keeps _ _ | exact roW_keeps _ _ | exact roBytes_keeps _
    | (refine rw__keeps _ _ _ fun v s => store_kept _ _ _ ?_; first | rfl | simp; done)
    | (refine rwP_keeps _ _ _ _ fun v s => store_kept _ _ _ ?_; first | rfl | simp; done)
    | (refine rwIf_keeps _ _ _ _ fun v s => store_kept _ _ _ ?_; first | rfl | simp; done)
    | exact command2_keeps _ _ (fun s => by simp) (fun s => by simp)
    | (refine rw__keeps _ _ _ fun v s => ?_; first | (simp; done) | ((repeat' split) <;> first | rfl | exact guardWrite_kept _ _ _ _ rfl))
    | (refine wo_keeps _ _ fun v s => ?_; first | (simp; done) | (split <;> simp; done))
    | (refine rwIf_keeps _ _ _ _ fun v s => ?_; simp; done)

theorem obj2410_keeps (s k o) (ho : obj2410 s k = some o) : o.Keeps := by
  unfold obj2410 at ho; (try dsimp only at ho)
  (repeat' split at ho) <;> cases ho <;> first
    | exact ro_keeps _ _ | exact roW_keeps _ _ | exact roBytes_keeps _
    | (refine rw__keeps _ _ _ fun v s => store_kept _ _ _ ?_; first | rfl | simp; done)
    | (refine rwP_keeps _ _ _ _ fun v s => store_kept _ _ _ ?_; first | rfl | simp; done)
    | (refine rwIf_keeps _ _ _ _ fun v s => store_kept _ _ _ ?_; first | rfl | simp; done)
    | exact command2_keeps _ _ (fun s => by simp) (fun s => by simp)
    | (refine rw__keeps _ _ _ fun v s => ?_; first | (simp; done) | ((repeat' split) <;> first | rfl | exact guardWrite_kept _ _ _ _ rfl))
    | (refine wo_keeps _ _ fun v s => ?_; first | (simp; done) | (split <;> simp; done))
    | (refine rwIf_keeps _ _ _ _ fun v s => ?_; simp; done)

theorem obj2503_keeps (s k o) (ho : obj2503 s k = some o) : o.Keeps := by
  unfold obj2503 at ho; (try dsimp only at ho)
  (repeat' split at ho) <;> cases ho <;> first
    | exact ro_keeps _ _ | exact roW_keeps _ _ | exact roBytes_keeps _
    | (refine rw__keeps _ _ _ fun v s => store_kept _ _ _ ?_; first | rfl | simp; done)
    | (refine rwP_keeps _ _ _ _ fun v s => store_kept _ _ _ ?_; first | rfl | simp; done)
    | (refine rwIf_keeps _ _ _ _ fun v s => store_kept _ _ _ ?_; first | rfl | simp; done)
    | exact command2_keeps _ _ (fun s => by simp) (fun s => by simp)
    | (refine rw__keeps _ _ _ fun v s => ?_; first | (simp; done) | ((repeat' split) <;> first | rfl | exact guardWrite_kept _ _ _ _ rfl))
    | (refine wo_keeps _ _ fun v s => ?_; first | (simp; done) | (split <;> simp; done))
    | (refine rwIf_keeps _ _ _ _ fun v s => ?_; simp; done)

theorem obj2510_keeps (s k o) (ho : obj2510 s k = some o) : o.Keeps := by
  unfold obj2510 at ho; (try dsimp only at ho)
  split at ho
  all_goals first | (cases ho; exact roW_keeps _ _) | (refine ringObj_keeps _ _ _ ?_ _ _ ho; exact fun _ _ => rfl)

theorem obj2520_keeps (s k o) (ho : obj2520 s k = some o) : o.Keeps := by
  unfold obj2520 at ho; (try dsimp only at ho)
  (repeat' split at ho) <;> cases ho <;> first
    | exact ro_keeps _ _ | exact roW_keeps _ _ | exact roBytes_keeps _
    | (refine rw__keeps _ _ _ fun v s => store_kept _ _ _ ?_; first | rfl | simp; done)
    | (refine rwP_keeps _ _ _ _ fun v s => store_kept _ _ _ ?_; first | rfl | simp; done)
    | (refine rwIf_keeps _ _ _ _ fun v s => store_kept _ _ _ ?_; first | rfl | simp; done)
    | exact command2_keeps _ _ (fun s => by simp) (fun s => by simp)
    | (refine rw__keeps _ _ _ fun v s => ?_; first | (simp; done) | ((repeat' split) <;> first | rfl | exact guardWrite_kept _ _ _ _ rfl))
    | (refine wo_keeps _ _ fun v s => ?_; first | (simp; done) | (split <;> simp; done))
    | (refine rwIf_keeps _ _ _ _ fun v s => ?_; simp; done)

theorem obj2610_keeps (s v k o) (ho : obj2610 s v k = some o) : o.Keeps := by
  unfold obj2610 at ho; (try dsimp only at ho)
  (repeat' split at ho) <;> cases ho <;> first
    | exact ro_keeps _ _ | exact roW_keeps _ _ | exact roBytes_keeps _
    | (refine rw__keeps _ _ _ fun v s => store_kept _ _ _ ?_; first | rfl | simp; done)
    | (refine rwP_keeps _ _ _ _ fun v s => store_kept _ _ _ ?_; first | rfl | simp; done)
    | (refine rwIf_keeps _ _ _ _ fun v s => store_kept _ _ _ ?_; first | rfl | simp; done)
    | exact rw__keeps _ _ _ fun v s => storeFree_kept _ _ _ _ rfl
    | exact command2_keeps _ _ (fun s => by simp) (fun s => by simp)
    | (refine rw__keeps _ _ _ fun v s => ?_; first | (simp; done) | ((repeat' split) <;> first | rfl | exact guardWrite_kept _ _ _ _ rfl))
    | (refine wo_keeps _ _ fun v s => ?_; first | (simp; done) | (split <;> simp; done))
    | (refine rwIf_keeps _ _ _ _ fun v s => ?_; simp; done)

theorem obj2620_keeps (s g k o) (ho : obj2620 s g k = some o) : o.Keeps := by
  unfold obj2620 at ho; (try dsimp only at ho)
  (repeat' split at ho) <;> cases ho <;> first
    | exact ro_keeps _ _ | exact roW_keeps _ _ | exact roBytes_keeps _
    | (refine rw__keeps _ _ _ fun v s => store_kept _ _ _ ?_; first | rfl | simp; done)
    | (refine rwP_keeps _ _ _ _ fun v s => store_kept _ _ _ ?_; first | rfl | simp; done)
    | (refine rwIf_keeps _ _ _ _ fun v s => store_kept _ _ _ ?_; first | rfl | simp; done)
    | exact rw__keeps _ _ _ fun v s => storeFree_kept _ _ _ _ rfl
    | exact command2_keeps _ _ (fun s => by simp) (fun s => by simp)
    | (refine rw__keeps _ _ _ fun v s => ?_; first | (simp; done) | ((repeat' split) <;> first | rfl | exact guardWrite_kept _ _ _ _ rfl))
    | (refine wo_keeps _ _ fun v s => ?_; first | (simp; done) | (split <;> simp; done))
    | (refine rwIf_keeps _ _ _ _ fun v s => ?_; simp; done)

theorem obj2660_keeps (s k o) (ho : obj2660 s k = some o) : o.Keeps := by
  unfold obj2660 at ho; (try dsimp only at ho)
  split at ho <;> cases ho
  · exact rw__keeps _ _ _ fun v s => store_kept _ _ _ rfl
  · refine rw__keeps _ _ _ fun v s => ?_
    split
    · rfl
    · exact guardWrite_kept _ _ _ _ rfl
  · intro w hw; cases hw; intro b s; dsimp only
    split
    · rfl
    · exact guardWrite_kept _ _ _ _ rfl
  · exact ro_keeps _ _

theorem obj2680_keeps (s k o) (ho : obj2680 s k = some o) : o.Keeps := by
  unfold obj2680 at ho; (try dsimp only at ho)
  (repeat' split at ho) <;> cases ho <;> first
    | exact ro_keeps _ _ | exact roW_keeps _ _ | exact roBytes_keeps _
    | (refine rw__keeps _ _ _ fun v s => store_kept _ _ _ ?_; first | rfl | simp; done)
    | (refine rwP_keeps _ _ _ _ fun v s => store_kept _ _ _ ?_; first | rfl | simp; done)
    | (refine rwIf_keeps _ _ _ _ fun v s => store_kept _ _ _ ?_; first | rfl | simp; done)
    | exact command2_keeps _ _ (fun s => by simp) (fun s => by simp)
    | (refine rw__keeps _ _ _ fun v s => ?_; first | (simp; done) | ((repeat' split) <;> first | rfl | exact guardWrite_kept _ _ _ _ rfl))
    | (refine wo_keeps _ _ fun v s => ?_; first | (simp; done) | (split <;> simp; done))
    | (refine rwIf_keeps _ _ _ _ fun v s => ?_; simp; done)

theorem obj2700_keeps (s k o) (ho : obj2700 s k = some o) : o.Keeps := by
  unfold obj2700 at ho; (try dsimp only at ho)
  (repeat' split at ho) <;> cases ho <;> first
    | exact ro_keeps _ _ | exact roW_keeps _ _ | exact roBytes_keeps _
    | (refine rw__keeps _ _ _ fun v s => store_kept _ _ _ ?_; first | rfl | simp; done)
    | (refine rwP_keeps _ _ _ _ fun v s => store_kept _ _ _ ?_; first | rfl | simp; done)
    | (refine rwIf_keeps _ _ _ _ fun v s => store_kept _ _ _ ?_; first | rfl | simp; done)
    | exact command2_keeps _ _ (fun s => by simp) (fun s => by simp)
    | (refine rw__keeps _ _ _ fun v s => ?_; first | (simp; done) | ((repeat' split) <;> first | rfl | exact guardWrite_kept _ _ _ _ rfl))
    | (refine wo_keeps _ _ fun v s => ?_; first | (simp; done) | (split <;> simp; done))
    | (refine rwIf_keeps _ _ _ _ fun v s => ?_; simp; done)

theorem obj2701_keeps (s k o) (ho : obj2701 s k = some o) : o.Keeps := by
  unfold obj2701 at ho; (try dsimp only at ho)
  (repeat' split at ho) <;> cases ho <;> first
    | exact ro_keeps _ _ | exact roW_keeps _ _ | exact roBytes_keeps _
    | (refine rw__keeps _ _ _ fun v s => store_kept _ _ _ ?_; first | rfl | simp; done)
    | (refine rwP_keeps _ _ _ _ fun v s => store_kept _ _ _ ?_; first | rfl | simp; done)
    | (refine rwIf_keeps _ _ _ _ fun v s => store_kept _ _ _ ?_; first | rfl | simp; done)
    | exact command2_keeps _ _ (fun s => by simp) (fun s => by simp)
    | (refine rw__keeps _ _ _ fun v s => ?_; first | (simp; done) | ((repeat' split) <;> first | rfl | exact guardWrite_kept _ _ _ _ rfl))
    | (refine wo_keeps _ _ fun v s => ?_; first | (simp; done) | (split <;> simp; done))
    | (refine rwIf_keeps _ _ _ _ fun v s => ?_; simp; done)

theorem obj2702_keeps (s k o) (ho : obj2702 s k = some o) : o.Keeps := by
  unfold obj2702 at ho; (try dsimp only at ho)
  (repeat' split at ho) <;> cases ho <;> first
    | exact ro_keeps _ _ | exact roW_keeps _ _ | exact roBytes_keeps _
    | (refine rw__keeps _ _ _ fun v s => store_kept _ _ _ ?_; first | rfl | simp; done)
    | (refine rwP_keeps _ _ _ _ fun v s => store_kept _ _ _ ?_; first | rfl | simp; done)
    | (refine rwIf_keeps _ _ _ _ fun v s => store_kept _ _ _ ?_; first | rfl | simp; done)
    | exact command2_keeps _ _ (fun s => by simp) (fun s => by simp)
    | (refine rw__keeps _ _ _ fun v s => ?_; first | (simp; done) | ((repeat' split) <;> first | rfl | exact guardWrite_kept _ _ _ _ rfl))
    | (refine wo_keeps _ _ fun v s => ?_; first | (simp; done) | (split <;> simp; done))
    | (refine rwIf_keeps _ _ _ _ fun v s => ?_; simp; done)

theorem obj2710_keeps (s k o) (ho : obj2710 s k = some o) : o.Keeps := by
  unfold obj2710 at ho; (try dsimp only at ho)
  (repeat' split at ho) <;> cases ho <;> first
    | exact ro_keeps _ _ | exact roW_keeps _ _ | exact roBytes_keeps _
    | (refine rw__keeps _ _ _ fun v s => store_kept _ _ _ ?_; first | rfl | simp; done)
    | (refine rwP_keeps _ _ _ _ fun v s => store_kept _ _ _ ?_; first | rfl | simp; done)
    | (refine rwIf_keeps _ _ _ _ fun v s => store_kept _ _ _ ?_; first | rfl | simp; done)
    | exact command2_keeps _ _ (fun s => by simp) (fun s => by simp)
    | (refine rw__keeps _ _ _ fun v s => ?_; first | (simp; done) | ((repeat' split) <;> first | rfl | exact guardWrite_kept _ _ _ _ rfl))
    | (refine wo_keeps _ _ fun v s => ?_; first | (simp; done) | (split <;> simp; done))
    | (refine rwIf_keeps _ _ _ _ fun v s => ?_; simp; done)

theorem obj2720_keeps (s k o) (ho : obj2720 s k = some o) : o.Keeps := by
  unfold obj2720 at ho; (try dsimp only at ho)
  (repeat' split at ho) <;> cases ho <;> first
    | exact ro_keeps _ _ | exact roW_keeps _ _ | exact roBytes_keeps _
    | (refine rw__keeps _ _ _ fun v s => store_kept _ _ _ ?_; first | rfl | simp; done)
    | (refine rwP_keeps _ _ _ _ fun v s => store_kept _ _ _ ?_; first | rfl | simp; done)
    | (refine rwIf_keeps _ _ _ _ fun v s => store_kept _ _ _ ?_; first | rfl | simp; done)
    | exact command2_keeps _ _ (fun s => by simp) (fun s => by simp)
    | (refine rw__keeps _ _ _ fun v s => ?_; first | (simp; done) | ((repeat' split) <;> first | rfl | exact guardWrite_kept _ _ _ _ rfl))
    | (refine wo_keeps _ _ fun v s => ?_; first | (simp; done) | (split <;> simp; done))
    | (refine rwIf_keeps _ _ _ _ fun v s => ?_; simp; done)

theorem obj2800_keeps (s k o) (ho : obj2800 s k = some o) : o.Keeps := by
  unfold obj2800 at ho; (try dsimp only at ho)
  split at ho <;> cases ho
  · exact wo_keeps _ _ ckptCommand_kept
  all_goals first | exact ro_keeps _ _ | exact roW_keeps _ _

theorem obj2801_keeps (s k o) (ho : obj2801 s k = some o) : o.Keeps := by
  unfold obj2801 at ho; (try dsimp only at ho)
  (repeat' split at ho) <;> cases ho <;> first
    | exact ro_keeps _ _ | exact roW_keeps _ _ | exact roBytes_keeps _
    | (refine rw__keeps _ _ _ fun v s => store_kept _ _ _ ?_; first | rfl | simp; done)
    | (refine rwP_keeps _ _ _ _ fun v s => store_kept _ _ _ ?_; first | rfl | simp; done)
    | (refine rwIf_keeps _ _ _ _ fun v s => store_kept _ _ _ ?_; first | rfl | simp; done)
    | exact command2_keeps _ _ (fun s => by simp) (fun s => by simp)
    | (refine rw__keeps _ _ _ fun v s => ?_; first | (simp; done) | ((repeat' split) <;> first | rfl | exact guardWrite_kept _ _ _ _ rfl))
    | (refine wo_keeps _ _ fun v s => ?_; first | (simp; done) | (split <;> simp; done))
    | (refine rwIf_keeps _ _ _ _ fun v s => ?_; simp; done)

theorem obj2802_keeps (s k o) (ho : obj2802 s k = some o) : o.Keeps := by
  unfold obj2802 at ho; (try dsimp only at ho)
  (repeat' split at ho) <;> cases ho <;> first
    | exact ro_keeps _ _ | exact roW_keeps _ _ | exact roBytes_keeps _
    | (refine rw__keeps _ _ _ fun v s => store_kept _ _ _ ?_; first | rfl | simp; done)
    | (refine rwP_keeps _ _ _ _ fun v s => store_kept _ _ _ ?_; first | rfl | simp; done)
    | (refine rwIf_keeps _ _ _ _ fun v s => store_kept _ _ _ ?_; first | rfl | simp; done)
    | exact command2_keeps _ _ (fun s => by simp) (fun s => by simp)
    | (refine rw__keeps _ _ _ fun v s => ?_; first | (simp; done) | ((repeat' split) <;> first | rfl | exact guardWrite_kept _ _ _ _ rfl))
    | (refine wo_keeps _ _ fun v s => ?_; first | (simp; done) | (split <;> simp; done))
    | (refine rwIf_keeps _ _ _ _ fun v s => ?_; simp; done)

theorem obj2803_keeps (s k o) (ho : obj2803 s k = some o) : o.Keeps := by
  unfold obj2803 at ho; (try dsimp only at ho)
  (repeat' split at ho) <;> cases ho <;> first
    | exact ro_keeps _ _ | exact roW_keeps _ _ | exact roBytes_keeps _
    | (refine rw__keeps _ _ _ fun v s => store_kept _ _ _ ?_; first | rfl | simp; done)
    | (refine rwP_keeps _ _ _ _ fun v s => store_kept _ _ _ ?_; first | rfl | simp; done)
    | (refine rwIf_keeps _ _ _ _ fun v s => store_kept _ _ _ ?_; first | rfl | simp; done)
    | exact command2_keeps _ _ (fun s => by simp) (fun s => by simp)
    | (refine rw__keeps _ _ _ fun v s => ?_; first | (simp; done) | ((repeat' split) <;> first | rfl | exact guardWrite_kept _ _ _ _ rfl))
    | (refine wo_keeps _ _ fun v s => ?_; first | (simp; done) | (split <;> simp; done))
    | (refine rwIf_keeps _ _ _ _ fun v s => ?_; simp; done)

theorem obj3000_keeps (s k o) (ho : obj3000 s k = some o) : o.Keeps := by
  unfold obj3000 at ho; (try dsimp only at ho)
  (repeat' split at ho) <;> cases ho <;> first
    | exact ro_keeps _ _ | exact roW_keeps _ _ | exact roBytes_keeps _
    | (refine rw__keeps _ _ _ fun v s => store_kept _ _ _ ?_; first | rfl | simp; done)
    | (refine rwP_keeps _ _ _ _ fun v s => store_kept _ _ _ ?_; first | rfl | simp; done)
    | (refine rwIf_keeps _ _ _ _ fun v s => store_kept _ _ _ ?_; first | rfl | simp; done)
    | exact command2_keeps _ _ (fun s => by simp) (fun s => by simp)
    | (refine rw__keeps _ _ _ fun v s => ?_; first | (simp; done) | ((repeat' split) <;> first | rfl | exact guardWrite_kept _ _ _ _ rfl))
    | (refine wo_keeps _ _ fun v s => ?_; first | (simp; done) | (split <;> simp; done))
    | (refine rwIf_keeps _ _ _ _ fun v s => ?_; simp; done)

theorem obj3010_keeps (s k o) (ho : obj3010 s k = some o) : o.Keeps := by
  unfold obj3010 at ho; (try dsimp only at ho)
  (repeat' split at ho) <;> cases ho <;> first
    | exact ro_keeps _ _ | exact roW_keeps _ _ | exact roBytes_keeps _
    | (refine rw__keeps _ _ _ fun v s => store_kept _ _ _ ?_; first | rfl | simp; done)
    | (refine rwP_keeps _ _ _ _ fun v s => store_kept _ _ _ ?_; first | rfl | simp; done)
    | (refine rwIf_keeps _ _ _ _ fun v s => store_kept _ _ _ ?_; first | rfl | simp; done)
    | exact command2_keeps _ _ (fun s => by simp) (fun s => by simp)
    | (refine rw__keeps _ _ _ fun v s => ?_; first | (simp; done) | ((repeat' split) <;> first | rfl | exact guardWrite_kept _ _ _ _ rfl))
    | (refine wo_keeps _ _ fun v s => ?_; first | (simp; done) | (split <;> simp; done))
    | (refine rwIf_keeps _ _ _ _ fun v s => ?_; simp; done)

theorem obj3100_keeps (s k o) (ho : obj3100 s k = some o) : o.Keeps := by
  unfold obj3100 at ho; (try dsimp only at ho)
  (repeat' split at ho) <;> cases ho <;> first
    | exact ro_keeps _ _ | exact roW_keeps _ _ | exact roBytes_keeps _
    | (refine rw__keeps _ _ _ fun v s => store_kept _ _ _ ?_; first | rfl | simp; done)
    | (refine rwP_keeps _ _ _ _ fun v s => store_kept _ _ _ ?_; first | rfl | simp; done)
    | (refine rwIf_keeps _ _ _ _ fun v s => store_kept _ _ _ ?_; first | rfl | simp; done)
    | exact command2_keeps _ _ (fun s => by simp) (fun s => by simp)
    | (refine rw__keeps _ _ _ fun v s => ?_; first | (simp; done) | ((repeat' split) <;> first | rfl | exact guardWrite_kept _ _ _ _ rfl))
    | (refine wo_keeps _ _ fun v s => ?_; first | (simp; done) | (split <;> simp; done))
    | (refine rwIf_keeps _ _ _ _ fun v s => ?_; simp; done)

theorem fnControl_keeps (s f k o) (ho : fnControl s f k = some o) : o.Keeps := by
  unfold fnControl at ho; (try dsimp only at ho)
  (repeat' split at ho) <;> cases ho <;> first
    | exact ro_keeps _ _ | exact roW_keeps _ _ | exact roBytes_keeps _
    | (refine rw__keeps _ _ _ fun v s => store_kept _ _ _ ?_; first | rfl | simp; done)
    | (refine rwP_keeps _ _ _ _ fun v s => store_kept _ _ _ ?_; first | rfl | simp; done)
    | (refine rwIf_keeps _ _ _ _ fun v s => store_kept _ _ _ ?_; first | rfl | simp; done)
    | exact command2_keeps _ _ (fun s => by simp) (fun s => by simp)
    | (refine rw__keeps _ _ _ fun v s => ?_; first | (simp; done) | ((repeat' split) <;> first | rfl | exact guardWrite_kept _ _ _ _ rfl))
    | (refine wo_keeps _ _ fun v s => ?_; first | (simp; done) | (split <;> simp; done))
    | (refine rwIf_keeps _ _ _ _ fun v s => ?_; simp; done)

theorem obj5300_keeps (s k o) (ho : obj5300 s k = some o) : o.Keeps := by
  unfold obj5300 at ho; (try dsimp only at ho)
  (repeat' split at ho) <;> cases ho <;> first
    | exact ro_keeps _ _ | exact roW_keeps _ _ | exact roBytes_keeps _
    | (refine rw__keeps _ _ _ fun v s => store_kept _ _ _ ?_; first | rfl | simp; done)
    | (refine rwP_keeps _ _ _ _ fun v s => store_kept _ _ _ ?_; first | rfl | simp; done)
    | (refine rwIf_keeps _ _ _ _ fun v s => store_kept _ _ _ ?_; first | rfl | simp; done)
    | exact command2_keeps _ _ (fun s => by simp) (fun s => by simp)
    | (refine rw__keeps _ _ _ fun v s => ?_; first | (simp; done) | ((repeat' split) <;> first | rfl | exact guardWrite_kept _ _ _ _ rfl))
    | (refine wo_keeps _ _ fun v s => ?_; first | (simp; done) | (split <;> simp; done))
    | (refine rwIf_keeps _ _ _ _ fun v s => ?_; simp; done)

/-- What an entry that holds `e` offers. -/
theorem Entry.at_keeps (e : Entry) (h : e.Keeps) (k o) (ho : e.at k = some o) : o.Keeps := by
  cases e <;> simp only [Entry.at] at ho <;> split at ho
  · cases ho; exact h
  · cases ho
  · cases ho; exact ro_keeps _ _
  · exact h _ _ ho
  · cases ho; exact h.1
  · exact h.2 _ _ ho

theorem only_keeps (j o k o') (h : o.Keeps) (ho : only j o k = some o') : o'.Keeps := by
  unfold only at ho; split at ho <;> cases ho; exact h

theorem commObjects_keeps (s i e) (he : commObjects s i = some e) : e.Keeps := by
  unfold commObjects at he; (try dsimp only at he)
  (repeat' split at he) <;> cases he
  · exact obj1800_keeps s _
  · refine ⟨?_, obj1A00_keeps s _⟩
    intro w hw; cases hw; intro b s
    (try dsimp only); split
    · split
      · simp
      · rfl
    · simp
  · exact ro_keeps _ _
  · exact roW_keeps _ _
  · refine ⟨rw__keeps _ _ _ fun v s => by simp, fun k o ho => ?_⟩
    dsimp only at ho; split at ho <;> cases ho; exact roW_keeps _ _
  · exact roBytes_keeps _
  · exact roBytes_keeps _
  · exact roBytes_keeps _
  · exact rw__keeps _ _ _ fun _ _ => store_kept _ _ _ rfl
  · exact rw__keeps _ _ _ fun _ _ => store_kept _ _ _ rfl
  · exact rw__keeps _ _ _ fun _ _ => store_kept _ _ _ rfl
  · exact obj1018_keeps s

theorem nodeObjects_keeps (s path i e) (he : nodeObjects s path i = some e) : e.Keeps := by
  unfold nodeObjects at he
  split at he <;> cases he
  · exact obj2001_keeps s
  · exact obj2003_keeps s path
  · exact obj2004_keeps s
  · exact objAbort_keeps _
  · exact objAbort_keeps _
  · exact obj2010_keeps s
  · exact obj2011_keeps s
  · exact obj2020_keeps s
  · exact obj2030_keeps s

theorem errorObjects_keeps (s i e) (he : errorObjects s i = some e) : e.Keeps := by
  unfold errorObjects at he
  split at he <;> cases he
  · intro k o ho; dsimp only at ho; split at ho <;> cases ho; exact roW_keeps _ _
  · exact obj2901_keeps s
  · exact obj2905_keeps s
  · exact fun k o ho => only_keeps _ _ _ _ (rw__keeps _ _ _ fun _ _ => store_kept _ _ _ rfl) ho
  · exact obj2910_keeps s
  · exact obj2A00_keeps s
  · intro k o ho; dsimp only at ho; (repeat' split at ho) <;> cases ho <;> exact ro_keeps _ _
  · exact fun k o ho => only_keeps _ _ _ _ (ro_keeps _ _) ho
  · exact fun k o ho => only_keeps _ _ _ _ (roBytes_keeps _) ho
  · exact obj2A10_keeps s

theorem engineObjects_keeps (s i e) (he : engineObjects s i = some e) : e.Keeps := by
  unfold engineObjects at he
  (repeat' split at he) <;> cases he
  · exact obj2100_keeps s _
  · exact obj2200_keeps s _
  · exact obj2300_keeps _
  · exact obj2140_keeps s
  · exact obj2210_keeps s
  · exact obj2211_keeps s
  · exact obj2308_keeps s

theorem unitObjects_keeps (s i e) (he : unitObjects s i = some e) : e.Keeps := by
  unfold unitObjects at he
  (repeat' split at he) <;> cases he
  · exact obj2610_keeps s _
  · exact obj2620_keeps s _
  · exact obj2400_keeps s
  · exact obj2401_keeps s
  · exact obj2402_keeps s
  · exact obj2403_keeps s
  · exact obj2404_keeps s
  · exact obj2410_keeps s
  · exact fun k o ho => only_keeps _ _ _ _ (rwP_keeps _ _ _ _ fun _ _ => store_kept _ _ _ rfl) ho
  · exact fun k o ho => only_keeps _ _ _ _ (rwP_keeps _ _ _ _ fun _ _ => store_kept _ _ _ rfl) ho
  · exact obj2503_keeps s
  · exact fun k o ho => only_keeps _ _ _ _ (rwP_keeps _ _ _ _ fun _ _ => store_kept _ _ _ rfl) ho
  · intro k o ho; dsimp only at ho; split at ho <;> cases ho; exact roW_keeps _ _
  · exact obj2510_keeps s
  · exact obj2520_keeps s
  · intro k o ho; dsimp only at ho; split at ho <;> cases ho; exact roW_keeps _ _
  · exact obj2660_keeps s
  · exact fun k o ho => only_keeps _ _ _ _ (rwP_keeps _ _ _ _ fun _ _ => store_kept _ _ _ rfl) ho
  · exact obj2680_keeps s

theorem tuneObjects_keeps (s i e) (he : tuneObjects s i = some e) : e.Keeps := by
  unfold tuneObjects at he
  split at he <;> cases he
  · exact obj2700_keeps s
  · exact obj2701_keeps s
  · exact obj2702_keeps s
  · intro k o ho; dsimp only at ho; split at ho <;> cases ho; exact roW_keeps _ _
  · exact obj2710_keeps s
  · exact obj2720_keeps s
  · exact obj2800_keeps s
  · exact obj2801_keeps s
  · exact obj2802_keeps s
  · exact obj2803_keeps s

theorem rws_keeps (s f n v g) : (rws s f n v g).Keeps :=
  rwIf_keeps _ _ _ _ fun _ _ => store_kept _ _ _ rfl

theorem fnObjects_keeps (s f i e) (he : fnObjects s f i = some e) : e.Keeps := by
  unfold fnObjects at he; dsimp only at he
  split at he <;> cases he
  · exact fnControl_keeps s f
  all_goals
    intro k o ho; dsimp only at ho
    split at ho <;> cases ho <;> first | exact rws_keeps _ _ _ _ _ | exact roW_keeps _ _

theorem viewObjects_keeps (s i e) (he : viewObjects s i = some e) : e.Keeps := by
  unfold viewObjects at he; dsimp only at he
  (repeat' split at he) <;> cases he
  · exact unitObj_keeps _ _ _ _ fun _ _ => rfl
  · exact unitObj_keeps _ _ _ _ fun _ _ => rfl
  · intro k o ho; dsimp only at ho
    split at ho <;> cases ho
    · exact rw__keeps _ _ _ fun _ _ => store_kept _ _ _ rfl
    · exact rwP_keeps _ _ _ _ fun _ _ => store_kept _ _ _ rfl
  · exact unitObj_keeps _ _ _ _ fun _ _ => rfl
  · exact obj5300_keeps s

theorem entryAt_keeps (s path i e) (he : entryAt s path i = some e) : e.Keeps := by
  unfold entryAt at he
  split at he; · exact commObjects_keeps _ _ _ he
  split at he; · exact nodeObjects_keeps _ _ _ _ he
  split at he; · exact engineObjects_keeps _ _ _ he
  split at he; · exact unitObjects_keeps _ _ _ he
  split at he; · exact tuneObjects_keeps _ _ _ he
  split at he; · exact errorObjects_keeps _ _ _ he
  split at he
  · split at he <;> cases he
    · exact obj3000_keeps s
    · exact obj3010_keeps s
    · exact obj3100_keeps s
  split at he; · exact fnObjects_keeps _ _ _ _ he
  split at he; · exact viewObjects_keeps _ _ _ he
  split at he <;> cases he
  exact fun k o ho => only_keeps _ _ _ _ (ro_keeps _ _) ho

theorem findObj_keeps (s path index sub o) (h : findObj s path index sub = .inl o) : o.Keeps := by
  unfold findObj at h
  split at h; · cases h
  next e he =>
  split at h; · cases h
  next o' ho =>
  split at h <;> cases h
  exact Entry.at_keeps e (entryAt_keeps _ _ _ _ he) _ _ ho

@[simp] theorem dictWrite_kept (path : Path) (index : W16) (sub : Byte) (data : List Byte) (s : State) :
    (dictWrite path index sub data s).kept = s.kept := by
  unfold dictWrite
  split
  · rfl
  · next o h =>
    split
    · rfl
    · next f hf =>
      split
      · rfl
      · split
        · rfl
        · exact findObj_keeps _ _ _ _ _ h f hf data s

/-! ## Manage -/

@[simp] theorem openSession_kept (s : State) (path : Path) (index : W16) (sub : Byte) (upload : Bool) (data : List Byte) (total : Nat) :
    (openSession s path index sub upload data total).kept = s.kept := by
  unfold openSession; simp

@[simp] theorem abortSession_kept (s : State) (path : Path) (x : Session) (code : W32) :
    (abortSession s path x code).kept = s.kept := by
  unfold abortSession; simp

@[simp] theorem beginDownload_kept (s : State) (path : Path) (index : W16) (sub : Byte) (total : Nat) (data : List Byte) :
    (beginDownload s path index sub total data).kept = s.kept := by
  unfold beginDownload; (try dsimp only); (repeat' split) <;> simp

@[simp] theorem finishWrite_kept (path : Path) (index : W16) (sub : Byte) (r : WriteRes) :
    (finishWrite path index sub r).kept = r.kept := by
  cases r <;> simp [finishWrite, WriteRes.kept]

@[simp] theorem downloadSegment_kept (s : State) (path : Path) (x : Session) (last : Bool) (part : List Byte) :
    (downloadSegment s path x last part).kept = s.kept := by
  unfold downloadSegment; dsimp only; (repeat' split) <;> simp

@[simp] theorem answerRead_kept (s : State) (path : Path) (index : W16) (sub : Byte) :
    (answerRead s path index sub).kept = s.kept := by
  unfold answerRead; (try dsimp only); (repeat' split) <;> simp

@[simp] theorem beginUpload_kept (s : State) (path : Path) (index : W16) (sub : Byte) :
    (beginUpload s path index sub).kept = s.kept := by
  unfold beginUpload; (try dsimp only); (repeat' split) <;> simp

@[simp] theorem uploadSegment_kept (s : State) (path : Path) (x : Session) (last : Bool) :
    (uploadSegment s path x last).kept = s.kept := by
  unfold uploadSegment; (try dsimp only); (repeat' split) <;> simp

end Sys2Proof.Machine
end

