-- ==== Sys2Proof/Laws/Settle.lean ====
section
/-! SUPPORT. The end of a command, which puts its error records in order among those of the cycle, and the end of a
cycle: what reporting them changes, and that it forms the error register (17 R498, R503). -/
namespace Sys2Proof.Machine
open Sys2Proof

/-- What the error register is formed from. -/
theorem errorRegister_congr {s t : State} (h1 : t.pwr = s.pwr) (h2 : t.mgmt.nmt = s.mgmt.nmt)
    (h3 : ∀ p, (portOf t p).descs = (portOf s p).descs ∧ (portOf t p).link = (portOf s p).link)
    (h4 : t.mortise.ring = s.mortise.ring) (h5 : t.err.captured = s.err.captured) : errorRegister t = errorRegister s := by
  unfold errorRegister; simp only [h1, h2, h3, h4, h5]

@[simp] theorem errorRegister_lastReg (s : State) (v : Byte) :
    errorRegister { s with err := { s.err with lastReg := v } } = errorRegister s := rfl
@[simp] theorem errorRegister_raised (s : State) (l c : List Raised) :
    errorRegister { s with err := { s.err with raised := l, cycle := c } } = errorRegister s := rfl
@[simp] theorem errorRegister_cycle (s : State) (c : List Raised) :
    errorRegister { s with err := { s.err with cycle := c } } = errorRegister s := rfl

/-- With nothing raised, the end of a command changes nothing. -/
theorem settle_eq {s : State} (h : s.err.raised = []) : settle s = s := by
  unfold settle
  rw [h, List.foldl_nil, ← h]

/-- A command that leaves a settled state ends there. -/
theorem done_of_settled {s : State} (h : Settled s) : done s = .next s := by unfold done; rw [settle_eq h]

/-! ## The order of the cycle's records -/

/-- Insertion into an ascending list leaves it ascending. -/
theorem insertRaised_sorted (e : Raised) (l : List Raised) (h : l.Pairwise Raised.before) :
    (insertRaised e l).Pairwise Raised.before := by
  have mem : ∀ (l : List Raised) (x : Raised), x ∈ insertRaised e l → x = e ∨ x ∈ l := by
    intro l
    induction l with
    | nil => intro x hx; simpa [insertRaised] using hx
    | cons a t ih =>
      intro x hx
      unfold insertRaised at hx
      split at hx
      · simpa using hx
      · rcases List.mem_cons.mp hx with rfl | hx
        · simp
        · rcases ih x hx with rfl | hx <;> simp [*]
  induction l with
  | nil => simp [insertRaised]
  | cons a t ih =>
    unfold insertRaised
    rw [List.pairwise_cons] at h
    split
    · rename_i lt
      refine List.pairwise_cons.mpr ⟨fun x hx => ?_, List.pairwise_cons.mpr h⟩
      rcases List.mem_cons.mp hx with rfl | hx
      · exact Nat.le_of_lt lt
      · exact Nat.le_trans (Nat.le_of_lt lt) (h.1 x hx)
    · rename_i ge
      refine List.pairwise_cons.mpr ⟨fun x hx => ?_, ih h.2⟩
      rcases mem t x hx with rfl | hx
      · exact Nat.le_of_not_lt ge
      · exact h.1 x hx

theorem settle_settled (s : State) : Settled (settle s) := rfl

/-- The end of a command leaves the cycle's records in order. -/
theorem settle_inOrder {s : State} (h : InOrder s) : InOrder (settle s) := by
  have go : ∀ (l c : List Raised), c.Pairwise Raised.before →
      (l.foldl (fun l e => insertRaised e l) c).Pairwise Raised.before := by
    intro l
    induction l with
    | nil => exact fun _ h => h
    | cons a t ih => exact fun c h => ih _ (insertRaised_sorted a c h)
  exact go _ _ h

@[simp] theorem settle_pending (s : State) : (settle s).pending = s.pending := rfl
@[simp] theorem settle_time (s : State) : (settle s).time = s.time := rfl
@[simp] theorem settle_tick (s : State) : (settle s).tick = s.tick := rfl
@[simp] theorem settle_ports (s : State) : (settle s).ports = s.ports := rfl
@[simp] theorem settle_jobs (s : State) : (settle s).jobs = s.jobs := rfl
@[simp] theorem settle_req (s : State) : (settle s).req = s.req := rfl
@[simp] theorem settle_fns (s : State) : (settle s).fns = s.fns := rfl
@[simp] theorem settle_acct (s : State) : (settle s).acct = s.acct := rfl
@[simp] theorem settle_mortise (s : State) : (settle s).mortise = s.mortise := rfl
@[simp] theorem settle_text (s : State) : (settle s).text = s.text := rfl
@[simp] theorem settle_eng (s : State) : (settle s).eng = s.eng := rfl
@[simp] theorem settle_cal (s : State) : (settle s).cal = s.cal := rfl
@[simp] theorem settle_stream (s : State) : (settle s).stream = s.stream := rfl
@[simp] theorem settle_tune (s : State) : (settle s).tune = s.tune := rfl
@[simp] theorem settle_ckpt (s : State) : (settle s).ckpt = s.ckpt := rfl
@[simp] theorem settle_mgmt (s : State) : (settle s).mgmt = s.mgmt := rfl
@[simp] theorem settle_view (s : State) : (settle s).view = s.view := rfl
@[simp] theorem settle_pwr (s : State) : (settle s).pwr = s.pwr := rfl
@[simp] theorem settle_boot (s : State) : (settle s).boot = s.boot := rfl
@[simp] theorem settle_fuse (s : State) : (settle s).fuse = s.fuse := rfl
@[simp] theorem settle_sensed (s : State) : (settle s).sensed = s.sensed := rfl
@[simp] theorem settle_tap (s : State) : (settle s).tap = s.tap := rfl
@[simp] theorem settle_raised (s : State) : (settle s).err.raised = [] := rfl
@[simp] theorem settle_register (s : State) : errorRegister (settle s) = errorRegister s := rfl

/-! ## Parts that reporting does not touch -/

/-- The state less what reporting an error record may change: ports, function statistics, engine counts, the Zwiup
view, management but for the NMT state, and errors but for the records that wait. -/
structure Quiet where
  pending : List Instr
  time : TimeState
  tick : TickState
  jobs : List Job
  req : ReqTables
  acct : Accounts
  mortise : MortiseState
  text : TextState
  cal : CalState
  stream : StreamState
  tune : TuneState
  ckpt : CkptState
  pwr : PowerState
  boot : BootState
  fuse : FuseState
  sensed : SensedState
  tap : TapState
  nmt : Nmt
  raised : List Raised
  cycle : List Raised

def State.quiet (s : State) : Quiet :=
  ⟨s.pending, s.time, s.tick, s.jobs, s.req, s.acct, s.mortise, s.text, s.cal,
   s.stream, s.tune, s.ckpt, s.pwr, s.boot, s.fuse, s.sensed, s.tap, s.mgmt.nmt, s.err.raised, s.err.cycle⟩

@[simp] theorem quiet_mk (p ti tk po j r f a m t e c st tu ck er mg v pw b fu se ta) :
    State.quiet (State.mk p ti tk po j r f a m t e c st tu ck er mg v pw b fu se ta) =
      ⟨p, ti, tk, j, r, a, m, t, c, st, tu, ck, pw, b, fu, se, ta, mg.nmt, er.raised, er.cycle⟩ := rfl
@[simp] theorem quiet_eta (s : State) :
    Quiet.mk s.pending s.time s.tick s.jobs s.req s.acct s.mortise s.text s.cal s.stream s.tune s.ckpt s.pwr s.boot s.fuse s.sensed s.tap s.mgmt.nmt s.err.raised s.err.cycle = s.quiet := rfl

@[simp] theorem quiet_ports (s : State) (x) : State.quiet { s with ports := x } = s.quiet := rfl
@[simp] theorem quiet_fns (s : State) (x) : State.quiet { s with fns := x } = s.quiet := rfl
@[simp] theorem quiet_eng (s : State) (x) : State.quiet { s with eng := x } = s.quiet := rfl
@[simp] theorem quiet_view (s : State) (x) : State.quiet { s with view := x } = s.quiet := rfl

@[simp] theorem emcySend_quiet (s : State) (c : W16) (r : Byte) (d : BitVec 40) : (emcySend s c r d).quiet = s.quiet := by
  unfold emcySend; (repeat' split) <;> simp

@[simp] theorem sendWrite_quiet (s : State) (p : Fin 8) (d : Dest) (a : W64) (x : Payload) (lat : Bool) :
    (sendWrite s p d a x lat).quiet = s.quiet := rfl

@[simp] theorem errRingWrite_quiet (s : State) (rc : Rec) : (errRingWrite s rc).quiet = s.quiet := by
  unfold errRingWrite; dsimp only; split <;> simp

@[simp] theorem modEng_quiet (s : State) (e : Nat) (f : Engine → Engine) : (modEng s e f).quiet = s.quiet := rfl

@[simp] theorem unitCount_quiet (s : State) (p : Place) (c : BitVec 3) : (unitCount s p c).quiet = s.quiet := by
  unfold unitCount
  extract_lets s' units
  have h : s'.quiet = s.quiet := by
    show (match placeEngine p with | some e => _ | none => s : State).quiet = _
    split
    · split
      · exact modEng_quiet s _ _
      · split
        · exact modEng_quiet s _ _
        · rfl
    · rfl
  split
  · exact h
  · exact Eq.trans rfl h

@[simp] theorem viewCount_quiet (s : State) (p : Place) (c : BitVec 3) : (viewCount s p c).quiet = s.quiet := by
  unfold viewCount; split <;> rfl

theorem reportOne_quiet (s : State) (e : Raised) : (reportOne s e).quiet = s.quiet := by
  unfold reportOne; dsimp only; (repeat' split) <;> simp

theorem foldl_quiet {α} (f : State → α → State) (h : ∀ s x, (f s x).quiet = s.quiet) (l : List α) (s : State) :
    (l.foldl f s).quiet = s.quiet := by
  induction l generalizing s with
  | nil => rfl
  | cons a t ih => exact (ih _).trans (h s a)

theorem refreshRegister_quiet (s : State) : (refreshRegister s).quiet = s.quiet := by
  unfold refreshRegister; dsimp only
  split
  · rfl
  · split
    · exact Eq.trans rfl (emcySend_quiet s 0 0 0)
    · rfl

/-- What a report leaves alone. -/
theorem report_quiet (s : State) : (report s).quiet = State.quiet { s with err := { s.err with cycle := [] } } := by
  unfold report
  exact (refreshRegister_quiet _).trans (foldl_quiet _ reportOne_quiet _ _)

@[simp] theorem report_pending (s : State) : (report s).pending = s.pending := congrArg Quiet.pending (report_quiet s)
@[simp] theorem report_time (s : State) : (report s).time = s.time := congrArg Quiet.time (report_quiet s)
@[simp] theorem report_tick (s : State) : (report s).tick = s.tick := congrArg Quiet.tick (report_quiet s)
@[simp] theorem report_jobs (s : State) : (report s).jobs = s.jobs := congrArg Quiet.jobs (report_quiet s)
@[simp] theorem report_req (s : State) : (report s).req = s.req := congrArg Quiet.req (report_quiet s)
@[simp] theorem report_acct (s : State) : (report s).acct = s.acct := congrArg Quiet.acct (report_quiet s)
@[simp] theorem report_mortise (s : State) : (report s).mortise = s.mortise := congrArg Quiet.mortise (report_quiet s)
@[simp] theorem report_text (s : State) : (report s).text = s.text := congrArg Quiet.text (report_quiet s)
@[simp] theorem report_cal (s : State) : (report s).cal = s.cal := congrArg Quiet.cal (report_quiet s)
@[simp] theorem report_stream (s : State) : (report s).stream = s.stream := congrArg Quiet.stream (report_quiet s)
@[simp] theorem report_tune (s : State) : (report s).tune = s.tune := congrArg Quiet.tune (report_quiet s)
@[simp] theorem report_ckpt (s : State) : (report s).ckpt = s.ckpt := congrArg Quiet.ckpt (report_quiet s)
@[simp] theorem report_pwr (s : State) : (report s).pwr = s.pwr := congrArg Quiet.pwr (report_quiet s)
@[simp] theorem report_boot (s : State) : (report s).boot = s.boot := congrArg Quiet.boot (report_quiet s)
@[simp] theorem report_fuse (s : State) : (report s).fuse = s.fuse := congrArg Quiet.fuse (report_quiet s)
@[simp] theorem report_sensed (s : State) : (report s).sensed = s.sensed := congrArg Quiet.sensed (report_quiet s)
@[simp] theorem report_tap (s : State) : (report s).tap = s.tap := congrArg Quiet.tap (report_quiet s)
@[simp] theorem report_nmt (s : State) : (report s).mgmt.nmt = s.mgmt.nmt := congrArg Quiet.nmt (report_quiet s)
@[simp] theorem report_raised (s : State) : (report s).err.raised = s.err.raised := congrArg Quiet.raised (report_quiet s)

theorem emcySend_register (s : State) (c : W16) (r : Byte) (d : BitVec 40) :
    errorRegister (emcySend s c r d) = errorRegister s := by
  unfold emcySend; (repeat' split) <;> rfl

theorem refreshRegister_register (s : State) : (refreshRegister s).err.lastReg = errorRegister (refreshRegister s) := by
  unfold refreshRegister
  extract_lets v t
  split
  · rename_i h; exact h.symm
  · rw [errorRegister_lastReg]
    have : errorRegister t = errorRegister s := by
      show errorRegister (if v = 0 then emcySend s 0 0 0 else s) = _
      split
      · exact emcySend_register s 0 0 0
      · rfl
    exact this.symm

@[simp] theorem report_cycle (s : State) : (report s).err.cycle = [] := congrArg Quiet.cycle (report_quiet s)

/-- A report forms the error register, and leaves no record of the cycle. -/
theorem report_reported {s : State} (h : s.err.raised = []) : Reported (report s) :=
  ⟨(report_raised s).trans h, report_cycle s, refreshRegister_register _⟩

end Sys2Proof.Machine
end

