-- ==== Sys2Proof/Laws/Commands.lean ====
section
/-! SUPPORT. The shells that many commands share keep what an ordinary command keeps, when what they call keeps it; and what
taking a tick, leaving Operational and closing a calibration period do to the node's state. -/
namespace Sys2Proof.Machine
open Sys2Proof

/-! ## Shells -/

theorem done_kept {s t : State} (h : done s = .next t) : t.kept = s.kept := by
  simp only [done, Host.Outcome.next.injEq] at h; rw [← h]; simp

theorem next_kept {s t u : State} (h : (Host.Outcome.next s : Host.Outcome State Fault Refusal) = .next t)
    (k : s.kept = u.kept) : t.kept = u.kept := by
  simp only [Host.Outcome.next.injEq] at h; rw [← h]; exact k

theorem mgmtWrite_kept {s t : State} {path : Path} {index : W16} {sub : Byte} {act : State → WriteRes}
    (k : ∀ u, (act u).kept = u.kept) (h : mgmtWrite s path index sub act = .next t) : t.kept = s.kept := by
  unfold mgmtWrite at h
  dsimp only at h
  split at h
  · exact next_kept h rfl
  · split at h
    · exact (done_kept h).trans (by simp)
    · split at h
      · exact (done_kept h).trans (by simp)
      · exact (done_kept h).trans (by simp [k])

theorem nmtCommand_kept {via : NmtVia} {f : State → State} {s t : State} (k : ∀ u, (f u).kept = u.kept)
    (h : nmtCommand via f s = .next t) : t.kept = s.kept := by
  unfold nmtCommand at h
  split at h
  · split at h
    · exact (done_kept h).trans (k _)
    · exact next_kept h rfl
  · exact mgmtWrite_kept (act := fun s => .ok (f s)) (fun u => k u) h

theorem receive_kept {s t : State} {d : Desc} {kind : DKind} {before : State → Slot → State} {errs : List DetErr}
    (k : ∀ u slot, (before u slot).kept = u.kept) (h : receive s d kind before errs = .next t) : t.kept = s.kept := by
  unfold receive at h
  have e := stampStage_kept s d (typeOf kind).toNat
  revert h e
  cases stampStage s d (typeOf kind).toNat with
  | mk u x =>
    cases x with
    | none => intro h e; exact (done_kept h).trans e
    | some x =>
      intro h e
      exact (done_kept h).trans (by simp [k]; exact e)

theorem takeResult_wait_kept {s u : State} {id : Nat} {ecc : Ecc} (h : takeResult s id ecc = .wait u) : u.kept = s.kept := by
  unfold takeResult at h
  dsimp only at h
  repeat' split at h
  all_goals first | (cases h; done) | (injection h with h; rw [← h]; done) | (injection h with h; rw [← h]; simp)

theorem takeResult_result_kept {s u : State} {id : Nat} {ecc : Ecc} {x : Search} {f : Found}
    (h : takeResult s id ecc = .result u x f) : u.kept = s.kept := by
  unfold takeResult at h
  dsimp only at h
  repeat' split at h
  all_goals first | (cases h; done) | (injection h with h; rw [← h]; simp)

/-! ## What a command leaves is settled -/

theorem done_settled {s t : State} (h : done s = .next t) : Settled t := by cases h; exact settle_settled _

/-- A command that ends without reporting leaves a settled state settled when it raises nothing. -/
theorem next_settled {s t u : State} (hs : Settled s)
    (h : (Host.Outcome.next u : Host.Outcome State Fault Refusal) = .next t)
    (h1 : u.err.raised = s.err.raised) : Settled t := by
  cases h; exact h1.trans hs

theorem same_settled {s t : State} (hs : Settled s)
    (h : (Host.Outcome.next s : Host.Outcome State Fault Refusal) = .next t) : Settled t := next_settled hs h rfl

theorem mgmtWrite_settled {s t : State} {path : Path} {index : W16} {sub : Byte} {act : State → WriteRes}
    (hs : Settled s) (h : mgmtWrite s path index sub act = .next t) : Settled t := by
  unfold mgmtWrite at h
  dsimp only at h
  split at h
  · exact same_settled hs h
  · split at h
    · exact done_settled h
    · split at h <;> exact done_settled h

theorem nmtCommand_settled {via : NmtVia} {f : State → State} {s t : State} (hs : Settled s)
    (h : nmtCommand via f s = .next t) : Settled t := by
  unfold nmtCommand at h
  split at h
  · split at h
    · exact done_settled h
    · exact same_settled hs h
  · exact mgmtWrite_settled hs h

theorem receive_settled {s t : State} {d : Desc} {kind : DKind} {before : State → Slot → State} {errs : List DetErr}
    (h : receive s d kind before errs = .next t) : Settled t := by
  unfold receive at h
  split at h <;> exact done_settled h

/-- Of a port the error register looks only at whether it has carried a descriptor and at its link. -/
theorem errorRegister_modPort (s : State) (p : Fin 8) (f : Port → Port)
    (hd : ∀ v, (f v).descs = v.descs) (hl : ∀ v, (f v).link = v.link) :
    errorRegister (modPort s p f) = errorRegister s := by
  refine errorRegister_congr rfl rfl (fun q => ?_) rfl rfl
  by_cases e : p = q
  · subst e; simp [hd, hl]
  · rw [portOf_modPort_other _ _ _ _ (Ne.symm e)]; exact ⟨rfl, rfl⟩

/-! ## Ticks -/

@[simp] theorem tickBoundary_kept (s : State) (first : Bool) (before : TickRef) :
    (tickBoundary s first before).kept = s.kept := by
  unfold tickBoundary; simp

/-! ## Leaving Operational, closing a calibration period -/

@[simp] theorem restartFn_mgmt (s : State) (f : Fin 64) : (restartFn s f).mgmt = s.mgmt := by
  unfold restartFn applyStart raise; dsimp only; repeat' split
  all_goals rfl

@[simp] theorem checkStopped_mgmt (s : State) (f : Fin 64) : (checkStopped s f).mgmt = s.mgmt := by
  unfold checkStopped; dsimp only; repeat' split
  all_goals simp [modFn, setFn]

@[simp] theorem applyStop_mgmt (s : State) (f : Fin 64) : (applyStop s f).mgmt = s.mgmt := by
  unfold applyStop; split <;> simp [modFn, setFn]

theorem foldl_mgmt {α} (f : State → α → State) (h : ∀ s x, (f s x).mgmt = s.mgmt) (l : List α) (s : State) :
    (l.foldl f s).mgmt = s.mgmt := by
  induction l generalizing s with
  | nil => rfl
  | cons a t ih => exact (ih _).trans (h s a)

@[simp] theorem leaveOperational_mgmt (s : State) (n : Nmt) : (leaveOperational s n).mgmt = { s.mgmt with nmt := n } := by
  unfold leaveOperational; dsimp only
  split
  · rfl
  · refine foldl_mgmt _ (fun u k => ?_) _ _
    simp [modFn, setFn]

@[simp] theorem restartMarked_mgmt (s : State) : (restartMarked s).mgmt = s.mgmt :=
  foldl_mgmt _ (fun _ _ => restartFn_mgmt _ _) _ _

end Sys2Proof.Machine
end

