-- ==== Sys2Proof/Laws/Register.lean ====
section
/-! SUPPORT. The shared operations that report nothing leave the errors, and all that the error register is formed from,
as they were (17 R503). -/
namespace Sys2Proof.Machine
open Sys2Proof

/-- The errors, and what the error register is formed from, are the same. -/
def Steady (s u : State) : Prop := u.err = s.err ∧ errorRegister u = errorRegister s

theorem Steady.refl (s : State) : Steady s s := ⟨rfl, rfl⟩
theorem Steady.trans {s u v : State} (h : Steady s u) (k : Steady u v) : Steady s v :=
  ⟨k.1.trans h.1, k.2.trans h.2⟩
theorem Steady.settled {s u : State} (h : Steady s u) (hs : Settled s) : Settled u :=
  (congrArg ErrState.raised h.1).trans hs

theorem next_steady {s t u : State} (hs : Settled s)
    (h : (Host.Outcome.next u : Host.Outcome State Fault Refusal) = .next t) (k : Steady s u) : Settled t :=
  next_settled hs h (congrArg ErrState.raised k.1)

theorem foldl_steady {α} (f : State → α → State) (h : ∀ s x, Steady s (f s x)) (l : List α) (s : State) :
    Steady s (l.foldl f s) := by
  induction l generalizing s with
  | nil => exact .refl s
  | cons a t ih => exact (h s a).trans (ih _)

theorem modPort_steady (s : State) (p : Fin 8) (f : Port → Port) (hd : ∀ v, (f v).descs = v.descs)
    (hl : ∀ v, (f v).link = v.link) : Steady s (modPort s p f) := ⟨rfl, errorRegister_modPort s p f hd hl⟩

theorem pumpOne_port (w : Bool) (now : Nat) (p : Port) :
    (pumpOne w now p).descs = p.descs ∧ (pumpOne w now p).link = p.link := by
  unfold pumpOne sendW sendR; (repeat' split) <;> exact ⟨rfl, rfl⟩

@[simp] theorem pumpPort_descs (w : Bool) (now : Nat) (p : Port) : (pumpPort w now p).descs = p.descs :=
  (pumpOne_port ..).1.trans (pumpOne_port ..).1
@[simp] theorem pumpPort_link (w : Bool) (now : Nat) (p : Port) : (pumpPort w now p).link = p.link :=
  (pumpOne_port ..).2.trans (pumpOne_port ..).2

/-- What a port sends reports nothing. -/
theorem pumpAfter_steady (s : State) (p : Fin 8) (f : Port → Port) (hd : ∀ v, (f v).descs = v.descs)
    (hl : ∀ v, (f v).link = v.link) : Steady s (pumpAfter s p f) :=
  modPort_steady s p _ (fun v => by simp [hd]) (fun v => by simp [hl])

theorem sendWrite_steady (s : State) (p : Fin 8) (d : Dest) (a : W64) (x : Payload) (l : Bool) :
    Steady s (sendWrite s p d a x l) := pumpAfter_steady s p _ (fun _ => rfl) (fun _ => rfl)
theorem sendRead_steady (s : State) (p : Fin 8) (a : W64) (n : Nat) (x : Purpose) : Steady s (sendRead s p a n x) :=
  pumpAfter_steady s p _ (fun _ => rfl) (fun _ => rfl)
theorem sendBytes_steady (s : State) (p : Fin 8) (d : Dest) (a : W64) (bs : List Byte) :
    Steady s (sendBytes s p d a bs) := foldl_steady _ (fun _ _ => sendWrite_steady ..) _ _
theorem startJob_steady (s : State) (k : JobKey) (p : Fin 8) (a : W64) (n : Nat) : Steady s (startJob s k p a n) :=
  Steady.trans (u := { s with jobs := _ }) ⟨rfl, rfl⟩ (pumpAfter_steady _ p _ (fun _ => rfl) (fun _ => rfl))
theorem dropJob_steady (s : State) (k : JobKey) : Steady s (dropJob s k) := ⟨rfl, rfl⟩
theorem dropWrites_steady (s : State) (d : Dest) : Steady s (dropWrites s d) := by
  unfold dropWrites
  exact foldl_steady _ (fun _ _ => by apply modPort_steady <;> exact fun _ => rfl) _ _
theorem modReq_steady (s : State) (slot : Slot) (f : Request → Request) : Steady s (modReq s slot f) := ⟨rfl, rfl⟩
/-- What touches the array alone, and not its ring, reports nothing. -/
theorem mortise_steady {s : State} {m : MortiseState} (h : m.ring = s.mortise.ring) :
    Steady s { s with mortise := m } := ⟨rfl, errorRegister_congr rfl rfl (fun _ => ⟨rfl, rfl⟩) h rfl⟩

theorem step1_steady (s : State) (e : Nat) : Steady s (step1 s e) := by
  unfold step1; dsimp only; split
  · exact .refl s
  · exact mortise_steady rfl
theorem bulkRecordDone_steady (s : State) : Steady s (bulkRecordDone s) := by
  unfold bulkRecordDone; dsimp only; split
  · exact Steady.trans (u := { s with mortise := _ }) (mortise_steady rfl) (dropJob_steady ..)
  · exact mortise_steady rfl
theorem bulkApply_steady (s : State) (b : List Byte) : Steady s (bulkApply s b) := by
  unfold bulkApply; dsimp only
  refine Steady.trans (u := { s with mortise := { s.mortise with bulkLastAt := s.time.now } }) (mortise_steady rfl) ?_
  split
  · exact (step1_steady ..).trans (bulkRecordDone_steady _)
  · exact (step1_steady ..).trans (mortise_steady rfl)

/-- Time passing moves nothing but the time bases (18 R517, R519). -/
theorem timeCycle_eq (s : State) : ∃ x, timeCycle s = { s with time := x } ∧ x.now = s.time.now := by
  unfold timeCycle takeBit; dsimp only
  repeat' split
  all_goals exact ⟨_, rfl, rfl⟩

/-- An ac moves the stamp counter on by one while the clock runs, and nothing else that a command keeps (02 R31; log 1). -/
theorem acTick_kept (s : State) :
    (acTick s).kept = { s.kept with now := s.time.now + if coreRuns s then 1 else 0 } := by
  unfold acTick
  obtain ⟨x, h, k⟩ := timeCycle_eq s
  dsimp only
  rw [h]
  have c : coreRuns { s with time := x } = coreRuns s := rfl
  rw [c]
  have w : (report (settle (if coreRuns s then runWakes { s with time := x } else { s with time := x }))).kept = s.kept := by
    rw [report_kept, settle_kept]
    split
    · rw [runWakes_kept]; simp only [State.kept, k]
    · simp only [State.kept, k]
  generalize report (settle (if coreRuns s then runWakes { s with time := x } else { s with time := x })) = u at w
  split
  · rename_i c
    rw [foldl_kept _ (fun _ _ => by simp), bulkCycle_kept, grantSearch_kept]
    simp only [State.kept, Kept.mk.injEq] at w ⊢
    obtain ⟨w1, w2, w3, w4, w5, w6, w7, w8, w9, w10, w11, w12⟩ := w
    simp [*]
  · rename_i c
    simp only [w, Nat.add_zero]; rfl

end Sys2Proof.Machine
end

