-- ==== Sys2Proof/WellFormed.lean ====
section
/-! DEFINITION. Which commands the outside world can send: the limits that the spec puts on a command's data and that
its types do not. No meaning rests on them; a meaning is total. -/
namespace Sys2Proof

/-- What a tile finds: an output format that is assigned and no code of it reserved (09 R291, R295), operands of less
than 2^32 bytes. -/
def TileLoad.wf (l : TileLoad) : Bool :=
  l.out.fmt != 8 && !(decide (12 ≤ l.out.fmt.toNat) && l.out.fmt != 15) && decide (l.out.grouping.toNat ≤ 4)
    && decide (l.a.length < 2 ^ 32) && (l.b.all fun b => decide (b.length < 2 ^ 32))

/-- What a plan declares: at most 15 window pages, a summary of at most 3,072 bytes, an entry size that is a power of
two from 64 to 4,096, a truss state of at most 65,536 bytes (11 R343, R345, R346, R356); a tile's slots once. -/
def PlanDecl.wf (d : PlanDecl) : Bool :=
  decide (d.summaryBytes.toNat ≤ 3072) && decide (d.stateBytes ≤ 65536)
    && [64, 128, 256, 512, 1024, 2048, 4096].contains d.entryBytes.toNat
    && decide ((d.slots.map (·.tile)).Nodup)

/-- A command the outside world can send. -/
def Instr.wf : Instr → Bool
  -- 18 R535: the 76 sensors
  | .sensorSample rs => rs.length == 76
  -- 19 R542: a link that is half-width is up
  | .linkTrainingDone up half => half &&& up == half
  -- 18 R510, R511: these messages are the ones that no other command stands for
  | .hostWriteStray _ a l => !(a == 0 && l == 63)
  | .hostMessageReservedOp _ op => decide (op.toNat = 0 ∨ 4 < op.toNat)
  -- 18 R510: a COMPLETION carries data only where it answers a READ, 1 to 4,096 bytes
  | .completion _ t d => if t.getLsbD 15 then decide (0 < d.length ∧ d.length ≤ 4096) else d.isEmpty
  -- 03 R56: the types that are assigned have commands of their own
  | .unknownType _ t => decide (t.toNat = 0 ∨ 10 < t.toNat)
  | .tileStart _ _ l => l.wf
  | .planLoadDone _ d => d.wf
  -- 07 R243: K0 to K7
  | .cascadeKeyFrame f _ _ => f.key.length == 8
  -- 07 R242: a probe passes the stacks of a ring of at most four
  | .cascadeProbeReturn p => decide (p.hops.length ≤ 4)
  -- 15 R457, R459: a request frame of 64 bytes
  | .mbxPost _ f => f.length == 64
  -- 15 R459: what one frame of 64 bytes can carry
  | .registerWrite _ _ _ _ v => decide (v.length ≤ 64)
  -- 14 R433: a slot begins with a manifest fragment of 4,096 bytes
  | .checkpoint _ a b => a.length == 4096 && b.length == 4096
  | _ => true

/-! ## The order of one cycle

The commands that wait together happen in one cycle, in the order of the queue (log 1). These are the rules that say in
which order the sender puts them. -/

/-- The port a descriptor arrives on. -/
def Instr.port? : Instr → Option (Fin 8)
  | .openReq d | .prompt d | .tokens d _ | .accept d | .pause d | .resumeCold d | .resumeHoldRelease d | .cancel d
  | .close d | .feedback d | .publish d | .unknownType d _ => some d.port
  | _ => none

/-- The place of a management command in its cycle: writes on the mailbox, then on CAN, then NMT frames (15 R462;
07 R235), then what captures a value (15 R464). -/
def Instr.mgmt? : Instr → Option Nat
  | .bulkUpdateRun p | .mortiseInvalidate p | .mortiseWrite p | .mortiseValidate p | .updateWindowEntry p _
  | .cursorFirst p | .cursorNext p | .keyCaptureArm p _ | .planLoad p | .planUnload p | .vocabLoad p _
  | .vocabUnload p _ | .grammarLoad p _ | .grammarUnload p _ | .deltaLoad p | .deltaCut p | .dropStaging p
  | .deltaDelete p | .backboneLoad p | .dropOther p | .tuningEnable p _ | .functionStart p _ | .functionStop p _
  | .registerWrite p _ _ _ _ | .errorListClear p | .rearm p | .acknowledge p | .enginePoolWrite p _ _
  | .tenantValidWrite p _ | .checkpoint p _ _ | .restore p | .foreignAcknowledgement p _ =>
    some (match p with
      | .mailbox => 0
      | .can => 1)
  | .startRemoteNode v | .stopRemoteNode v | .enterPreOperational v | .resetNode v | .resetCommunication v =>
    some (match v with
      | .object .mailbox => 0
      | .object .can => 1
      | .frame _ => 2)
  | .usdoUpload .. => some 3
  | _ => none

/-- The place of a command in a T_n cycle: the registration with the publications, pin expiries, auto cuts, then the
optimiser steps (13 R422); descriptors and writes come after the registration (02 R37; 12 R379). -/
def Instr.tickPlace? (i : Instr) : Option Nat :=
  match i with
  | .tickRegistration .. => some 0
  | .pinLimitExpiry _ => some 1
  | .autoCut _ => some 2
  | .microBatchComplete _ _ => some 3
  | _ => if i.port?.isSome || i.mgmt?.isSome then some 3 else none

/-- `i` may stand before `j` in one cycle: descriptors by port code (02 R33), management by path, and what
T_n does in its order. -/
def mayPrecede (i j : Instr) : Bool :=
  (match i.port?, j.port? with
    | some p, some q => decide (p.val ≤ q.val)
    | _, _ => true)
  && (match i.mgmt?, j.mgmt? with
    | some p, some q => decide (p ≤ q)
    | _, _ => true)
  && (match i.tickPlace?, j.tickPlace? with
    | some p, some q => decide (p ≤ q)
    | _, _ => true)

/-- The commands of one cycle as the outside world sends them: each well-formed, in the order of the rules, at most two
descriptors from a port (02 R33; 08 R286). -/
def queueWf (q : List Instr) : Prop :=
  (∀ i ∈ q, i.wf = true) ∧ q.Pairwise (fun i j => mayPrecede i j = true)
    ∧ ∀ p : Fin 8, (q.filter fun i => i.port? == some p).length ≤ 2

end Sys2Proof
end

