-- ==== Sys2Proof/Tests/Slice0.lean ====
section
/-! SUPPORT. Tests: terms that no check of `Instr.wf` accepts, states that meet the hypotheses of the statements, and
small steps whose results the spec gives. -/
set_option exponentiation.threshold 512
namespace Sys2Proof.Tests
open Sys2Proof Sys2Proof.Machine

/-! ## States for the tests -/

/-- Every port UP. -/
def allUp : Tbl Port := (List.range 8).map fun p => (p, { link := .up, width := 64 })

/-- A node in Operational, in its fifth tick, before the intake closes. -/
def up : State :=
  { time := { now := 100010000, gtAccepted := 50005000, gt := 50005000 }
    tick := { cur := { idx := 5, num := 5 }, at_ := 100000000, registered := 5, opTick := true, opEntry := 20000000 }
    ports := allUp
    pwr := { power := .active, porst := false, railsGood := true }
    boot := { step := .running, planMin := 1, planMax := 1 }
    mgmt := { nmt := .operational, nodeId := 1, activeNode := 1 } }

/-- The same node in Pre-operational. -/
def pre : State := { up with mgmt := { up.mgmt with nmt := .preOperational } }

/-- A node at a step of start-up. -/
def booting (b : Boot) : State :=
  { up with boot := { step := b }, mgmt := {}, tick := {}, ports := if b == .links || b == .hbm then [] else allUp }

/-- A request of function 0, which is RUNNING, in slot 0 of a node in Operational. -/
def withReq (r : Request) : State :=
  { up with req := { table := [(0, r)] }, fns := [(0, { st := .running })] }

/-- A STREAMING request. -/
def streamer : Request := { st := .streaming, ringLog2 := 12 }

/-- A descriptor of handle 0 on port T0 in tick 5. -/
def desc (payload : BitVec 416) (flags : Byte := 0) : Desc := { port := 0, tick := 5, payload := payload, flags := flags }

/-- A field of a payload: its value at a byte of the descriptor. -/
def at_ (byte value : Nat) : BitVec 416 := BitVec.ofNat 416 (value * 2 ^ (8 * (byte - 12)))

/-! ## Ill-formed terms: one for each check -/

theorem test_wf_sensorSample : (Instr.sensorSample (List.replicate 75 0)).wf = false := by decide
theorem test_wf_linkTrainingDone : (Instr.linkTrainingDone 0x01 0x03).wf = false := by decide
theorem test_wf_hostWriteStray : (Instr.hostWriteStray 0 0 63).wf = false := by decide
theorem test_wf_hostMessageReservedOp : (Instr.hostMessageReservedOp 0 4).wf = false := by decide
theorem test_wf_completion_read_empty : (Instr.completion 0 0x8000 []).wf = false := by decide
theorem test_wf_completion_write_data : (Instr.completion 0 0 [0]).wf = false := by decide
theorem test_wf_unknownType : (Instr.unknownType (desc 0) 10).wf = false := by decide
theorem test_wf_tileStart_u8l : (Instr.tileStart 0 (.items [0]) { out := { fmt := 8 } }).wf = false := by decide
theorem test_wf_tileStart_reserved : (Instr.tileStart 0 (.items [0]) { out := { fmt := 12 } }).wf = false := by decide
theorem test_wf_tileStart_grouping : (Instr.tileStart 0 (.items [0]) { out := { grouping := 5 } }).wf = false := by decide
theorem test_wf_planLoadDone_summary : (Instr.planLoadDone 0 { summaryBytes := 3073 }).wf = false := by decide
theorem test_wf_planLoadDone_state : (Instr.planLoadDone 0 { stateBytes := 65537 }).wf = false := by decide
theorem test_wf_planLoadDone_slots :
    (Instr.planLoadDone 0 { slots := [{ tile := 3 }, { tile := 3 }] }).wf = false := by decide
theorem test_wf_planLoadDone_entry : (Instr.planLoadDone 0 { entryBytes := 96 }).wf = false := by decide
theorem test_wf_cascadeKeyFrame : (Instr.cascadeKeyFrame { key := [0] } 0 .ok).wf = false := by decide
theorem test_wf_cascadeProbeReturn : (Instr.cascadeProbeReturn { hops := List.replicate 5 (5, 0) }).wf = false := by decide
theorem test_wf_mbxPost : (Instr.mbxPost 0 (List.replicate 63 0)).wf = false := by decide
theorem test_wf_registerWrite : (Instr.registerWrite .can 0x2001 1 .expedited (List.replicate 65 0)).wf = false := by decide
theorem test_wf_checkpoint : (Instr.checkpoint .can [0] [0]).wf = false := by decide
/-- The order of one cycle: port T1 before T0, CAN before the mailbox, an optimiser step before its tick, three
descriptors from one port. -/
theorem test_wf_queue :
    mayPrecede (.cancel { desc 0 with port := 1 }) (.cancel (desc 0)) = false
      ∧ mayPrecede (.functionStart .can 0) (.functionStart .mailbox 0) = false
      ∧ mayPrecede (.microBatchComplete 0 {}) (.tickRegistration true 0 false) = false
      ∧ ¬ queueWf [.cancel (desc 0), .cancel (desc 0), .cancel (desc 0)] := by
  refine ⟨by decide, by decide, by decide, fun h => absurd (h.2.2 0) (by decide)⟩

/-! ## Block, supply, resets -/

theorem wit_IdleStepIsOneCycle :
    up.pending = [] ∧ coreRuns up = true ∧ up.req.wakes = [] ∧ up.mortise.waiting = [] ∧ up.mortise.bulkStep = none
      ∧ ∀ p, (portOf up p).waiting = [] ∧ (portOf up p).readsWaiting = [] := by decide
theorem wit_IdleStepIsOneCycle_reported : Reported { up with err := { up.err with lastReg := errorRegister up } } :=
  ⟨rfl, rfl, rfl⟩
theorem wit_StepKeepsSettled : Settled up ∧ up.pending = [] ∧ ∃ t, step up = .next t := ⟨rfl, rfl, _, rfl⟩
theorem wit_CommandsLeaveTheQueue : exec .vinRise up = .next up := rfl
theorem wit_ReportsStayAtTheirPlaces :
    up.err.raised = [] ∧ up.err.cycle = [] ∧ up.err.captured = false ∧ up.mgmt.nmt ≠ .initialisation ∧ errEmcy .linkDown = true
      ∧ errCls .linkDown = 1 ∧ errCls .linkRetry = 0 ∧ ({ up with err := { up.err with captured := true } } : State).err.raised = [] := by
  decide
theorem wit_OrdinaryCommandsKeep : special .heartbeat = false ∧ special .powerOnReset = true := by decide

def powered (p : Power) : State := { pwr := { power := p, porst := false, railsGood := true } }

theorem wit_PowerUpStates :
    (powered .off).pwr.power = .off ∧ (powered .ramp).pwr.power = .ramp
    ∧ (State.reset.pwr.porst = true ∧ State.reset.pwr.power = .reset ∧ State.reset.pwr.railsGood = true)
    ∧ (let s : State := { pwr := { power := .reset, porst := false, railsGood := true, holdInternal := true } }
       s.pwr.power = .reset ∧ s.pwr.holdInternal = true ∧ s.pwr.porst = false ∧ s.pwr.hrst = false) := by decide
theorem wit_ResetsClear : State.reset.pwr.power = .reset ∧ up.pwr.power = .active := by decide
theorem wit_LockoutLosesAllButFuses :
    (37999 : W32).toNat < 38000 ∧ 52000 < (52001 : W32).toNat ∧ (60000 : W32).toNat ≤ 60000 ∧ up.pwr.power ≠ .off
      ∧ 60000 < (60001 : W32).toNat ∧ (up.boot.raisedL = false ∧ up.boot.raisedT = false)
      ∧ (let s : State := { up with boot := { up.boot with raisedL := true, raisedAt := 98010000 } }
         s.boot.raisedL = true ∧ s.boot.raisedAt + 2000000 ≤ s.time.now) := by decide
theorem wit_OnlyAbsoluteMaximumStops :
    exec (.supplyLockout 60001) up
      = if Config.freeBit 0 then .fault .absoluteMaximum else .next (lockout (takeBit up).2) := rfl
theorem wit_SupplySample :
    let lo : State := { up with pwr := { up.pwr with overVolt := true } }
    (sensorsRun up = true ∧ up.pwr.power = .active ∧ up.pwr.overCurr = false ∧ up.pwr.overVolt = false
      ∧ 40000 ≤ (40000 : W16).toNat ∧ (48000 : W16).toNat ≤ 48000 ∧ (19000 : W32).toNat ≤ 19000)
    ∧ (39999 : W16).toNat < 40000
    ∧ (sensorsRun lo = true ∧ lo.pwr.power = .active ∧ lo.pwr.overCurr = false ∧ lo.pwr.overVolt = true
        ∧ (40499 : W16).toNat < 40500)
    ∧ sensorsRun (powered .off) = false := by decide
theorem wit_Temperatures :
    sensorsRun up = true ∧ ([11000] : List W16) ≠ [] ∧ up.pwr.alert = false
      ∧ ({ up with pwr := { up.pwr with alert := true } } : State).pwr.alert = true ∧ up.pwr.power = .active := by decide
theorem wit_ClocksAndDroops :
    up.pwr.stopped.contains .gaffer = false ∧ ([ClockSrc.gaffer] : List ClockSrc).contains .gaffer = true
      ∧ up.pwr.power = .active ∧ up.pwr.drooping.contains 3 = false
      ∧ (let s : State := { up with pwr := { up.pwr with drooping := [3] } }
         coreRuns s = true ∧ s.pwr.drooping.contains 3 = true) := by decide
theorem wit_TapInstructions :
    State.reset.pwr.power = .reset ∧ State.reset.pwr.porst = true ∧ State.reset.sensed.dbgLock = false
      ∧ ({ State.reset with sensed := { dbgLock := true } } : State).sensed.dbgLock = true := by decide
theorem wit_WhatNoCommandUndoes :
    (let s : State := { up with tap := { debugged := true } }
     s.tap.debugged = true ∧ ∃ t, exec .tapReset s = .next t)
    ∧ (let s : State := { up with fuse := { up.fuse with dbgLock := true } }
       s.fuse.dbgLock = true ∧ ∃ t, exec .lockDebug s = .next t)
    ∧ ∃ t, exec .lockDebug up = .next t ∧ t.fuse.dbgLock ≠ up.fuse.dbgLock := by
  exact ⟨⟨rfl, _, rfl⟩, ⟨rfl, _, rfl⟩, _, rfl, by decide⟩

/-- IDCODE selects its register and shifts out 0xB0B5214B (19 R554). -/
theorem test_idcode : ∃ t, exec .idcode up = .next t ∧ t.tap.idcode = 0xB0B5214B := ⟨_, rfl, rfl⟩
/-- A reading of exactly 110.00 °C on sensor 71 asserts THERMTRIP_N; on sensor 72, an HBM4 stack's, it does not (18
R536). -/
theorem test_thermtrip : ((List.replicate 71 (0 : W16) ++ [11000]).take 72).any (fun r => decide (11000 ≤ r.toInt)) = true
    ∧ ((List.replicate 72 (0 : W16) ++ [11000]).take 72).any (fun r => decide (11000 ≤ r.toInt)) = false := by decide

/-! ## Start-up -/

theorem wit_BootFirstSteps :
    (bootAt (booting .fuseSense) .fuseSense = true ∧ ({} : FuseCheck).udsBad = false ∧ ({} : FuseCheck).keyBad = false
      ∧ ({ keyBad := true } : FuseCheck).keyBad = true)
    ∧ (bootAt (booting .pll) .pll = true ∧ (booting .pll).pwr.stopped.contains .refclk = false)
    ∧ (coreRuns (booting .hbm) = true ∧ bootAt (booting .hbm) .hbm = true)
    ∧ (coreRuns (booting .links) = true ∧ bootAt (booting .links) .links = true)
    ∧ (8 : BitVec 4) ≠ 0
    ∧ ((0x80 : BitVec 8).getLsbD (7 : Fin 8).val = true ∧ (0x80 : BitVec 8).getLsbD (0 : Fin 8).val = false)
    ∧ (coreRuns (booting .selfTest) = true ∧ bootAt (booting .selfTest) .selfTest = true) := by decide

/-- A boot block: its magic, and every address and length in bounds (19 R545). -/
def bootBlockOf (b : List Byte) : Job := { key := .boot, port := 6, len := 128, got := [(0, b)], left := 0 }

theorem wit_BootBlock :
    (coreRuns (booting .deviceId) = true ∧ bootAt (booting .deviceId) .deviceId = true)
    ∧ (let s : State := { booting .bootBlock with jobs := [bootBlockOf (List.replicate 128 0)] }
       coreRuns s = true ∧ bootAt s .bootBlock = true ∧ jobOf s .boot = some (bootBlockOf (List.replicate 128 0))
         ∧ (bootBlockOf (List.replicate 128 0)).over = true ∧ (bootBlockOf (List.replicate 128 0)).failed = none
         ∧ bootBlockGood (bootBlockOf (List.replicate 128 0)).bytes = false)
    ∧ (let s := booting .wait
       coreRuns s = true ∧ s.boot.step = .wait ∧ s.boot.waitSince + 20000000 ≤ s.time.now) := by decide
theorem wit_BootImages :
    (let j : Job := { key := .lilen, port := 6, len := 4096, left := 0 }
     let s : State := { booting .lilen with jobs := [j] }
     coreRuns s = true ∧ s.boot.step = .lilen ∧ jobOf s .lilen = some j ∧ j.over = true ∧ j.failed = none)
    ∧ (let j : Job := { key := .tile, port := 6, len := 4096, left := 0 }
       let s : State := { booting .tile with jobs := [j] }
       coreRuns s = true ∧ s.boot.step = .tile ∧ jobOf s .tile = some j ∧ j.over = true ∧ j.failed = none)
    ∧ (coreRuns (booting .evidence) = true ∧ bootAt (booting .evidence) .evidence = true
       ∧ writesLeft (booting .evidence) .evidence = false) := by decide

/-- A boot block whose CRC is right. -/
def goodBlock : List Byte :=
  let b : List Byte := 1 :: List.replicate 123 0
  b ++ leBytes 4 (crc32c b).toNat
set_option maxRecDepth 100000 in
theorem wit_BootBlock_good : bootBlockGood (bootBlockOf goodBlock).bytes = true := by decide

/-! ## Ports -/

theorem wit_LinkEvents :
    linksTrained up = true ∧ (portOf up 7).link = .up ∧ portUp up 7 = true
      ∧ (portOf (setPort up 7 { link := .training }) 7).link ≠ .up
      ∧ linksTrained (setPort up 7 { link := .training }) = true := by decide
theorem wit_StrayMessagesAreReported :
    portAlive up 7 = true ∧ (1 : W64) ≠ 0 ∧ (62 : BitVec 12) ≠ 63 ∧ 4 < (5 : BitVec 4).toNat
      ∧ (nodeUp up = true ∧ portUp up (desc 0).port = true ∧ (desc 0).port.val < 6 ∧ 10 < (11 : Byte).toNat
          ∧ (desc 0).portSeq = (portOf up (desc 0).port).seq) := by decide

def aWrite : WriteMsg := { num := 5, dest := .ring 0, addr := 0, data := .index 0, sentAt := 10000 }
def aRead : ReadMsg := { tag := 6, addr := 0, len := 4, purpose := .consumer .err, sentAt := 10000 }
/-- A port with one WRITE and one READ outstanding. -/
def busy : State := setPort up 0 { link := .up, width := 64, unacked := [aWrite], reads := [aRead] }

theorem wit_CompletionsAndTimeouts :
    (portAlive busy 0 = true ∧ (5 : W16).getLsbD 15 = false ∧ writeByNum busy 0 ((5 : W16).truncate 15) = some aWrite)
    ∧ ((0x8006 : W16).getLsbD 15 = true ∧ readByTag busy 0 ((0x8006 : W16).truncate 15) = some aRead
        ∧ ([0, 0, 0, 0] : List Byte).length = aRead.len)
    ∧ (readByTag busy 0 ((0x8007 : W16).truncate 15) = none ∧ writeByNum busy 0 ((6 : W16).truncate 15) = none)
    ∧ (linksTrained busy = true ∧ readByTag busy 0 6 = some aRead ∧ aRead.sentAt + 200000 ≤ busy.time.now)
    ∧ (let s : State := { busy with time := { busy.time with now := 209999 } }
       linksTrained s = true ∧ readByTag s 0 6 = some aRead ∧ s.time.now < aRead.sentAt + 200000)
    ∧ (linksTrained busy = true ∧ writeByNum busy 0 5 = some aWrite ∧ aWrite.sentAt + 100000 ≤ busy.time.now)
    ∧ (let s : State := { busy with time := { busy.time with now := 109999 } }
       linksTrained s = true ∧ writeByNum s 0 5 = some aWrite ∧ s.time.now < aWrite.sentAt + 100000)
    ∧ aWrite.dest = .ring 0 := by decide

theorem wit_ConsumerIndex :
    let rd : ReadMsg := { aRead with purpose := .consumer (.req 0 0) }
    let s := setPort (withReq { streamer with producer := 10, consumer := 4 }) 0 { link := .up, width := 64, reads := [rd] }
    (portAlive s 0 = true ∧ readByTag s 0 6 = some rd ∧ rd.purpose = .consumer (.req 0 0))
    ∧ ((reqOf s 0).entryBad = false ∧ beyond 10 (reqOf s 0).producer = false ∧ (reqOf s 0).st ≠ .free
        ∧ (reqOf s 0).st ≠ .closing)
    ∧ (reqOf (withReq { streamer with st := .closing }) 0).st = .closing
    ∧ beyond 11 (reqOf s 0).producer = true
    ∧ (let u := withReq { streamer with held := true, holdTicks := 64 }
       nodeUp u = true ∧ (reqOf u 0).st ≠ .free ∧ isHeld u 0 (reqOf u 0) = true ∧ (reqOf u 0).holdReported = false
         ∧ u.err.stallNow.toNat ≤ (reqOf u 0).holdTicks) := by decide

/-! ## Requests -/

theorem clean (s : State) (d : Desc) (n : Nat) (h : (operational s = true ∧ portUp s d.port = true
    ∧ (n = 10 ∨ d.port.val < 6) ∧ firstReserved n d = none ∧ badField n d = none ∧ d.portSeq = (portOf s d.port).seq
    ∧ (n ≤ 8 → handleGen d.handle = genOf s (handleSlot d.handle)) ∧ tickFieldBad (tickOf s) d.tick = false)) :
    Clean s d n := h

/-- A valid tenant 0 that may use policy 0, a loaded vocabulary 0, and function 0 as given. -/
def admits (f : Fn) : State :=
  { up with
    fns := [(0, f)]
    acct := { tenants := [(0, { valid := true, ranges := [(7, 0x00010000)] })], policies := [(0, { valid := true })] }
    text := { vocabs := [(0, { st := .loaded })] } }
/-- A plain OPEN: a ring of 2^12 bytes at address 0. -/
def opener : Desc := desc (at_ 20 0xFF + at_ 21 12)

theorem wit_OpenAndAdmission_run :
    let s := admits { st := .running }
    Clean s opener 1 ∧ (reqOf s (handleSlot opener.handle)).st = .free ∧ ringBad (openEntry opener) = false
      ∧ openCheck s (openEntry opener) = 0 ∧ (fnOf s (openEntry opener).fn).st = .running
      ∧ demandBreaks s (openEntry opener) = false := by unfold Clean; decide
theorem wit_OpenAndAdmission_demand :
    let s := admits { st := .running, act := { estimate := 0xFFFFFFFF } }
    Clean s opener 1 ∧ (reqOf s (handleSlot opener.handle)).st = .free ∧ ringBad (openEntry opener) = false
      ∧ openCheck s (openEntry opener) = 0 ∧ (fnOf s (openEntry opener).fn).st = .running
      ∧ demandBreaks s (openEntry opener) = true := by unfold Clean; decide
theorem wit_OpenAndAdmission_refused :
    let s := { admits { st := .running } with acct := {} }
    Clean s opener 1 ∧ (reqOf s (handleSlot opener.handle)).st = .free ∧ ringBad (openEntry opener) = false
      ∧ openCheck s (openEntry opener) ≠ 0 ∧ openCheck s (openEntry opener) ≠ 6 := by unfold Clean; decide
theorem wit_OpenAndAdmission_vocab :
    let s := { admits { st := .running } with text := {} }
    Clean s opener 1 ∧ (reqOf s (handleSlot opener.handle)).st = .free ∧ ringBad (openEntry opener) = false
      ∧ openCheck s (openEntry opener) = 6 := by unfold Clean; decide
theorem wit_OpenAndAdmission_parked :
    let s := admits { st := .starting }
    Clean s opener 1 ∧ (reqOf s (handleSlot opener.handle)).st = .free ∧ ringBad (openEntry opener) = false
      ∧ openCheck s (openEntry opener) = 0 ∧ (fnOf s (openEntry opener).fn).st ≠ .running := by unfold Clean; decide
theorem wit_OpenAndAdmission_admit :
    (pagesFit up 1 = true ∧ nextPattern up false = some 0)
    ∧ (let s : State := { up with stream := { up.stream with regions := [] } }
       pagesFit s 1 = false)
    ∧ (let s : State := { up with eng := { engines := (List.range 8).map fun n => (48 + n, { pool := false }) } }
       pagesFit s 1 = true ∧ nextPattern s false = none) := by decide

theorem wit_PromptAppendsItsSegment :
    let s := withReq { streamer with st := .opened }
    let d := desc (at_ 12 1) 0x04
    let e := desc (at_ 12 1048576)
    Direct s d .prompt ∧ promptIsInline d = true ∧ Direct s e .prompt ∧ promptIsInline e = false := by
  unfold Direct Clean; decide
theorem wit_TokensRaiseCAndS :
    let s := withReq { streamer with c := 3, s := 3 }
    let d := desc (at_ 12 12 + at_ 13 11)
    let u := withReq { streamer with c := 3, s := 7 }
    let e := desc (at_ 12 12 + at_ 13 12)
    (Direct s d .tokens ∧ tokensSpec d < tokensCount d ∧ (reqOf s 0).s = (reqOf s 0).c)
    ∧ (Direct u e .tokens ∧ tokensSpec e = tokensCount e ∧ tokensCount e ≠ 0 ∧ (reqOf u 0).c ≤ (reqOf u 0).s
        ∧ (reqOf u 0).s - (reqOf u 0).c + tokensCount e ≤ 16)
    ∧ Clean s d 3 := by unfold Direct Clean; decide
theorem wit_MalformedTokensAreDiscarded :
    let d := desc (at_ 12 13)
    let e := desc (at_ 12 3 + at_ 13 4)
    nodeUp up = true ∧ portUp up 0 = true ∧ d.port.val < 6 ∧ firstReserved 3 d = none
      ∧ d.portSeq = (portOf up d.port).seq ∧ 12 < tokensCount d
      ∧ firstReserved 3 (desc 0) = none ∧ tokensCount (desc 0) = 0
      ∧ firstReserved 3 e = none ∧ tokensCount e < tokensSpec e := by decide
theorem wit_AcceptAndReject :
    let s := withReq { streamer with c := 3, s := 7, snaps := [(5, {})], sumSnaps := [(5, [1])] }
    let d := desc (at_ 12 4)
    let e := desc (at_ 12 3)
    Direct s d .accept ∧ pfield d 12 0 16 = (reqOf s 0).s - (reqOf s 0).c
      ∧ Direct s e .accept ∧ pfield e 12 0 16 < (reqOf s 0).s - (reqOf s 0).c
      ∧ (reqOf s 0).snaps.find? (fun e => e.1 == 5) = some (5, {})
      ∧ (reqOf s 0).sumSnaps.find? (fun e => e.1 == 5) = some (5, [1]) := by unfold Direct Clean; decide
theorem wit_PauseAndResume_pause : Direct (withReq streamer) (desc 0) .pause := by unfold Direct Clean; decide
theorem wit_PauseAndResume_cold :
    let c := withReq { streamer with st := .paused }
    Direct c (desc 0) .resumeCold ∧ pfield (desc 0) 12 0 1 = 0 ∧ (reqOf c 0).expiry = 0 ∧ (reqOf c 0).coldSt = .inHbm := by
  unfold Direct Clean; decide
theorem wit_PauseAndResume_moved :
    let c := withReq { streamer with st := .paused, coldSt := .moved 4 }
    Direct c (desc 0) .resumeCold ∧ pfield (desc 0) 12 0 1 = 0 ∧ (reqOf c 0).expiry = 0 ∧ (reqOf c 0).coldSt = .moved 4 := by
  unfold Direct Clean; decide
theorem wit_PauseAndResume_expired :
    let x := withReq { streamer with st := .paused, expiry := 50005000 }
    Direct x (desc 0) .resumeCold ∧ (reqOf x 0).expiry ≠ 0 ∧ (reqOf x 0).expiry.toNat ≤ x.time.gtAccepted.toNat := by
  unfold Direct Clean; decide
theorem wit_PauseAndResume_later :
    let x := withReq { streamer with st := .paused, expiry := 50005001 }
    Direct x (desc 0) .resumeCold ∧ x.time.gtAccepted.toNat < (reqOf x 0).expiry.toNat ∧ (reqOf x 0).coldSt = .inHbm := by
  unfold Direct Clean; decide
theorem wit_PauseAndResume_hold :
    let p := withReq { streamer with st := .prompt, promptHeld := true }
    let d := desc (at_ 12 1)
    Direct p d .resumeHold ∧ pfield d 12 0 1 = 1 ∧ (reqOf p 0).st = .prompt := by unfold Direct Clean; decide
theorem wit_PauseAndResume_position :
    let h := withReq { streamer with holds := [(4, true)] }
    let d := desc (at_ 12 1)
    Direct h d .resumeHold ∧ pfield d 12 0 1 = 1 ∧ (reqOf h 0).st = .streaming ∧ (reqOf h 0).holds = (4, true) :: [] := by
  unfold Direct Clean; decide
theorem wit_PauseAndResume_late :
    let h := withReq { streamer with holds := [(4, false)] }
    let d := desc (at_ 12 1)
    Direct h d .resumeHold ∧ pfield d 12 0 1 = 1 ∧ (reqOf h 0).st = .streaming ∧ (reqOf h 0).holds = (4, false) :: [] := by
  unfold Direct Clean; decide
theorem wit_CancelAndClose_pending :
    let c : ClosedRec := { cause := 2 }
    let s := withReq { streamer with pendingClosed := some c }
    Direct s (desc 0) .cancel ∧ (reqOf (stopCold (arrived s (desc 0)) 0) 0).pendingClosed = some c := by
  unfold Direct Clean; decide
theorem wit_CancelAndClose_paused :
    let s := withReq { streamer with st := .paused }
    Direct s (desc 0) .close ∧ (reqOf s 0).st = .paused := by unfold Direct Clean; decide
theorem wit_CancelAndClose_cancel :
    let s := withReq streamer
    Direct s (desc 0) .cancel ∧ (reqOf (stopCold (arrived s (desc 0)) 0) 0).pendingClosed = none := by
  unfold Direct Clean; decide
theorem wit_CancelAndClose_opened :
    let o := withReq { streamer with st := .opened }
    Direct o (desc 0) .close ∧ (reqOf o 0).st = .opened := by unfold Direct Clean; decide
theorem wit_CancelAndClose_prompt :
    let p := withReq { streamer with st := .prompt }
    Direct p (desc 0) .close ∧ (reqOf p 0).st = .prompt := by unfold Direct Clean; decide
theorem wit_CancelAndClose_streaming :
    let s := withReq streamer
    Direct s (desc 0) .close ∧ (reqOf s 0).st = .streaming := by unfold Direct Clean; decide

def waiting (k : DKind) : QItem := { kind := k, desc := desc 0, stamp := 0, tick := {}, parked := true, boundaries := 1000 }

theorem wit_WaitsEnd :
    (let s := withReq { streamer with queue := [waiting .pause] }
     nodeUp s = true ∧ (reqOf s 0).st ≠ .free ∧ (reqOf s 0).queue = waiting .pause :: [] ∧ canRun s 0 (waiting .pause) = true
       ∧ ¬ ((waiting .pause).kind = .openReq ∧ (waiting .pause).parked = true))
    ∧ (let s := withReq { streamer with st := .opened, queue := [waiting .openReq] }
       nodeUp s = true ∧ (reqOf s 0).st ≠ .free ∧ (reqOf s 0).queue = waiting .openReq :: []
         ∧ canRun s 0 (waiting .openReq) = true ∧ (waiting .openReq).kind = .openReq ∧ (waiting .openReq).parked = true)
    ∧ (let s := withReq { streamer with wait := .restore, waitSince := 100009796 }
       coreRuns s = true ∧ (reqOf s 0).wait = .restore
         ∧ (reqOf s 0).waitSince + (if headAffine (reqOf s 0) then 200 else 204) ≤ s.time.now)
    ∧ (let s := withReq { streamer with positions := [{ p := 0, id := 0, tick := {}, stamp := 0, waitsRead := true }] }
       coreRuns s = true
         ∧ ((reqOf s 0).positions[(0 : W32).toNat]?).any
             (fun x => x.waitsRead && decide (overflowAt (reqOf s 0) x ≤ s.time.now)) = true
         ∧ (reqOf s 0).st ≠ .closing
         ∧ (reqOf s 0).pendingClosed = none)
    ∧ (let s : State := { withReq { streamer with queue := [waiting .tokens] } with fns := [(0, { st := .starting })] }
       nodeUp s = true ∧ (reqOf s 0).queue.find? (·.parked) = some (waiting .tokens) ∧ (reqOf s 0).withheldSent = false
         ∧ (reqOf s 0).entryBad = false ∧ (reqOf s 0).st ≠ .closing ∧ parks s (reqOf s 0) = true
         ∧ roomFor s 0 = true ∧ (fnOf s (reqOf s 0).fn).act.parkLimit.toNat ≤ (waiting .tokens).boundaries)
    ∧ (let s : State := { withReq { streamer with pinned := true, pinTicks := 1000 } with
         time := { up.time with now := 100000000 } }
       coreRuns s = true ∧ s.tick.cur.idx ≠ 0 ∧ s.time.now = s.tick.at_ ∧ (reqOf s 0).st ≠ .free ∧ (reqOf s 0).pinned = true
         ∧ (fnOf s (reqOf s 0).fn).act.pinLimit.toNat ≤ (reqOf s 0).pinTicks) := by decide
theorem wit_DescriptorsNeedOperational : pre.mgmt.nmt ≠ .operational ∧ ∃ t, exec (.accept (desc 0)) pre = .next t :=
  ⟨by decide, _, rfl⟩

/-! ## Mortise array -/

theorem served (s : State) (path : Path) (i : W16) (b : Byte)
    (h : pathHeard s path = true ∧ sessionOf s path = none ∧ s.mgmt.nmt ≠ .initialisation) : Served s path i b :=
  ⟨h.1, h.2.1, .inl h.2.2⟩
/-- A write of the mailbox is served in Operational and in Pre-operational, of the CAN path too. -/
theorem wit_Served : (∀ i b, Served up .mailbox i b) ∧ (∀ i b, Served up .can i b) ∧ (∀ i b, Served pre .mailbox i b) :=
  ⟨fun i b => served _ _ i b (by decide), fun i b => served _ _ i b (by decide), fun i b => served _ _ i b (by decide)⟩

/-- One rule of tag 5: field 0 from 10 to 20, priority as given. -/
def rule (priority : BitVec 12) (lo : W32 := 10) : MEntry :=
  { image := { lo := [lo, 0, 0, 0, 0, 0, 0, 0], hi := [20, 0, 0, 0, 0, 0, 0, 0], action := 5, priority := priority, enables := 1 }
    st := .valid }
def withRules (l : Tbl MEntry) : State := { up with mortise := { entries := l } }
def keyOf (k : W32) : List W32 := [k, 0, 0, 0, 0, 0, 0, 0]

/-- Of two matches of one priority the first wins; the bounds are inclusive, the window half-open (07 R219 to R221). -/
theorem test_search :
    (findLocal (withRules [(3, rule 7), (8, rule 7)]) (keyOf 20) 0 6).index = 3
      ∧ (findLocal (withRules [(3, rule 7), (8, rule 9)]) (keyOf 10) 5 6).index = 8
      ∧ (findLocal (withRules [(3, rule 7)]) (keyOf 21) 0 6).hit = false
      ∧ (findLocal (withRules [(3, rule 7)]) (keyOf 20) 0 5).hit = false := by decide
theorem wit_SearchFindsTheBestMatch :
    (findLocal (withRules [(3, rule 7), (8, rule 7)]) (keyOf 20) 0 6).hit = true := by decide
theorem wit_EntriesAreUpdated :
    let s := withRules [(0, rule 7)]
    let w := withRules [(0, { rule 7 with st := .written })]
    let b : State := { up with mortise := { bulkCount := 1 } }
    (s.mortise.bulkSt ≠ .running ∧ (entryOf s 0).st ≠ .empty ∧ (entryOf s 0).st = .valid)
    ∧ ((entryOf up 0).st ≠ .valid ∧ badRange up.mortise.winImage = false)
    ∧ (entryOf w 0).st = .written
    ∧ ((262143 : W32).toNat ≤ 262143 ∧ 262143 < (262144 : W32).toNat)
    ∧ (b.mortise.bulkSt ≠ .running ∧ b.mortise.bulkCount ≠ 0)
    ∧ (let x : BulkStep := { entry := 9, image := {} }
       let t (third : Bool) : State := { up with mortise := { bulkStep := some { x with third := third } } }
       (t false).mortise.bulkStep = some x ∧ x.third = false
         ∧ (t true).mortise.bulkStep = some { x with third := true }) := by decide
/-- The record of a run: entry 1, an enabled field with lo above hi, or without. -/
def recordBytes (lo : Byte) (invalidate : Byte := 0) : List Byte := [1, 0, 0, 0, invalidate, 0, 0, 0, 0, 0, 0, 0, 0, 0, 0, 0, lo] ++ List.replicate 73 0 ++ [1]
  ++ List.replicate 37 0
def bulkOf (lo : Byte) : Job := { key := .bulk, port := 6, len := 256, got := [(0, recordBytes lo)], left := 128 }
def running (lo : Byte) : State :=
  { up with mortise := { bulkSt := .running, bulkCount := 2, bulkTotal := 2 }, jobs := [bulkOf lo] }
set_option maxRecDepth 10000 in
theorem wit_EntriesAreUpdated_bulk :
    (coreRuns (running 1) = true ∧ (running 1).mortise.bulkSt = .running ∧ jobOf (running 1) .bulk = some (bulkOf 1)
      ∧ (running 1).mortise.bulkApplied = 0 ∧ jobSlice (bulkOf 1) 0 128 = some (recordBytes 1)
      ∧ (byteAt (recordBytes 1) 4).getLsbD 0 = false ∧ badRange (readImage ((recordBytes 1).drop 16)) = true)
    ∧ (jobSlice (bulkOf 0) 0 128 = some (recordBytes 0) ∧ badRange (readImage ((recordBytes 0).drop 16)) = false
      ∧ (byteAt (recordBytes 0) 4).getLsbD 0 = false ∧ (running 0).mortise.bulkStep = none)
    ∧ (let j : Job := { bulkOf 0 with got := [(0, recordBytes 0 1)] }
       jobSlice j 0 128 = some (recordBytes 0 1) ∧ (byteAt (recordBytes 0 1) 4).getLsbD 0 = true) := by decide

def cursorAsked : Search :=
  { id := 4, req := { asker := .cursor, key := keyOf 0, tagBase := 0, tagLimit := 1, level := 4, order := 0 }, issue := 0
    found := { hit := true, index := 9 }, back := true }
def screened (back : Bool) (issue : Nat := 100009980) : Search :=
  { id := 5, req := { asker := .s3 0 0, key := keyOf 0, tagBase := 0, tagLimit := 1, level := 2, order := 0 }
    issue := issue, found := {}, back := back }

theorem wit_CursorAndCapture :
    up.mortise.curSt ≠ .busy
    ∧ (let s : State := { up with mortise := { curSt := .busy, searches := [cursorAsked] } }
       coreRuns s = true ∧ cursorSearch s = some cursorAsked ∧ searchById s cursorAsked.id = some cursorAsked
         ∧ cursorAsked.back = true ∧ cursorAsked.issue + searchDelay s ≤ s.time.now ∧ s.mortise.curSt = .busy)
    ∧ (cursorAsked.found.fault = false ∧ cursorAsked.found.hit = true) ∧ (1 : Byte).toNat ≤ 1 := by decide
theorem wit_ShadowAndScrub :
    (let s : State := { up with mortise := { refresh := [262143] } }
     coreRuns s = true ∧ s.mortise.refresh.contains (262143 : BitVec 18).toNat = true)
    ∧ (nodeUp up = true ∧ up.mortise.scrubOn = 1 ∧ up.mortise.scrubLast + up.mortise.scrubInterval.toNat ≤ up.time.now
        ∧ up.mortise.scrubAt < 262143 ∧ up.mortise.refresh.contains up.mortise.scrubAt = false
        ∧ portStepped up = false
        ∧ shadowOf (entryOf up up.mortise.scrubAt) = Tbl.get {} up.mortise.shadow up.mortise.scrubAt)
    ∧ (let s := withRules [(0, rule 7)]
       shadowOf (entryOf s s.mortise.scrubAt) ≠ Tbl.get {} s.mortise.shadow s.mortise.scrubAt
         ∧ (entryOf s s.mortise.scrubAt).suspect = false) := by decide
theorem wit_SearchResults :
    (let s : State := { up with mortise := { searches := [screened false] } }
     coreRuns s = true ∧ searchById s 5 = some (screened false) ∧ askerSlot (screened false).req.asker = some 0
       ∧ cascaded s = false ∧ (screened false).sent = false ∧ (screened false).back = false
       ∧ (screened false).issue + 20 ≤ s.time.now)
    ∧ (let x := screened false 100009704
       let s : State := { up with mortise := { size := 2, searches := [x] } }
       coreRuns s = true ∧ searchById s 5 = some x ∧ askerSlot x.req.asker = some 0 ∧ cascaded s = true ∧ x.back = false
         ∧ x.issue + searchDelay s + 256 ≤ s.time.now) := by decide
set_option maxRecDepth 100000 in
theorem wit_CascadeFrames :
    let x : Search := { screened false with sent := true, tag := 3 }
    let s : State := { up with mortise := { size := 4, position := 3, searches := [x] } }
    let f : KeyFrame := { origin := 2, key := keyOf 0 }
    let r : ResultFrame := { origin := 3, tag := 3 }
    let q : SearchReq := { (screened false).req with asker := .remote 2 7 false 0 }
    let y : Search := { screened false with tag := 7, req := q }
    let m : State := { s with mortise := { s.mortise with searches := [y] } }
    let g : ResultFrame := { origin := 2, tag := 7 }
    nodeUp s = true ∧ cascaded s = true ∧ KeyFrame.crc f + 1 ≠ KeyFrame.crc f ∧ f.origin ≠ posBits s
      ∧ ({ f with origin := 3 } : KeyFrame).origin = posBits s
      ∧ (q.asker = .remote 2 7 false 0 ∧ (findLocal s q.key q.tagBase q.tagLimit).hit = false)
      ∧ ResultFrame.crc r + 1 ≠ ResultFrame.crc r ∧ r.origin = posBits s
      ∧ s.mortise.searches.find? (awaited s r.tag) = some x
      ∧ (g.origin ≠ posBits m ∧ m.mortise.searches.find? (ofFrame g) = some y
          ∧ y.req.asker = .remote g.origin g.tag false 0)
      ∧ s.mortise.searches.find? (if g.origin = posBits s then awaited s g.tag else ofFrame g) = none := by decide
theorem wit_VerdictOfASearch :
    let x : Found := { hit := true, action := 0x4000000000000000 }
    let c : Found := { hit := true, action := 0x3000000000000000 }
    let q := (screened false).req
    x.fault = false ∧ q.fault = false ∧ x.hit = true ∧ wClass x.action ≤ 4 ∧ ¬ (0 = 0 ∧ wClass x.action = 3)
      ∧ 4 < wClass 0x5000000000000000 ∧ wClass c.action = 3 ∧ ({} : Found).hit = false
      ∧ ({ fault := true } : Found).fault = true := by decide

/-- A position that the gate passes in GATE_FULL: committed, scanned, PASS at both stages. -/
def goodPos : Pos :=
  { p := 0, id := 1, tick := {}, stamp := 0, scanned := true, s3 := some ⟨0, 0, 0xFFFFFFFF, 0, {}, 0, false, 0⟩
    s4 := .done ⟨0, 0, 0xFFFFFFFF, 0, {}, 0, false, 0⟩ }
theorem wit_GatePassesOnlyScreenedPositions :
    let r : Request := { streamer with c := 2, s := 2, positions := [goodPos, { goodPos with p := 1 }] }
    r.positions[0]? = some goodPos
      ∧ (gateRun 0 0 1 3 0 r).positions[0]? = some { goodPos with applied := true } ∧ goodPos.applied = false := by decide
theorem wit_ReleaseRecordsCarryTheAnswer :
    (releaseRecs 0 [{ goodPos with bytes := List.replicate 37 65 }] 37 0 37).length = 2 := by decide

/-! ## Management -/

def cascade : State := { pre with mortise := { size := 2, ring := .unused } }
theorem wit_NmtCommands :
    (nmtHeard up 0 = true ∧ nmtHeard pre 1 = true)
    ∧ ((pre.mgmt.nmt = .preOperational ∨ pre.mgmt.nmt = .stopped) ∧ pre.mortise.probe = none ∧ startFails pre = none
        ∧ cascaded pre = false)
    ∧ (cascade.mortise.probe = none ∧ startFails cascade = none ∧ cascaded cascade = true)
    ∧ (let s : State := { pre with tick := { minPeriod := 0 } }
       startFails s = some (.tickConfig, 0) ∧ s.mortise.probe = none)
    ∧ (pre.mgmt.nmt ≠ .initialisation ∧ pre.mgmt.nmt ≠ .stopped ∧ State.reset.mgmt.nmt = .initialisation)
    ∧ (up.mgmt.nmt = .operational ∧ (Nmt.stopped) ≠ .operational
        ∧ (fnOf { up with fns := [(2, { st := .starting })] } 2).st = .starting
        ∧ (fnOf { up with fns := [(2, { st := .running })] } 2).st = .running
        ∧ (fnOf { up with fns := [(2, { st := .stopping })] } 2).st = .stopping) := by decide
theorem wit_RingProbe :
    let s : State := { pre with mortise := { size := 4, position := 2, probe := some 98010001, ring := .probing } }
    let u : State := { pre with mortise := { size := 4, position := 2, probe := some 98010000, ring := .probing } }
    coreRuns s = true ∧ s.mortise.probe = some 98010001 ∧ s.time.now < 98010001 + 2000000
      ∧ probeGood s [(4, 3), (4, 0), (4, 1)] = true ∧ probeGood s [(4, 3), (4, 1), (4, 0)] = false
      ∧ u.mortise.probe = some 98010000 ∧ 98010000 + 2000000 ≤ u.time.now
      ∧ ({ origin := 1 } : Probe).origin ≠ s.mortise.position.truncate 2 ∧ s.mgmt.nmt ≠ .initialisation := by decide
theorem wit_FramesOnTheBus :
    (({ up with mgmt := { up.mgmt with activeNode := 0 } } : State).mgmt.activeNode = 0
      ∧ ({ up with mgmt := { up.mgmt with activeNode := 0 } } : State).mgmt.nmt ≠ .initialisation)
    ∧ (canSends up = true ∧ up.mgmt.heartbeatMs ≠ 0
        ∧ up.mgmt.lastHeartbeat.toNat + 1000 * up.mgmt.heartbeatMs.toNat ≤ up.time.gtAccepted.toNat)
    ∧ (let s : State := { up with mgmt := { up.mgmt with
           emcyQueue := [⟨0x8100, 0x11, 0⟩], lastEmcy := some 50004900, inhibitEmcy := 1 } }
       canSends s = true ∧ s.mgmt.emcyQueue = ⟨0x8100, 0x11, 0⟩ :: [] ∧ (cobEmcyOf s.mgmt).getLsbD 31 = false
         ∧ (50004900 : W64).toNat + 100 * s.mgmt.inhibitEmcy.toNat ≤ s.time.gtAccepted.toNat)
    ∧ (let s : State := { up with mgmt := { up.mgmt with
           tpdos := [(0, { timer := 10, inhibit := 100, lastSent := some 49995000 })] } }
       canSends s = true ∧ (cobTpdoOf s.mgmt (0 : Fin 8).val).getLsbD 31 = false ∧ (tpdoOf s.mgmt 0).timer ≠ 0
         ∧ ((tpdoOf s.mgmt 0).lastSent.getD 0).toNat + 1000 * (tpdoOf s.mgmt 0).timer.toNat ≤ s.time.gtAccepted.toNat
         ∧ ((tpdoOf s.mgmt 0).lastSent.getD 0).toNat + 100 * (tpdoOf s.mgmt 0).inhibit.toNat
             ≤ s.time.gtAccepted.toNat) := by decide
theorem wit_ManagementRequests :
    let down : Session := { index := 0x2800, sub := 1, upload := false, data := [1], total := 2, since := 49005000 }
    let o : State := { up with mgmt := { up.mgmt with sessMbx := some down } }
    let v : State := { up with mgmt := { up.mgmt with sessMbx := some { down with upload := true, since := 49004999 } } }
    (pathHeard up .mailbox = true ∧ up.mgmt.mbxBusy = false
      ∧ ({ up with mgmt := { up.mgmt with mbxBusy := true } } : State).mgmt.mbxBusy = true)
    ∧ (sessionOf up .can = none ∧ pathHeard up .can = true ∧ (2 : W32).toNat ≤ 65536 ∧ ([1] : List Byte).length ≤ (2 : W32).toNat)
    ∧ writeOpen (countRequest up .mailbox) .mailbox 0x1017 0 (2 : W32).toNat = none
    ∧ (pathHeard o .mailbox = true ∧ sessionOf o .mailbox = some down ∧ down.upload = false
        ∧ o.time.gtAccepted.toNat ≤ down.since.toNat + 1000000)
    ∧ (coreRuns v = true ∧ sessionOf v .mailbox = some { down with upload := true, since := 49004999 }
        ∧ (49004999 : W64).toNat + 1000000 < v.time.gtAccepted.toNat) := by decide
theorem wit_ManagementRequests_read :
    dictRead (countRequest up .mailbox) .mailbox 0x1017 0 = .inl [100, 0]
      ∧ dictRead (countRequest up .mailbox) .mailbox 0x1FFF 0 = .inr abNoIndex := by decide
theorem wit_ObjectCommands :
    let t : State := { up with acct := { tenants := [(0, { valid := true })] }, req := { table := [(0, streamer)] } }
    (({ up with boot := { up.boot with verState := 1 } } : State).boot.verState = 1
      ∧ ({ up with boot := { up.boot with verState := 1 } } : State).boot.pairId = up.boot.pair ∧ up.boot.verState ≠ 1)
    ∧ (tenantOpen up (selectedTenant up) = 0 ∧ (tenantOf up (selectedTenant up)).valid = false
        ∧ 0 < tenantOpen t (selectedTenant t))
    ∧ ((1 : Byte).toNat ≤ 1 ∧ engineBound up 55 = false ∧ patternUsed up 55 = false)
    ∧ (up.mgmt.nmt = .operational ∧ startCheck { up with eng := { plans := [(0, { st := .loaded, format := 1 })] } } 0 = 1
        ∧ startCheck up 0 ≠ 1 ∧ startCheck up 0 ≠ 0x10
        ∧ (fnOf { up with fns := [(63, { st := .starting })] } 63).st = .starting
        ∧ (fnOf { up with fns := [(63, { st := .running })] } 63).st = .running) := by decide
theorem wit_SlotLoads :
    let s : State := { up with
      eng := { plans := [(0, { st := .loaded })] }, text := { vocabs := [(7, { st := .loading })] } }
    ((planOf up (selectedPlan up)).st = .empty ∧ (planOf s (selectedPlan s)).st = .loaded
      ∧ (∀ e ∈ s.fns, e.2.st = .idle ∨ selectedPlan s ∉ boundPlans e.2))
    ∧ ((vocabOf up 7).st = .empty ∧ (vocabOf s 7).st = .loading ∧ anyReq up (fun r => r.vocab == 7) = false
        ∧ (∀ e ∈ up.text.grammars, e.2.st = .empty ∨ e.2.against ≠ BitVec.ofNat 8 (7 : Fin 8).val))
    ∧ ((grammarOf up 63).st = .empty ∧ anyReq up (fun r => r.grammarEnable && r.grammar == 63) = false) := by decide
theorem wit_VersionCommands :
    let p : Pub := { version := 3, tick := 9, atNext := false, port := 0, seq := 0, stamp := 0 }
    let s : State := { up with tune := { sets := [(0, { staging := .ready, stagingNum := 3, pending := some p, tuning := 1 })] } }
    let l : State := { up with tune := { sets := [(0, { loadVersion := 1 })], screens := [(0, { loadVersion := 1 })] } }
    let g : State := { up with tune := { screens := [(0, { other := .loading })] } }
    pendingNamesStaging (dsetOf s (selectedSet s)) = true ∧ pendingNamesStaging (dsetOf l (selectedSet l)) = false
      ∧ (dsetOf l (selectedSet l)).highest.toNat < (dsetOf l (selectedSet l)).loadVersion.toNat
      ∧ (dsetOf up (selectedSet up)).loadVersion.toNat ≤ (dsetOf up (selectedSet up)).highest.toNat
      ∧ (dsetOf l (selectedSet l)).staging ≠ .loading ∧ (dsetOf s (selectedSet s)).staging ≠ .empty
      ∧ (dsetOf s (selectedSet s)).tuning = 1 ∧ setBound l (selectedSet l) = false
      ∧ (dsetOf l (selectedSet l)).tuning ≠ 1 ∧ otherUsed l (selectedScreen l) = false
      ∧ (screenOf l (selectedScreen l)).other ≠ .loading
      ∧ (screenOf l (selectedScreen l)).highest.toNat < (screenOf l (selectedScreen l)).loadVersion.toNat
      ∧ otherUsed g (selectedScreen g) = false ∧ (screenOf g (selectedScreen g)).other = .loading := by decide
def endedJob (k : JobKey) (failed : Option W64) : Job := { key := k, port := 6, len := 64, left := 0, failed := failed }
theorem wit_LoadsComplete :
    let s : State := { up with
      jobs := [endedJob (.plan 2) none, endedJob (.vocab 1) (some 9), endedJob (.grammar 5) none, endedJob (.delta 7) none,
        endedJob (.backbone 8) none]
      eng := { plans := [(2, { st := .loading })] }
      text := { vocabs := [(1, { st := .loading })], grammars := [(5, { st := .loading })] }
      tune := { sets := [(7, { staging := .loading })], screens := [(8, { other := .loading, current := 1 })] } }
    coreRuns s = true
      ∧ (jobOf s (.plan 2) = some (endedJob (.plan 2) none) ∧ (endedJob (.plan 2) none).over = true
        ∧ (planOf s 2).st = .loading)
      ∧ (jobOf s (.vocab 1) = some (endedJob (.vocab 1) (some 9)) ∧ (endedJob (.vocab 1) (some 9)).over = true
        ∧ (vocabOf s 1).st = .loading)
      ∧ (jobOf s (.grammar 5) = some (endedJob (.grammar 5) none) ∧ (grammarOf s 5).st = .loading)
      ∧ (jobOf s (.delta 7) = some (endedJob (.delta 7) none) ∧ (dsetOf s 7).staging = .loading)
      ∧ (jobOf s (.backbone 8) = some (endedJob (.backbone 8) none) ∧ (screenOf s 8).other = .loading
        ∧ (screenOf s 8).current ≠ 0)
      ∧ (let b : State := { pre with tune := { screens := [(8, { other := .loading })] } }
         (screenOf b 8).current = 0 ∧ ¬ operational b) := by decide

/-! ## Tiles and Live Tuning -/

def tile : Tile :=
  { id := 1, engine := 47, kind := 0, role := 0, fmtA := 0xF, fmtB := 0xF, grouping := 0, intPath := false, deltaCapable := false
    layer := 0, m := 0, k := 0, n := 0, waitFor := 0, waitValid := false, screen := 0, weightOffset := 0 }
def item : WorkItem :=
  { n := 3, slot := 0, kind := .watch [0], cost := 1, tick := {}, fn := 0, tenant := 0, latency := false, placed := true
    todo := [0] }
def working : State :=
  { withReq streamer with
    fns := [(0, { st := .running })], eng := { plans := [(0, { st := .loaded, tiles := [tile] })] }
    req := { table := [(0, streamer)], items := [item] } }
theorem wit_TilesRun :
    let rt : RunTile := { of_ := .items [3], tile := tile, start := 0 }
    let s : State := { working with eng := { engines := [(47, { running := some rt })] } }
    (gafferRuns working = true ∧ (startOf working (47 : Fin 48).val (.items [3])).map (fun x => (x.1, x.2.tile)) = some (0, tile)
      ∧ (engOf working (47 : Fin 48).val).running = none ∧ (engOf working (47 : Fin 48).val).pool = true
      ∧ loadFits (47 : Fin 48).val tile (onIntPath working tile {} {}) {} = true)
    ∧ (coreRuns s = true ∧ (engOf s (47 : Fin 48).val).running = some rt
      ∧ tileEnd s (47 : Fin 48).val rt (feedHalf (engOf s (47 : Fin 48).val)).load ≤ s.time.now)
    ∧ (let w : State := { up with eng := { engines := [(47, { rewriting := [(9, 100000000)] })] } }
       coreRuns w = true ∧ (engOf w (47 : Fin 48).val).rewriting.find? (fun x => x.1 == 9) = some (9, 100000000)
         ∧ 100000000 + ceilDiv (pegBytes w (47 : Fin 48).val 9) 2000 ≤ w.time.now) := by decide

/-- A set that is being tuned under plan 0, whose patches are 16 bytes, with the policy that names it. -/
def tuned : State :=
  { up with
    acct := { tenants := [(0, { valid := true, ranges := [(7, 0x00010000)] })]
              policies := [(0, { valid := true, deltaSet := 0, deltaSetNow := 0 })] }
    eng := { plans := [(0, { st := .loaded, tuning := true, patchBytes := 16 })] }
    tune := { enable := 1, sets := [(0, { tuning := 1, current := some { version := 2, fromCut := false } })] } }
theorem wit_FeedbackAndPublish_feedback :
    let d := desc (at_ 12 32 + at_ 32 7)
    Clean tuned d 9 ∧ feedbackReason (arrived tuned d) d = 0
      ∧ Clean up d 9 ∧ feedbackReason (arrived up d) d ≠ 0 := by unfold Clean; decide
theorem wit_FeedbackAndPublish_publish :
    let s : State := { up with tune := { sets := [(1023, { stagingNum := 3, current := some { version := 2, fromCut := false } })] } }
    let d (v k : Nat) := desc (at_ 14 1023 + at_ 16 v + at_ 20 k)
    Clean s (d 2 6) 10 ∧ pfield (d 2 6) 14 0 16 ≤ 1023
      ∧ (2 : W32) ∈ (targetVersions s false 1023).1 ∧ (targetVersions s false 1023).2 = 2
      ∧ Clean s (d 3 6) 10 ∧ (3 : W32) ∈ (targetVersions s false 1023).1
      ∧ numAfter (BitVec.ofNat 48 (pfield (d 3 6) 20 0 48)) s.tick.cur.num = true
      ∧ (targetVersions s false 1023).1 ≠ [] ∧ (4 : W32) ∉ (targetVersions s false 1023).1 := by unfold Clean; decide
theorem wit_FeedbackAndPublish_past :
    let s : State := { up with tune := { sets := [(1023, { stagingNum := 3, current := some { version := 2, fromCut := false } })] } }
    let d := desc (at_ 14 1023 + at_ 16 3 + at_ 20 5)
    Clean s d 10 ∧ (3 : W32) ∈ (targetVersions s false 1023).1 ∧ s.tick.cur.idx ≠ 0
      ∧ numAfter (BitVec.ofNat 48 (pfield d 20 0 48)) s.tick.cur.num = false
      ∧ Clean up d 10 ∧ (targetVersions up false 1023).1 = [] := by unfold Clean; decide
theorem wit_FeedbackAndPublish_noTarget :
    let d := desc (at_ 14 1024)
    Clean up d 10 ∧ 1023 < pfield d 14 0 16 := by unfold Clean; decide

def span : Span :=
  { length := 32, addr := 0, tenant := 0, policy := 0, head := 0, target := 0, seq := 7, port := 0, crossed := 4 }
def batch : Batch := { seq := 0, set := 0, spans := [span], patches := 2, cost := 0, plan := 0, placed := true }
theorem wit_MicroBatches_form :
    let s : State := { tuned with
      time := { up.time with now := 100080000 }
      tune := { tuned.tune with queue := [span] } }
    operational s = true ∧ s.tick.opTick = true ∧ s.tick.intakeClosed = false ∧ s.tune.enable = 1 ∧ forms s 0 = true
      ∧ setSpans s 0 = span :: [] ∧ s.tune.fillTicks.toNat ≤ span.crossed
      ∧ s.time.now = s.tick.at_ + s.tick.intakeClose.toNat
      ∧ fitSpans (planOf s (dsetOf s 0).tuningPlan) s.tune.patches.toNat (setSpans s 0) ≠ [] := by decide
theorem wit_MicroBatches_end :
    let s : State := { tuned with tune := { tuned.tune with batches := [batch] } }
    let c : State := { tuned with tune := { sets := [(0, { staging := .cutting })], batches := [batch] } }
    (coreRuns s = true ∧ batchOf s 0 = some batch ∧ batch.placed = true ∧ batch.todo = [] ∧ batch.running = 0
      ∧ batch.finished = false ∧ batchFault s { batch with fault := true } { ys := [] } = true
      ∧ batchFault s batch { ys := [] } = false ∧ batch.doomed = false ∧ (dsetOf s batch.set).staging ≠ .cutting)
    ∧ (batchOf c 0 = some batch ∧ batchFault c batch { ys := [] } = false
        ∧ (dsetOf c batch.set).staging = .cutting) := by decide
theorem wit_MicroBatches_closed :
    let s : State := { tuned with
      time := { up.time with now := 100080000 }, tick := { up.tick with intakeClosed := true }
      tune := { tuned.tune with queue := [span], enableNow := 1 } }
    operational s = true ∧ s.tick.opTick = true ∧ s.tick.intakeClosed = true ∧ s.tune.enableNow = 1 ∧ forms s 0 = true
      ∧ setSpans s 0 = span :: [] ∧ s.tune.fillTicks.toNat ≤ span.crossed
      ∧ s.time.now = s.tick.at_ + s.tick.intakeClose.toNat := by decide
theorem wit_Cuts :
    let s : State := { up with
      time := { up.time with now := 100000000 }
      tune := { sets := [(5, { autoCut := 3, cutTicks := 3, stepsSinceCut := true })] } }
    let v : DVersion := { version := 3, fromCut := true }
    let c : State := { up with tune := { sets := [(5, { staging := .cutting, stagingV := some v })] } }
    (coreRuns s = true ∧ s.tick.cur.idx ≠ 0 ∧ s.time.now = s.tick.at_ ∧ (dsetOf s 5).autoCut ≠ 0
      ∧ (dsetOf s 5).autoCut.toNat ≤ (dsetOf s 5).cutTicks ∧ (dsetOf s 5).stepsSinceCut = true
      ∧ cutAborts (dsetOf s 5) = false)
    ∧ (coreRuns c = true ∧ (dsetOf c 5).stagingV = some v ∧ (dsetOf c 5).staging = .cutting
        ∧ (dsetOf c 5).cutAt + ceilDiv (2 * (masterOf (dsetOf c 5)).length) 512 ≤ c.time.now) := by decide

/-! ## Stream state and the checkpoint shard -/

def coldJob (b : List Byte) : Job := { key := .cold 0, port := 0, len := 131072, got := [(0, b)], left := 0 }
theorem wit_ColdStorage :
    let m := withReq { streamer with st := .paused, coldSt := .moving 4 }
    let c (b : List Byte) : State := { withReq { streamer with st := .paused, coldSt := .resuming 4 } with jobs := [coldJob b] }
    let x : State := { withReq { streamer with st := .paused, expiry := 50005000 } with
      time := { up.time with now := 100000000 } }
    let w : State := { up with text := { maskWriting := [(63, 9)] } }
    (coreRuns m = true ∧ (reqOf m 0).coldSt = .moving 4 ∧ (reqOf m 0).st ≠ .free ∧ (reqOf m 0).st ≠ .closing
      ∧ writesLeft m (.cold 0) = false ∧ (reqOf m 0).wait ≠ .copyBack)
    ∧ (coreRuns (c []) = true ∧ (reqOf (c []) 0).coldSt = .resuming 4 ∧ jobOf (c []) (.cold 0) = some (coldJob [])
        ∧ (reqOf (c []) 0).st ≠ .free ∧ (reqOf (c []) 0).st ≠ .closing ∧ (coldJob []).left = 0
        ∧ badPage (coldJob []).bytes (reqOf (c []) 0).windowPages.length = none
        ∧ jobOf (c [1]) (.cold 0) = some (coldJob [1])
        ∧ badPage (coldJob [1]).bytes (reqOf (c [1]) 0).windowPages.length = some 0)
    ∧ (coreRuns x = true ∧ x.tick.cur.idx ≠ 0 ∧ x.time.now = x.tick.at_ ∧ (reqOf x 0).st = .paused
        ∧ (reqOf x 0).coldSt ≠ .released ∧ (reqOf x 0).expiry ≠ 0 ∧ (reqOf x 0).expiry.toNat ≤ x.time.gtAccepted.toNat)
    ∧ (w.text.maskWriting.contains (63, 9) = true ∧ writesLeft w (.mask 63 9) = false) := by decide
theorem wit_CheckpointSteps :
    let s : State := { up with ckpt := { baseA := 0x1000, sizeA := 0x100000, baseB := 0x200000, sizeB := 0x100000 } }
    let w (k : CkStep) : State := { s with ckpt := { s.ckpt with st := .writing, step := k } }
    (s.ckpt.st = .idle ∧ slotSet s false = true ∧ slotSet s true = true ∧ (w .commit).ckpt.st ≠ .idle)
    ∧ (coreRuns (w .zeroCommit) = true ∧ (w .zeroCommit).ckpt.st = .writing ∧ writesLeft (w .zeroCommit) .checkpoint = false
        ∧ (w .zeroCommit).ckpt.step = .zeroCommit ∧ (w .zeroCommit).ckpt.tuned ≤ 64
        ∧ 4096 + (shardBytes (w .zeroCommit).ckpt.sections).length
            ≤ (slotSize (w .zeroCommit) (w .zeroCommit).ckpt.target).toNat)
    ∧ (w .sections).ckpt.step = .sections ∧ (w .fragment).ckpt.step = .fragment ∧ (w .commit).ckpt.step = .commit
    ∧ (let c : State := { up with stream := { up.stream with copySet := [9] } }
       coreRuns c = true ∧ c.stream.copySet.contains 9 = true
         ∧ c.stream.staged.length < 8 * regionHalf c 6) := by decide
theorem wit_RestoreSteps :
    let s : State := { pre with ckpt := { baseA := 0x1000, sizeA := 0x100000 } }
    let b : State := { pre with ckpt := { s.ckpt with baseB := 0x200000, sizeB := 0x100000 } }
    let r : State := { s with ckpt := { s.ckpt with st := .restoring } }
    let a : State := { s with ckpt := { s.ckpt with st := .awaitingAck, chosen := some false } }
    (s.ckpt.st = .idle ∧ s.mgmt.nmt = .preOperational ∧ s.tune.enable = 0 ∧ slotSet s false = true ∧ slotSet s true = false
      ∧ slotSet b true = true)
    ∧ up.ckpt.st = .idle ∧ up.mgmt.nmt = .operational
    ∧ (coreRuns r = true ∧ r.ckpt.st = .restoring ∧ r.jobs = [] ∧ r.ckpt.chosen = none)
    ∧ leAt ({ up with boot := { up.boot with identity := 1 } } : State).ckpt.fragment 24 48 ≠ (1 : BitVec 384).toNat
    ∧ (a.ckpt.st = .awaitingAck ∧ a.ckpt.chosen = some false ∧ (0x5A3D : W16) ≠ 0x5A3C) := by decide

/-! ## Ticks and global time -/

theorem wit_TickBegins :
    nodeUp up = true ∧ true ≠ up.tick.refLevel ∧ up.mgmt.nmt = .operational ∧ up.tick.opTick = true
      ∧ pre.mgmt.nmt ≠ .operational ∧ tickNumber 5 6 = (6, none) ∧ (tickNumber 5 7).2 ≠ none := by decide
theorem wit_WithinTheTick :
    let s : State := { up with time := { up.time with now := 100080000 }, cal := { periodOpen := true } }
    let a : State := { up with time := { up.time with now := 20100000000 } }
    let o : State := { up with tick := { up.tick with overrunRun := 8 }, mgmt := { up.mgmt with emcyQueue := [] } }
    (nodeUp s = true ∧ s.tick.cur.idx ≠ 0 ∧ s.tick.intakeClosed = false ∧ s.tick.at_ + s.tick.intakeClose.toNat ≤ s.time.now
      ∧ s.cal.periodOpen = true ∧ s.cal.closed = false ∧ s.tick.afterEntry = false)
    ∧ (operational a = true ∧ (if a.tick.cur.idx = 0 then a.tick.opEntry else max a.tick.opEntry a.tick.at_)
          + (a.tick.absentCount + 1) * (a.tick.maxPeriod.toNat * 2000) ≤ a.time.now)
    ∧ (coreRuns o = true ∧ o.tick.overrunThreshold.toNat ≤ o.tick.overrunRun.toNat ∧ o.tick.overrunSent = false
        ∧ (o.mgmt.nmt = .operational ∧ o.mgmt.emcyQueue.length < 16)) := by
  decide
theorem wit_GlobalTimeLoads :
    up.pwr.power = .active ∧ up.pwr.stopped.contains .refclk = false ∧ false = up.time.gtApply ∧ true ≠ up.time.gtApply := by
  decide

/-! ## The worked examples of the spec -/

/-- 02: with the tick at 1,000,000,000 a descriptor stamped 79,999 after it belongs to tick n, one stamped 80,000 after
it to tick n + 1. -/
theorem test_example_intake :
    let s (n : Nat) : State := { up with
      time := { now := n }, tick := { up.tick with cur := { idx := 9, num := 40 }, at_ := 1000000000 } }
    (tickOf (s 1000079999)).num = 40 ∧ (tickOf (s 1000080000)).num = 41 := by decide

/-- 03: the handle 0x0D15_8007 is slot 0x1A2B and generation 7. -/
theorem test_example_handle : handleSlot 0x0D158007 = 0x1A2B ∧ handleGen 0x0D158007 = 7 := by decide

/-- 07: the entries A, B, C and D of the tie across two banks. -/
def tieEntries : Tbl MEntry :=
  let e (lo hi : List W32) (action : W64) (priority : BitVec 12) (enables : Byte) : MEntry :=
    { image := { lo, hi, action, priority, enables }, st := .valid }
  [(0x04007, e [0x24000000, 0, 0xA000, 0, 0, 0, 0, 0] [0x27FFFFFF, 0, 0xFFFF, 0, 0, 0, 0, 0] 0x1000000000010003 0x200 5),
   (0x08040, e [0, 0, 0, 0, 0, 0, 0, 0] [0, 0, 0, 0, 0, 0, 0, 0] 0x4000000000030000 0xFFF 0),
   (0x0C105, e [0x24104000, 0x40000000, 0xB000, 0, 0, 0, 0, 0] [0x24107FFF, 0x5FFFFFFF, 0xB7E0, 0, 0, 0, 0, 0]
      0x3012000100010040 0x300 7),
   (0x24002, e [0, 0, 0xB7E0, 0, 0, 0, 0, 0] [0, 0, 0xB7E0, 0, 0, 0, 0, 0] 0x2000000000010041 0x300 4)]
def tieKey : List W32 := [0x24105F40, 0x40000039, 0xB7E0, 0, 0, 0, 0, 0]
theorem test_example_tie :
    let f := findLocal (withRules tieEntries) tieKey 0x00010000 0x00020000
    f.index = 0x0C105 ∧ f.matchCount = 3 ∧ f.tieCount = 2 := by decide
theorem test_example_tie_verdict :
    let v := decideVerd up {} 2 (screened false).req (findLocal (withRules tieEntries) tieKey 0x00010000 0x00020000)
    v.cls = 3 ∧ v.tag = 0x00010040 ∧ v.flags = 0x30 := by decide
theorem test_example_tie_invalidated :
    let s := withRules (Tbl.put {} tieEntries 0x0C105 {})
    (findLocal s tieKey 0x00010000 0x00020000).index = 0x24002 ∧ (findLocal s tieKey 0x00010000 0x00020000).tieCount = 1 := by
  decide
theorem test_example_tie_cursor :
    let s := withRules tieEntries
    (findAbove s tieKey 0x00010000 0x00020000 none).index = 0x04007
      ∧ (findAbove s tieKey 0x00010000 0x00020000 (some 0x04007)).index = 0x0C105
      ∧ (findAbove s tieKey 0x00010000 0x00020000 (some 0x24002)).hit = false := by decide

/-- 19: with (0xB0, 0x0040) and (0xB0, 0x0041) tested, tile image 0x0042 is a mismatch of the tile kind, pair 0x8042. -/
theorem test_example_versions : decidePair [(0xB0, 0x0040), (0xB0, 0x0041)] 0x0042 = (1, 0x8042) := by decide

/-- 09: the FP8 E4M3 activation of scale 0.5: 232 is a tie, 235 saturates, 900 escapes. -/
theorem test_example_e4m3 :
    quantise 1 (1 / 2) 0 (some 1792) (.fin (25 / 32)) = .code 0x3C false ∧ quantise 1 (1 / 2) 0 (some 1792) (.fin 232) = .code 0x7E false
      ∧ quantise 1 (1 / 2) 0 (some 1792) (.fin 235) = .code 0x7E true ∧ quantise 1 (1 / 2) 0 (some 1792) (.fin 900) = .escape := by
  decide +kernel
/-- 09: the INT4 weight group of scale 0.25 and zero point 3: the tie is taken on t + zp. -/
theorem test_example_int4 :
    quantise 7 (1 / 4) 3 (some 28) (.fin (5 / 8)) = .code 6 false ∧ quantise 7 (1 / 4) 3 (some 28) (.fin (-21 / 8)) = .code 9 true
      ∧ quantise 7 (1 / 4) 3 (some 28) (.fin 7) = .code 7 true ∧ quantise 7 (1 / 4) 3 (some 28) (.fin (29 / 4)) = .escape := by
  decide +kernel
/-- 09: the cullet of 900 is 0x4461. -/
theorem test_example_cullet : e8m7Word 900 = 0x4461 := by decide +kernel
/-- 09: the ratio 1.875 × 2⁻⁸ gives M = 2,013,265,920 and a shift of 38. -/
theorem test_example_rescale : rescalePair (15 / 2048) = (2013265920, 38, false) := by decide +kernel

/-- 10: period 100 of slot 0x0A05 triggers, and its next scale is 0x7E6D; periods of 280 and then of 150 give 0x7E54. -/
theorem test_example_calibration :
    let slot (w : List Rat) (m a : Rat) (sat : Nat) : CalSlot :=
      { fmt := 1, scale := 0x7E24, window := w, m := m, a := a, sat := sat, counted := true }
    ((nextScale 4 0x0110 16 (slot [200, 240, 180, 210] (511 / 2) 300 40)).1.next = 0x7E6D
      ∧ (nextScale 4 0x0110 16 (slot [200, 240, 180, 210] (511 / 2) 300 40)).2 = 1)
    ∧ (nextScale 4 0x0110 16 (slot [300, 280, 150, 150] 150 150 0)).1.next = 0x7E54 := by decide +kernel

/-- 12: the items of tenants 9 and 7, 10,000 su, a quantum of 1,024: D, E, A and B are placed, and, having no tiles, are
done. -/
def fairShare : State :=
  let work (n : Nat) (t : BitVec 14) (su : Nat) : WorkItem :=
    { n := n, slot := BitVec.ofNat 17 n, kind := .watch [], cost := 256 * su, tick := {}, fn := 0, tenant := t
      latency := false }
  { fns := [(0, { st := .running })]
    acct := { lastServed := 8
              tenants := [(7, { valid := true, weight := 1, weightNow := 1, bucket := 256 * 6000 }),
                          (9, { valid := true, weight := 2, weightNow := 2, bucket := 256 * 20000 })] }
    req := { items := [work 1 7 3000, work 2 7 3000, work 3 7 3000, work 4 9 2000, work 5 9 2000, work 6 9 4000] } }
theorem test_example_fair_share :
    (planBulk fairShare 10000).req.items.map (·.n) = [3, 6]
      ∧ (planBulk fairShare 10000).acct.tenants.map (fun e => (e.1, e.2.bucket / 256, e.2.deficit / 256, e.2.waits))
          = [(7, 0, 144, 1), (9, 16000, 2144, 0)] := by decide +kernel

end Sys2Proof.Tests
end

section
/-! SUPPORT. What the registration of a tick leaves (02 R29, R30, R49), through the judging of the tick that ends, the
violations it reports and everything that takes effect at T_n. -/
namespace Sys2Proof.Machine
open Sys2Proof

/-! ## The number of a tick -/

/-- The distance from the last number is 1 modulo 2⁴⁸ at the expected number alone (02 R30). -/
theorem toNat_sub_eq_one_iff (last read : W48) : (read - last).toNat = 1 ↔ read = last + 1 := by
  rw [← BitVec.toNat_inj]; bv_omega

/-- The expected number is taken as it is, and violates nothing (02 R30). -/
theorem tickNumber_expected (last : W48) : tickNumber last (last + 1) = (last + 1, none) :=
  if_pos ((toNat_sub_eq_one_iff last _).mpr rfl)

/-- Every number but the expected one is reported (02 R30, R49). -/
theorem tickNumber_unreported_iff (last read : W48) : (tickNumber last read).2 = none ↔ read = last + 1 := by
  constructor
  · intro h
    unfold tickNumber at h
    dsimp only at h
    split at h
    · rename_i hd; exact (toNat_sub_eq_one_iff last read).mp hd
    · split at h <;> cases h
  · rintro rfl; rw [tickNumber_expected]

/-- The number that a tick registered now takes: the number read, under the rule of numbers from the second tick in
Operational on (02 R29, R30). -/
def registeredNumber (s : State) (num : W48) : W48 :=
  if s.mgmt.nmt == .operational && s.tick.opTick then (tickNumber s.tick.cur.num num).1 else num

theorem registeredNumber_unjudged {s : State} (h : s.mgmt.nmt ≠ .operational ∨ s.tick.opTick = false) (num : W48) :
    registeredNumber s num = num :=
  if_neg (by rcases h with h | h <;> simp [h])

theorem registeredNumber_judged {s : State} (hn : s.mgmt.nmt = .operational) (ho : s.tick.opTick = true) (num : W48) :
    registeredNumber s num = (tickNumber s.tick.cur.num num).1 :=
  if_pos (by simp [hn, ho])

/-! ## Judging the tick that ends, reporting, registering -/

@[simp] theorem judgeOverrun_mgmt (s : State) : (judgeOverrun s).mgmt = s.mgmt := by
  unfold judgeOverrun; dsimp only; split <;> rfl

@[simp] theorem judgeOverrun_opTick (s : State) : (judgeOverrun s).tick.opTick = s.tick.opTick := by
  unfold judgeOverrun; dsimp only; split <;> rfl

@[simp] theorem judgeOverrun_cur (s : State) : (judgeOverrun s).tick.cur = s.tick.cur :=
  congrArg Kept.cur (judgeOverrun_kept s)

@[simp] theorem registeredNumber_judgeOverrun (s : State) (num : W48) :
    registeredNumber (judgeOverrun s) num = registeredNumber s num := by
  simp [registeredNumber]

@[simp] theorem errRingWrite_tick (s : State) (rc : Rec) : (errRingWrite s rc).tick = s.tick := by
  unfold errRingWrite; dsimp only; split
  · rfl
  · simp only [sendWrite_tick]

@[simp] theorem violateAt_tick (s : State) (t : TickRef) (handle : W32) (v : ViolRec) :
    (violateAt s t handle v).tick = s.tick := by
  unfold violateAt; dsimp only; split
  · rfl
  · exact errRingWrite_tick ..

@[simp] theorem tickViolation_tick (s : State) (code : ViolCode) (port : BitVec 5) (a b : Nat) :
    (tickViolation s code port a b).tick = s.tick := violateAt_tick ..

theorem newTick_kept (s : State) (level : Bool) (num : W48) :
    (newTick s level num).kept = { s.kept with
      cur := ⟨s.kept.cur.idx + 1, num⟩, at_ := s.kept.now, refLevel := level
      registered := s.kept.registered + 1 } := rfl

/-- Numbering a tick registers it and otherwise only reports: a part that no report touches is as registration
leaves it. -/
theorem numberTick_unreported {α} (part : State → α)
    (h : ∀ s code port a b, part (tickViolation s code port a b) = part s)
    (s : State) (level : Bool) (num : W48) (unstable : Bool) :
    part (numberTick s level num unstable) = part (newTick s level (registeredNumber s num)) := by
  have hn : (if s.mgmt.nmt == .operational && s.tick.opTick then tickNumber s.tick.cur.num num
      else (num, none)).1 = registeredNumber s num := by
    unfold registeredNumber; split <;> rfl
  unfold numberTick
  dsimp only
  rw [hn]
  repeat' split
  all_goals simp only [h]

theorem numberTick_tick (s : State) (level : Bool) (num : W48) (unstable : Bool) :
    (numberTick s level num unstable).tick = (newTick s level (registeredNumber s num)).tick :=
  numberTick_unreported State.tick tickViolation_tick s level num unstable

theorem numberTick_kept (s : State) (level : Bool) (num : W48) (unstable : Bool) :
    (numberTick s level num unstable).kept = (newTick s level (registeredNumber s num)).kept :=
  numberTick_unreported State.kept tickViolation_kept s level num unstable

/-! ## TICK_REGISTRATION -/

/-- Everything of T_n, in the cycle of the toggle (02 R24, R29). -/
def registerTick (s : State) (level unstable : Bool) (num : W48) : State :=
  settle (tickBoundary (numberTick (judgeOverrun s) level num unstable)
    (s.mgmt.nmt == .operational && s.tick.afterEntry) s.tick.cur)

theorem exec_tickRegistration_toggle {s : State} {level : Bool} (hup : nodeUp s = true) (hl : level ≠ s.tick.refLevel)
    (unstable : Bool) (num : W48) :
    exec (.tickRegistration level num unstable) s = .next (registerTick s level unstable num) :=
  if_neg (by simp [hup, hl])

theorem exec_tickRegistration_sameLevel (s : State) (unstable : Bool) (num : W48) :
    exec (.tickRegistration s.tick.refLevel num unstable) s = .next s :=
  if_pos (.inr rfl)

/-- The registration changes of `State.kept` only what a new tick sets. -/
theorem registerTick_kept (s : State) (level unstable : Bool) (num : W48) :
    (registerTick s level unstable num).kept = { s.kept with
      cur := ⟨s.tick.cur.idx + 1, registeredNumber s num⟩, at_ := s.time.now, refLevel := level
      registered := s.tick.registered + 1 } := by
  rw [registerTick, settle_kept, tickBoundary_kept, numberTick_kept, newTick_kept, judgeOverrun_kept,
    registeredNumber_judgeOverrun]
  rfl

/-- Settles O58: the registration sets the tick through `registerTick_kept`, with the number of `registeredNumber`. -/
theorem tickBegins : Obligations.TickBegins := by
  unfold Obligations.TickBegins
  refine ⟨fun level unstable num s hup hl => ?_, fun level unstable num s => ?_,
    fun last read => ⟨tickNumber_unreported_iff last read, tickNumber_expected last, tickNumber_expected _⟩,
    fun unstable num s => exec_tickRegistration_sameLevel s unstable num⟩
  · have hexec := exec_tickRegistration_toggle hup hl unstable num
    have hkept := registerTick_kept s level unstable num
    refine ⟨hexec, registerTick s level unstable num, hexec, ?_⟩
    generalize registerTick s level unstable num = t at hkept
    have hcur : t.tick.cur = ⟨s.tick.cur.idx + 1, registeredNumber s num⟩ := congrArg Kept.cur hkept
    have hnum : t.tick.cur.num = registeredNumber s num := congrArg TickRef.num hcur
    exact ⟨congrArg TickRef.idx hcur, congrArg Kept.at_ hkept, congrArg Kept.refLevel hkept,
      congrArg Kept.registered hkept, congrArg Kept.now hkept, congrArg Kept.power hkept,
      fun h => hnum.trans (registeredNumber_unjudged h num),
      fun hn ho => hnum.trans (registeredNumber_judged hn ho num)⟩
  · rw [numberTick_tick]
    exact ⟨rfl, rfl⟩

end Sys2Proof.Machine
end

section
/-! SUPPORT. What a descriptor with a malformed field meets at its stamp stage (03 R58 to R60, R79). -/
namespace Sys2Proof.Machine
open Sys2Proof

/-- The state in which a descriptor with a malformed field is discarded: counted at its port and reported, the port's
sequence number moved on (03 R60). -/
def discarded (s : State) (d : Desc) (type field : Nat) : State :=
  let t := modPort (violate (modPort s d.port fun v => { v with descs := v.descs + 1 }) d (BitVec.ofNat 8 type) s.time.now
    (tickOf s) .badField field) d.port fun v => { v with seq := d.portSeq + 1 }
  { t with time := { t.time with arrivals := t.time.arrivals + 1 } }

theorem countDesc_traffic (s : State) {p : Fin 8} (hp : p.val < 6) (type : Nat) :
    countDesc s p type = modPort s p fun v => { v with descs := v.descs + 1 } :=
  if_pos (.inl hp)

theorem takeSeq_expected {s : State} {x : Seen} {want : W16} (h : x.desc.portSeq = want) :
    takeSeq s x want =
      (let t := modPort s x.desc.port fun v => { v with seq := x.desc.portSeq + 1 }
       { t with time := { t.time with arrivals := t.time.arrivals + 1 } }) := by
  unfold takeSeq; rw [if_pos h]

/-- The stamp stage of a descriptor that is discarded for a malformed field and that no other row meets. -/
theorem stampStage_discarded {s : State} {d : Desc} {type field : Nat} (hup : nodeUp s = true)
    (hport : portUp s d.port = true) (htraffic : d.port.val < 6) (hknown : 1 ≤ type ∧ type ≤ 10)
    (hres : firstReserved type d = none) (hseq : d.portSeq = (portOf s d.port).seq)
    (hbad : badField type d = some (field, true)) :
    stampStage s d type = (discarded s d type field, none) := by
  have hright : ¬ 6 ≤ d.port.val := by omega
  unfold stampStage
  rw [if_neg (by simp [hup, hport])]
  simp only [countDesc_traffic s htraffic, hknown, hres, hbad, hright, and_self, decide_true, decide_false, if_true,
    Bool.and_false, Bool.false_eq_true, false_and, if_false, true_or, or_true]
  exact congrArg (·, none) (takeSeq_expected hseq)

/-- The malformed fields for which a TOKENS is discarded: the count before the speculative count (03 R79). -/
theorem badField_tokens {d : Desc} (h : tokensCount d = 0 ∨ 12 < tokensCount d ∨ tokensCount d < tokensSpec d) :
    badField 3 d = some (if tokensCount d = 0 ∨ 12 < tokensCount d then 12 else 13, true) := by
  by_cases hcount : tokensCount d = 0 ∨ 12 < tokensCount d
  · rw [if_pos hcount]; exact if_pos hcount
  · have hspec : tokensCount d < tokensSpec d := by omega
    rw [if_neg hcount]; exact (if_neg hcount).trans (if_pos hspec)

theorem exec_tokens (d : Desc) (errs : List DetErr) (s : State) :
    exec (.tokens d errs) s = receive s d .tokens (raiseTokensErrs (errs.filter tokensErr) d)
      ((errs.filter tokensErr).filter fun e => e.code != .requestEntry) := rfl

/-- A descriptor that its stamp stage discards reaches no request. -/
theorem receive_discarded {s t : State} {d : Desc} {kind : DKind} (before : State → Slot → State) (errs : List DetErr)
    (h : stampStage s d (typeOf kind).toNat = (t, none)) : receive s d kind before errs = .next (settle t) := by
  unfold receive; rw [h]; rfl

/-- Settles O28: the stamp stage discards the descriptor for its field, so no error met on its way is raised. -/
theorem malformedTokensAreDiscarded : Obligations.MalformedTokensAreDiscarded := by
  unfold Obligations.MalformedTokensAreDiscarded
  intro d errs s hup hport htraffic hres hseq hbad
  rw [exec_tokens]
  exact receive_discarded _ _
    (stampStage_discarded hup hport htraffic (by decide) hres hseq (badField_tokens hbad))

end Sys2Proof.Machine
end

section
/-! SUPPORT. PAUSE and the two kinds of RESUME, for a descriptor that its request processes at once (03 R97 to R99;
04 R141; 11 R363, R365). -/
namespace Sys2Proof.Machine
open Sys2Proof

theorem exec_pause_direct {s : State} {d : Desc} (h : Direct s d .pause) :
    exec (.pause d) s = .next (settle (modReq (arrived s d) (handleSlot d.handle) fun r => { r with
      st := .paused, coldSt := .inHbm, expiry := 0 })) :=
  receive_direct h

theorem exec_resumeCold_direct {s t : State} {d : Desc} (h : Direct s d .resumeCold) (hkind : pfield d 12 0 1 = 0)
    (hact : resumeColdAct (arrived s d) (handleSlot d.handle) (itemOf s d .resumeCold) = t) :
    exec (.resumeCold d) s = .next (settle t) :=
  (if_pos hkind).trans ((receive_direct h).trans (congrArg done hact))

theorem exec_resumeHold_direct {s t : State} {d : Desc} (h : Direct s d .resumeHold) (hkind : pfield d 12 0 1 = 1)
    (hact : resumeHoldAct (arrived s d) (handleSlot d.handle) = t) :
    exec (.resumeHoldRelease d) s = .next (settle t) :=
  (if_pos hkind).trans ((receive_direct h).trans (congrArg done hact))

/-- A request with no expiry, or one still to come, has not expired (11 R365). -/
theorem not_expired_of {e g : W64} (h : e = 0 ∨ g.toNat < e.toNat) : ¬ (e ≠ 0 ∧ e.toNat ≤ g.toNat) := by
  rintro ⟨h0, hle⟩
  rcases h with h | h
  · exact h0 h
  · omega

section ResumeCold
variable {s : State} {slot : Slot} {q : QItem}

/-- At or after its expiry the request is finished as EXPIRED (11 R365). -/
theorem resumeColdAct_expired (h0 : (reqOf s slot).expiry ≠ 0) (hle : (reqOf s slot).expiry.toNat ≤ q.gt.toNat) :
    resumeColdAct s slot q
      = finishRequest (coldCount (stopCold s slot) 3) slot (reqOf s slot).front 0x80 q.tick :=
  if_pos ⟨h0, hle⟩

variable (hlive : (reqOf s slot).expiry = 0 ∨ q.gt.toNat < (reqOf s slot).expiry.toNat)
include hlive

/-- Before the move has begun the move is cancelled and the request goes on (03 R98; log 57). -/
theorem resumeColdAct_inHbm (hcold : (reqOf s slot).coldSt = .inHbm) :
    resumeColdAct s slot q
      = pump (modReq (coldCount (modReq s slot fun r => { r with st := .streaming }) 2) slot
          fun r => { r with expiry := 0 }) slot := by
  unfold resumeColdAct
  rw [if_neg (not_expired_of hlive), hcold]

/-- After the move the pages are read back from their cold slot (11 R365). -/
theorem resumeColdAct_moved {k : Nat} (hcold : (reqOf s slot).coldSt = .moved k) :
    resumeColdAct s slot q
      = copyBack (modReq (coldCount (modReq s slot fun r => { r with st := .streaming }) 2) slot
          fun r => { r with wait := .copyBack }) slot k := by
  unfold resumeColdAct
  rw [if_neg (not_expired_of hlive), hcold]

end ResumeCold

/-- A held prompt is released, and the request streams (03 R99; 04 R134). -/
theorem resumeHoldAct_prompt {s : State} {slot : Slot} (h : (reqOf s slot).st = .prompt) :
    resumeHoldAct s slot = pump (modReq s slot fun r => { r with promptHeld := false, st := .streaming }) slot :=
  if_pos h

/-- The oldest hold of a request past its prompt is released (03 R99; 04 R141; log 48). -/
theorem resumeHoldAct_holds {s : State} {slot : Slot} {p : Nat} {own : Bool} {rest : List (Nat × Bool)}
    (hst : (reqOf s slot).st ≠ .prompt) (hholds : (reqOf s slot).holds = (p, own) :: rest) :
    resumeHoldAct s slot = pump (modReq s slot fun r => { r with
      holds := rest
      positions := if own then Pos.modAt r.positions p fun x => { x with resumed := true } else r.positions }) slot := by
  unfold resumeHoldAct
  rw [if_neg hst, hholds]

/-- Settles O30: each descriptor acts on its request at once, and its act is the one of the request's cold state,
expiry or oldest hold. -/
theorem pauseAndResume : Obligations.PauseAndResume := by
  unfold Obligations.PauseAndResume
  refine ⟨fun d s h => exec_pause_direct h, fun d s h hkind => ⟨fun hlive hcold => ?_, fun k hlive hcold => ?_,
    fun h0 hle => ?_⟩, fun d s h hkind => ⟨fun hst => ?_, fun p own rest hst hholds => ?_⟩⟩
  · exact exec_resumeCold_direct h hkind (resumeColdAct_inHbm hlive hcold)
  · exact exec_resumeCold_direct h hkind (resumeColdAct_moved hlive hcold)
  · exact exec_resumeCold_direct h hkind (resumeColdAct_expired h0 hle)
  · exact exec_resumeHold_direct h hkind (resumeHoldAct_prompt hst)
  · have hne : (reqOf s (handleSlot d.handle)).st ≠ .prompt := by rw [hst]; decide
    exact exec_resumeHold_direct h hkind (resumeHoldAct_holds hne hholds)

end Sys2Proof.Machine
end

section
/-! SUPPORT. The match of the local array, and the winner among the matches (07 R219 to R221, R228). -/

namespace Sys2Proof.Machine
open Sys2Proof

/-- The inclusive bounds of every enabled field (07 R220). -/
theorem imageMatches_iff {m : MImage} {key : List W32} :
    imageMatches m key = true ↔ ∀ k, k < 8 → m.enables.getLsbD k = true →
      (m.lo.getD k 0).toNat ≤ (key.getD k 0).toNat ∧ (key.getD k 0).toNat ≤ (m.hi.getD k 0).toNat := by
  simp only [imageMatches, List.all_eq_true, List.mem_range, Bool.or_eq_true, Bool.not_eq_true', Bool.and_eq_true,
    decide_eq_true_eq, ← Bool.not_eq_true, ← Decidable.imp_iff_not_or]

/-- The half-open window of the rule tag (07 R221). -/
theorem inWindow_iff {m : MImage} {base limit : W32} :
    inWindow m base limit = true ↔ base.toNat ≤ m.tag.toNat ∧ m.tag.toNat < limit.toNat := by
  simp only [inWindow, Bool.and_eq_true, decide_eq_true_eq]

theorem mem_matching_iff {s : State} {key : List W32} {base limit : W32} {e : Nat × MEntry} :
    e ∈ matching s key base limit ↔ e ∈ s.mortise.entries ∧ e.2.st = .valid
      ∧ inWindow e.2.image base limit = true ∧ imageMatches e.2.image key = true := by
  simp only [matching, List.mem_filter, Bool.and_eq_true, beq_iff_eq, and_assoc]

/-- `e` wins in `l`: every entry before it is of lower priority, and none after it of higher (07 R228). -/
def WinsIn (l : List (Nat × MEntry)) (e : Nat × MEntry) : Prop :=
  ∃ lower upper, l = lower ++ e :: upper
    ∧ (∀ x ∈ lower, x.2.image.priority.toNat < e.2.image.priority.toNat)
    ∧ (∀ x ∈ upper, x.2.image.priority.toNat ≤ e.2.image.priority.toNat)

section WinsIn
variable {l : List (Nat × MEntry)} {e w : Nat × MEntry}

/-- A winner of higher priority than an entry put before the list stays the winner. -/
theorem WinsIn.cons_of_lt (h : WinsIn l w) (hlt : e.2.image.priority.toNat < w.2.image.priority.toNat) :
    WinsIn (e :: l) w := by
  obtain ⟨lower, upper, rfl, hlower, hupper⟩ := h
  exact ⟨e :: lower, upper, rfl, List.forall_mem_cons.mpr ⟨hlt, hlower⟩, hupper⟩

/-- No entry of the list has a higher priority than the winner. -/
theorem WinsIn.priority_le (h : WinsIn l w) : ∀ x ∈ l, x.2.image.priority.toNat ≤ w.2.image.priority.toNat := by
  obtain ⟨lower, upper, rfl, hlower, hupper⟩ := h
  exact List.forall_mem_append.mpr
    ⟨fun x hx => Nat.le_of_lt (hlower x hx), List.forall_mem_cons.mpr ⟨Nat.le_refl _, hupper⟩⟩

/-- An entry put before the list wins when the list's winner does not exceed its priority. -/
theorem WinsIn.head_of_le (h : WinsIn l w) (hle : w.2.image.priority.toNat ≤ e.2.image.priority.toNat) :
    WinsIn (e :: l) e :=
  ⟨[], l, rfl, List.forall_mem_nil _, fun x hx => Nat.le_trans (h.priority_le x hx) hle⟩

theorem winsIn_singleton : WinsIn [e] e := ⟨[], [], rfl, List.forall_mem_nil _, List.forall_mem_nil _⟩

end WinsIn

theorem winner_eq_none_iff {l : List (Nat × MEntry)} : winner l = none ↔ l = [] := by
  cases l with
  | nil => simp [winner]
  | cons e t =>
    simp only [winner, reduceCtorEq, iff_false]
    split
    · simp
    · split <;> simp

/-- What `winner` finds wins. -/
theorem winner_winsIn {l : List (Nat × MEntry)} {w : Nat × MEntry} (h : winner l = some w) : WinsIn l w := by
  induction l generalizing w with
  | nil => cases h
  | cons e t ih =>
    unfold winner at h
    split at h
    next hnone =>
      cases h
      rw [winner_eq_none_iff.mp hnone]
      exact winsIn_singleton
    next v hsome =>
      split at h
      next hlt =>
        cases h
        exact (ih hsome).cons_of_lt hlt
      next hle =>
        cases h
        exact (ih hsome).head_of_le (Nat.not_lt.mp hle)

section FindLocal
variable {s : State} {key : List W32} {base limit : W32}

theorem findLocal_hit_iff :
    (findLocal s key base limit).hit = true ↔ matching s key base limit ≠ [] := by
  rw [ne_eq, ← winner_eq_none_iff, findLocal]
  cases winner (matching s key base limit) <;> simp

/-- A hit names the winner: its global index, its action word and the number of matches (07 R228). -/
theorem findLocal_hit (h : (findLocal s key base limit).hit = true) :
    ∃ w, WinsIn (matching s key base limit) w
      ∧ (findLocal s key base limit).index = globalIndex s w.1
      ∧ (findLocal s key base limit).action = w.2.image.action
      ∧ (findLocal s key base limit).matchCount = (matching s key base limit).length := by
  obtain ⟨w, hw⟩ := Option.ne_none_iff_exists'.mp (mt winner_eq_none_iff.mp (findLocal_hit_iff.mp h))
  refine ⟨w, winner_winsIn hw, ?_⟩
  simp only [findLocal, hw, and_self]

end FindLocal

/-- Settles O34: the matches are the filter of the entries, and the winner splits them into entries below it before
and entries not above it after, by induction on the matches. -/
theorem searchFindsTheBestMatch : Obligations.SearchFindsTheBestMatch := by
  unfold Obligations.SearchFindsTheBestMatch
  intro key base limit s
  refine ⟨findLocal_hit_iff, fun h => ?_, fun e => ?_⟩
  · obtain ⟨w, ⟨lower, upper, hsplit, hlower, hupper⟩, hindex, haction, hcount⟩ := findLocal_hit h
    exact ⟨lower, upper, w, hsplit, hindex, haction, hcount, hlower, hupper⟩
  · rw [mem_matching_iff, inWindow_iff, imageMatches_iff, and_assoc]

end Sys2Proof.Machine
end

section
/-! SUPPORT. A value that a sparse table finds is listed in it. -/
namespace Sys2Proof.Tbl

theorem mem_of_find {α : Type} {t : Tbl α} {k : Nat} {v : α} (h : find t k = some v) : (k, v) ∈ t := by
  induction t with
  | nil => cases h
  | cons e t ih =>
    obtain ⟨k', v'⟩ := e
    unfold find at h
    split at h
    next hk => cases h; rw [hk]; exact List.mem_cons_self ..
    next => exact List.mem_cons_of_mem _ (ih h)

end Sys2Proof.Tbl
end

section
/-! SUPPORT. NMT commands and the management state that each leaves; what leaving Operational does to a function
(04 R126; 15 R451 to R455). -/
namespace Sys2Proof.Machine
open Sys2Proof

/-! ## The five commands on both paths (15 R451) -/

theorem exec_startRemoteNode (via : NmtVia) (s : State) :
    exec (.startRemoteNode via) s = nmtCommand via nmtStart s := rfl
theorem exec_stopRemoteNode (via : NmtVia) (s : State) :
    exec (.stopRemoteNode via) s = nmtCommand via nmtStop s := rfl
theorem exec_enterPreOperational (via : NmtVia) (s : State) :
    exec (.enterPreOperational via) s = nmtCommand via nmtPreop s := rfl
theorem exec_resetNode (via : NmtVia) (s : State) : exec (.resetNode via) s = nmtCommand via nmtReset s := rfl
theorem exec_resetCommunication (via : NmtVia) (s : State) :
    exec (.resetCommunication via) s = nmtCommand via nmtReset s := rfl

theorem nmtCommand_frame_heard {s : State} {node : BitVec 7} (h : nmtHeard s node = true) (f : State → State) :
    nmtCommand (.frame node) f s = .next (settle (f s)) := if_pos h

theorem nmtCommand_frame_unheard {s : State} {node : BitVec 7} (h : nmtHeard s node = false) (f : State → State) :
    nmtCommand (.frame node) f s = .next s := if_neg (by simp [h])

/-- A command whose meaning is `nmtCommand` acts alike from a frame and from a served write of 0x2001:01. -/
theorem nmtCommand_alike {i : NmtVia → Instr} {f : State → State}
    (h : ∀ via s, exec (i via) s = nmtCommand via f s) (s : State) :
    (∀ node : BitVec 7, nmtHeard s node = true → exec (i (.frame node)) s = .next (settle (f s)))
    ∧ (∀ p : Path, Served s p 0x2001 1 →
      exec (i (.object p)) s = .next (settle (respond (f (heard s p 0x2001)) p 0 []))) :=
  ⟨fun _ hn => (h _ s).trans (nmtCommand_frame_heard hn f),
    fun _ hp => (h _ s).trans (mgmtWrite_ok (act := fun s => .ok (f s)) hp rfl)⟩

/-! ## Start (15 R451, R452) -/

theorem nmtStart_initialisation {s : State} (h : s.mgmt.nmt = .initialisation) : nmtStart s = s := if_pos (.inl h)

section Start
variable {s : State} (hnmt : s.mgmt.nmt = .preOperational ∨ s.mgmt.nmt = .stopped) (hprobe : s.mortise.probe = none)
include hnmt hprobe

theorem not_start_ignored :
    ¬ (s.mgmt.nmt = .initialisation ∨ s.mgmt.nmt = .operational ∨ s.mortise.probe.isSome) := by
  rcases hnmt with h | h <;> simp [h, hprobe]

theorem nmtStart_passes_single (hfails : startFails s = none) (hc : cascaded s = false) :
    nmtStart s = enterOperational s := by
  unfold nmtStart
  rw [if_neg (not_start_ignored hnmt hprobe), hfails]
  exact if_neg (by simp [hc])

theorem nmtStart_passes_cascaded (hfails : startFails s = none) (hc : cascaded s = true) :
    nmtStart s = { s with mortise := { s.mortise with
      probe := some s.time.now, ring := .probing, outFrames := .probe (ownProbe s) :: s.mortise.outFrames } } := by
  unfold nmtStart
  rw [if_neg (not_start_ignored hnmt hprobe), hfails]
  exact if_pos hc

theorem nmtStart_fails {code : ErrCode} {a : Nat} (hfails : startFails s = some (code, a)) :
    nmtStart s = startFailed s code {} a := by
  unfold nmtStart
  rw [if_neg (not_start_ignored hnmt hprobe), hfails]

end Start

/-! ## The management state after each command (15 R451, R453, R455) -/

@[simp] theorem rewriteShadow_mgmt (s : State) : (rewriteShadow s).mgmt = s.mgmt := rfl
@[simp] theorem raiseFloors_mgmt (s : State) : (raiseFloors s).mgmt = s.mgmt := rfl
@[simp] theorem openPeriod_mgmt (s : State) : (openPeriod s).mgmt = s.mgmt := rfl
@[simp] theorem dropProbe_mgmt (s : State) : (dropProbe s).mgmt = s.mgmt := by unfold dropProbe; split <;> rfl
@[simp] theorem discardEmcy_mgmt (s : State) : (discardEmcy s).mgmt = { s.mgmt with
    emcyLost := s.mgmt.emcyLost + BitVec.ofNat 64 s.mgmt.emcyQueue.length, emcyQueue := [] } := rfl

/-- A boot-up message changes of the management state only what has been sent. -/
theorem sendBootUp_mgmt (s : State) :
    (sendBootUp s).mgmt = { s.mgmt with canOut := (sendBootUp s).mgmt.canOut } := by
  unfold sendBootUp; split <;> rfl

@[simp] theorem enterOperational_mgmt (s : State) :
    (enterOperational s).mgmt = { s.mgmt with nmt := .operational } := by
  unfold enterOperational
  simp only [restartMarked_mgmt, openPeriod_mgmt]
  split <;> rfl

theorem nmtStop_initialisation {s : State} (h : s.mgmt.nmt = .initialisation) : nmtStop s = s := if_pos (.inl h)

theorem nmtStop_mgmt {s : State} (hi : s.mgmt.nmt ≠ .initialisation) (hs : s.mgmt.nmt ≠ .stopped) :
    (nmtStop s).mgmt.nmt = .stopped ∧ (nmtStop s).mgmt.emcyQueue = [] := by
  unfold nmtStop
  simp [hi, hs]

theorem nmtPreop_initialisation {s : State} (h : s.mgmt.nmt = .initialisation) : nmtPreop s = s := if_pos h

theorem nmtPreop_nmt {s : State} (hi : s.mgmt.nmt ≠ .initialisation) : (nmtPreop s).mgmt.nmt = .preOperational := by
  unfold nmtPreop
  rw [if_neg hi]
  split
  next hp => rw [dropProbe_mgmt, hp]
  next => simp

theorem nmtReset_initialisation {s : State} (h : s.mgmt.nmt = .initialisation) : nmtReset s = s := if_pos h

/-- The state of a reset, its error list, its heartbeat time and the node-ID that it applies (15 R455). -/
theorem nmtReset_mgmt {s : State} (hi : s.mgmt.nmt ≠ .initialisation) :
    (nmtReset s).mgmt.nmt = .preOperational ∧ (nmtReset s).mgmt.errorList = []
      ∧ (nmtReset s).mgmt.heartbeatMs = 100 ∧ (nmtReset s).mgmt.activeNode = s.mgmt.nodeId := by
  unfold nmtReset
  rw [if_neg hi]
  dsimp only
  rw [sendBootUp_mgmt]
  simp

/-! ## STOP outside Operational (04 R126; 15 R453) -/

theorem fnOf_modFn_other (s : State) {f g : Fin 64} (m : Fn → Fn) (h : g ≠ f) : fnOf (modFn s f m) g = fnOf s g :=
  fnOf_setFn_other _ _ _ _ h

theorem fnTiles_congr {s t : State} (h : t.eng = s.eng) (f : Fin 64) : fnTiles t f = fnTiles s f := by
  unfold fnTiles; rw [h]

/-- What a STOP leaves of a function when no mark starts it again; `tiles` says that a tile of it runs. -/
def Fn.stop (v : Fn) (tiles : Bool) : Fn :=
  match v.st with
  | .starting => { v with st := .stopped }
  | .running => { v with st := if tiles then .stopping else .stopped }
  | .idle | .stopping | .stopped => v

/-- In `t` the function `f` has become `v`; the other functions, the management and the engines are as in `s`. -/
def FnBecomes (s t : State) (f : Fin 64) (v : Fn) : Prop :=
  t.mgmt = s.mgmt ∧ t.eng = s.eng ∧ fnOf t f = v ∧ ∀ g, g ≠ f → fnOf t g = fnOf s g

theorem modFn_becomes (s : State) (f : Fin 64) (m : Fn → Fn) : FnBecomes s (modFn s f m) f (m (fnOf s f)) :=
  ⟨rfl, rfl, fnOf_modFn .., fun _ h => fnOf_modFn_other _ _ h⟩

theorem FnBecomes.trans {s t u : State} {f : Fin 64} {v w : Fn} (h : FnBecomes s t f v) (k : FnBecomes t u f w) :
    FnBecomes s u f w := by
  obtain ⟨hm, he, -, ho⟩ := h
  obtain ⟨km, ke, kf, ko⟩ := k
  exact ⟨km.trans hm, ke.trans he, kf, fun g hg => (ko g hg).trans (ho g hg)⟩

/-- A STOPPING function whose last tile has ended is STOPPED, and not started outside Operational. -/
theorem checkStopped_becomes {s : State} (hn : s.mgmt.nmt ≠ .operational) {f : Fin 64}
    (hst : (fnOf s f).st = .stopping) :
    FnBecomes s (checkStopped s f) f { fnOf s f with st := if fnTiles s f then .stopping else .stopped } := by
  unfold checkStopped
  cases htiles : fnTiles s f with
  | false =>
    rw [if_pos (by simp [hst])]
    dsimp only
    rw [if_neg (by simp [hn])]
    exact modFn_becomes ..
  | true =>
    rw [if_neg (by simp)]
    exact ⟨rfl, rfl, by simp [← hst], fun _ _ => rfl⟩

theorem applyStop_becomes {s : State} (hn : s.mgmt.nmt ≠ .operational) (f : Fin 64) :
    FnBecomes s (applyStop s f) f ((fnOf s f).stop (fnTiles s f)) := by
  unfold applyStop Fn.stop
  cases hst : (fnOf s f).st with
  | starting => exact modFn_becomes ..
  | running =>
    have hmod := modFn_becomes s f fun v => { v with st := .stopping }
    have hcheck := checkStopped_becomes (s := modFn s f fun v => { v with st := .stopping }) hn (f := f) (by simp)
    rw [fnOf_modFn, fnTiles_congr (modFn_eng ..)] at hcheck
    exact hmod.trans hcheck
  | idle | stopping | stopped => exact ⟨rfl, rfl, rfl, fun _ _ => rfl⟩

/-! ## Leaving Operational (15 R453) -/

/-- One function is marked for restart, and stopped. -/
def stopMarked (s : State) (f : Fin 64) : State := applyStop (modFn s f fun v => { v with mark := true }) f

/-- What it leaves of the function. -/
def Fn.stopMarked (v : Fn) (tiles : Bool) : Fn := { v with mark := true }.stop tiles

/-- The functions that leaving Operational stops: those that are STARTING or RUNNING. -/
def activeFns (s : State) : List (Fin 64) :=
  ((s.fns.filter fun e => e.2.st == .starting || e.2.st == .running).map (·.1)).map (Fin.ofNat 64)

theorem leaveOperational_eq {s : State} (h : s.mgmt.nmt = .operational) (next : Nmt) :
    leaveOperational s next = (activeFns s).foldl stopMarked
      { s with mgmt := { s.mgmt with nmt := next }, cal := { s.cal with periodOpen := false } } := by
  unfold leaveOperational
  rw [if_neg (by simp [h])]
  exact (List.foldl_map (f := Fin.ofNat 64) (g := stopMarked)).symm

theorem stopMarked_becomes {s : State} (hn : s.mgmt.nmt ≠ .operational) (f : Fin 64) :
    FnBecomes s (stopMarked s f) f ((fnOf s f).stopMarked (fnTiles s f)) := by
  have hstop := applyStop_becomes (s := modFn s f fun v => { v with mark := true }) hn f
  rw [fnOf_modFn, fnTiles_congr (modFn_eng ..)] at hstop
  exact (modFn_becomes s f _).trans hstop

/-- A function that has been stopped and marked stays so when that is repeated. -/
theorem Fn.stopMarked_stopMarked (v : Fn) (tiles : Bool) :
    (v.stopMarked tiles).stopMarked tiles = v.stopMarked tiles := by
  unfold Fn.stopMarked Fn.stop
  cases v.st <;> cases tiles <;> rfl

/-- Functions are stopped and marked each by itself, however often the list names one. -/
theorem fnOf_foldl_stopMarked (f : Fin 64) (l : List (Fin 64)) {s : State} (hn : s.mgmt.nmt ≠ .operational) :
    fnOf (l.foldl stopMarked s) f = if f ∈ l then (fnOf s f).stopMarked (fnTiles s f) else fnOf s f := by
  induction l generalizing s with
  | nil => rfl
  | cons g l ih =>
    obtain ⟨hm, he, hself, hother⟩ := stopMarked_becomes hn g
    rw [List.foldl_cons, ih (by rwa [hm]), fnTiles_congr he]
    by_cases hfg : f = g
    · subst hfg
      rw [hself, Fn.stopMarked_stopMarked]
      simp
    · rw [hother f hfg]
      simp [hfg]

theorem mem_activeFns {s : State} {f : Fin 64} (h : (fnOf s f).st = .starting ∨ (fnOf s f).st = .running) :
    f ∈ activeFns s := by
  have hfind : Tbl.find s.fns f.val = some (fnOf s f) := by
    unfold fnOf Tbl.get at h ⊢
    cases hf : Tbl.find s.fns f.val with
    | none => simp [hf] at h
    | some v => rfl
  refine List.mem_map.mpr ⟨f.val, List.mem_map.mpr ⟨(f.val, fnOf s f), ?_, rfl⟩, Fin.ofNat_val_eq_self f⟩
  exact List.mem_filter.mpr ⟨Tbl.mem_of_find hfind, by simpa using h⟩

section Leaves
variable {s : State} {f : Fin 64} {next : Nmt} (hop : s.mgmt.nmt = .operational) (hnext : next ≠ .operational)
include hop hnext

theorem fnOf_leaveOperational : fnOf (leaveOperational s next) f
    = if f ∈ activeFns s then (fnOf s f).stopMarked (fnTiles s f) else fnOf s f := by
  rw [leaveOperational_eq hop]
  exact fnOf_foldl_stopMarked f _ hnext

theorem fnOf_leaveOperational_active (h : (fnOf s f).st = .starting ∨ (fnOf s f).st = .running) :
    fnOf (leaveOperational s next) f = (fnOf s f).stopMarked (fnTiles s f) := by
  rw [fnOf_leaveOperational hop hnext, if_pos (mem_activeFns h)]

theorem fnOf_leaveOperational_stopping (h : (fnOf s f).st = .stopping) :
    (fnOf (leaveOperational s next) f).st = .stopping := by
  rw [fnOf_leaveOperational hop hnext]
  split
  · simp [Fn.stopMarked, Fn.stop, h]
  · exact h

end Leaves

/-- Settles O43: the commands share `nmtCommand`, their effects are read off the management state, and leaving
Operational stops and marks each active function by itself. -/
theorem nmtCommands : Obligations.NmtCommands := by
  unfold Obligations.NmtCommands
  refine ⟨fun s => ?_, fun s hnmt hprobe => ⟨nmtStart_passes_single hnmt hprobe, nmtStart_passes_cascaded hnmt hprobe,
    fun code a => nmtStart_fails hnmt hprobe⟩, fun s hi => ?_, fun s hi => ?_, fun s f next hop hnext => ?_⟩
  · simp only [List.forall_mem_cons]
    exact ⟨nmtCommand_alike exec_startRemoteNode s, nmtCommand_alike exec_stopRemoteNode s,
      nmtCommand_alike exec_enterPreOperational s, nmtCommand_alike exec_resetNode s,
      nmtCommand_alike exec_resetCommunication s, List.forall_mem_nil _⟩
  · exact ⟨congrArg MgmtState.nmt (enterOperational_mgmt s), nmtStop_mgmt hi, nmtPreop_nmt hi, nmtReset_mgmt hi⟩
  · exact ⟨nmtStart_initialisation hi, nmtStop_initialisation hi, nmtPreop_initialisation hi, nmtReset_initialisation hi⟩
  · refine ⟨fun hst => ?_, fun hst => ?_, fnOf_leaveOperational_stopping hop hnext⟩
    · rw [fnOf_leaveOperational_active hop hnext (.inl hst)]
      simp [Fn.stopMarked, Fn.stop, hst]
    · rw [fnOf_leaveOperational_active hop hnext (.inr hst)]
      simp [Fn.stopMarked, Fn.stop, hst]

end Sys2Proof.Machine
end

section
/-! SUPPORT. The silent bus of Active Node-ID 0, and the frames that the node sends by itself (15 R448, R469 to
R472). -/
namespace Sys2Proof.Machine
open Sys2Proof

theorem exec_emcyTransmit (s : State) : exec .emcyTransmit s = execEmcyTransmit s := rfl

theorem elapsed_iff {s : State} {t : W64} {us : Nat} : elapsed s t us = true ↔ t.toNat + us ≤ s.time.gtAccepted.toNat :=
  decide_eq_true_iff

/-! ## A controller that may not send -/

section Silent
variable {s : State} (h : canSends s = false)
include h

theorem exec_heartbeat_silent : exec .heartbeat s = .next s := if_neg (by simp [h])

theorem exec_emcyTransmit_silent : exec .emcyTransmit s = .next s := by
  rw [exec_emcyTransmit, execEmcyTransmit]
  cases s.mgmt.emcyQueue with
  | nil => rfl
  | cons e rest => exact if_neg (by simp [h])

theorem exec_tpdoEventTimer_silent (n : Fin 8) : exec (.tpdoEventTimer n) s = .next s := if_neg (by simp [h])

end Silent

theorem exec_registerWrite_unheard {s : State} {path : Path} (h : pathHeard s path = false) (idx : W16) (sub : Byte)
    (x : Xfer) (data : List Byte) : exec (.registerWrite path idx sub x data) s = .next s := if_pos (by simp [h])

theorem exec_usdoUpload_unheard {s : State} {path : Path} (h : pathHeard s path = false) (idx : W16) (sub : Byte)
    (x : Xfer) : exec (.usdoUpload path idx sub x) s = .next s := if_pos (by simp [h])

section BusMonitoring
variable {s : State} (h : s.mgmt.activeNode = 0)
include h

theorem canSends_busMonitoring : canSends s = false := by simp [canSends, h]
theorem pathHeard_can_busMonitoring : pathHeard s .can = false := by simp [pathHeard, h]
theorem nmtHeard_busMonitoring (node : BitVec 7) : nmtHeard s node = false := by simp [nmtHeard, h]

end BusMonitoring

/-! ## The frames of a controller that may send -/

section Sends
variable {s : State} (h : canSends s = true)
include h

theorem exec_heartbeat_due (hnmt : s.mgmt.nmt ≠ .initialisation) (hms : s.mgmt.heartbeatMs ≠ 0)
    (hdue : s.mgmt.lastHeartbeat.toNat + 1000 * s.mgmt.heartbeatMs.toNat ≤ s.time.gtAccepted.toNat) :
    exec .heartbeat s = .next (sendFrame { s with mgmt := { s.mgmt with lastHeartbeat := s.time.gtAccepted } }
      (.heartbeat s.mgmt.activeNode (nmtByte s.mgmt.nmt))) :=
  if_pos ⟨h, hnmt, hms, elapsed_iff.mpr hdue⟩

theorem exec_emcyTransmit_due {e : Emcy} {rest : List Emcy}
    (hnmt : s.mgmt.nmt = .preOperational ∨ s.mgmt.nmt = .operational) (hqueue : s.mgmt.emcyQueue = e :: rest)
    (hcob : (cobEmcyOf s.mgmt).getLsbD 31 = false)
    (hinhibit : ∀ t, s.mgmt.lastEmcy = some t →
      t.toNat + 100 * s.mgmt.inhibitEmcy.toNat ≤ s.time.gtAccepted.toNat) :
    exec .emcyTransmit s = .next (sendFrame
      { s with mgmt := { s.mgmt with emcyQueue := rest, lastEmcy := some s.time.gtAccepted } }
      (.emcy (cobEmcyOf s.mgmt) e)) := by
  have hall : s.mgmt.lastEmcy.all (fun t => elapsed s t (100 * s.mgmt.inhibitEmcy.toNat)) = true :=
    (Option.all_eq_true_iff_get _ _).mpr fun hs => elapsed_iff.mpr (hinhibit _ (Option.some_get hs).symm)
  rw [exec_emcyTransmit, execEmcyTransmit]
  dsimp only
  rw [hqueue]
  exact if_pos ⟨h, hnmt, ne_true_of_eq_false hcob, hall⟩

theorem exec_tpdoEventTimer_due {n : Fin 8} (hnmt : s.mgmt.nmt = .operational)
    (hcob : (cobTpdoOf s.mgmt n.val).getLsbD 31 = false) (htimer : (tpdoOf s.mgmt n.val).timer ≠ 0)
    (hdue : ((tpdoOf s.mgmt n.val).lastSent.getD 0).toNat + 1000 * (tpdoOf s.mgmt n.val).timer.toNat
      ≤ s.time.gtAccepted.toNat)
    (hinhibit : ((tpdoOf s.mgmt n.val).lastSent.getD 0).toNat + 100 * (tpdoOf s.mgmt n.val).inhibit.toNat
      ≤ s.time.gtAccepted.toNat) :
    let t := setTpdo s n.val { tpdoOf s.mgmt n.val with lastSent := some s.time.gtAccepted }
    exec (.tpdoEventTimer n) s = .next (sendFrame t (.tpdo (cobTpdoOf t.mgmt n.val)
      ((tpdoEntries (tpdoOf s.mgmt n.val) (tpdoOf s.mgmt n.val).count.toNat).flatMap (mappedBytes t)))) :=
  if_pos ⟨h, hnmt, ne_true_of_eq_false hcob, htimer, elapsed_iff.mpr hdue, elapsed_iff.mpr hinhibit⟩

end Sends

/-- Settles O45: with Active Node-ID 0 no frame is heard or sent, and a frame that is due is sent. -/
theorem framesOnTheBus : Obligations.FramesOnTheBus := by
  unfold Obligations.FramesOnTheBus
  refine ⟨fun s hnode => ?_, fun s hsends => ⟨exec_heartbeat_due hsends, fun e rest => exec_emcyTransmit_due hsends,
    fun n => exec_tpdoEventTimer_due hsends⟩⟩
  have hsilent := canSends_busMonitoring hnode
  have hpath := pathHeard_can_busMonitoring hnode
  refine ⟨exec_heartbeat_silent hsilent, exec_emcyTransmit_silent hsilent, exec_tpdoEventTimer_silent hsilent,
    fun idx sub x data => ⟨exec_registerWrite_unheard hpath idx sub x data, exec_usdoUpload_unheard hpath idx sub x⟩,
    fun node => ?_, fun hi => ?_⟩
  · have hunheard := nmtCommand_frame_unheard (nmtHeard_busMonitoring hnode node)
    simp only [List.forall_mem_cons, exec_startRemoteNode, exec_stopRemoteNode, exec_enterPreOperational, exec_resetNode,
      exec_resetCommunication, hunheard, true_and]
    exact List.forall_mem_nil _
  · obtain ⟨-, -, -, hactive⟩ := nmtReset_mgmt hi
    exact hactive

end Sys2Proof.Machine
end

section
/-! SUPPORT. Frames: two states with all parts but the named ones the same. -/
namespace Sys2Proof.Machine
open Sys2Proof

/-- A choice is one of its two branches. -/
theorem ite_is_branch {α : Type} (c : Prop) [Decidable c] (a b : α) : (if c then a else b) = a ∨ (if c then a else b) = b :=
  if h : c then .inl (if_pos h) else .inr (if_neg h)

/-- One state with a part of another. -/
def Part.copy (t u : State) : Part → State
  | .pending => { u with pending := t.pending }
  | .time => { u with time := t.time }
  | .tick => { u with tick := t.tick }
  | .ports => { u with ports := t.ports }
  | .jobs => { u with jobs := t.jobs }
  | .req => { u with req := t.req }
  | .fns => { u with fns := t.fns }
  | .acct => { u with acct := t.acct }
  | .mortise => { u with mortise := t.mortise }
  | .text => { u with text := t.text }
  | .eng => { u with eng := t.eng }
  | .cal => { u with cal := t.cal }
  | .stream => { u with stream := t.stream }
  | .tune => { u with tune := t.tune }
  | .ckpt => { u with ckpt := t.ckpt }
  | .err => { u with err := t.err }
  | .mgmt => { u with mgmt := t.mgmt }
  | .view => { u with view := t.view }
  | .pwr => { u with pwr := t.pwr }
  | .boot => { u with boot := t.boot }
  | .fuse => { u with fuse := t.fuse }
  | .sensed => { u with sensed := t.sensed }
  | .tap => { u with tap := t.tap }

theorem Part.same_refl (s : State) (p : Part) : p.same s s := by cases p <;> rfl

theorem Part.same_trans {s t u : State} {p : Part} (h : p.same s t) (g : p.same t u) : p.same s u := by
  cases p <;> exact Eq.trans g h

/-- Copying one part leaves every other. -/
theorem Part.same_copy {p q : Part} (h : q ≠ p) (t u : State) : q.same u (p.copy t u) := by
  cases p <;> cases q <;> first | rfl | exact absurd rfl h

theorem Frame.refl (but : List Part) (s : State) : Frame but s s := fun p _ => Part.same_refl s p

theorem Frame.trans {but : List Part} {s t u : State} (h : Frame but s t) (g : Frame but t u) : Frame but s u :=
  fun p hp => Part.same_trans (h p hp) (g p hp)

theorem Frame.mono {but but' : List Part} {s t : State} (hsub : but ⊆ but') (h : Frame but s t) : Frame but' s t :=
  fun p hp => h p fun hmem => hp (hsub hmem)

/-- One state with the named parts of another. -/
def copyParts (but : List Part) (t s : State) : State := but.foldr (fun p u => p.copy t u) s

theorem frame_copyParts (but : List Part) (t s : State) : Frame but s (copyParts but t s) := by
  induction but with
  | nil => exact Frame.refl [] s
  | cons p ps ih =>
    intro q hq
    exact Part.same_trans (ih q (List.not_mem_of_not_mem_cons hq)) (Part.same_copy (List.ne_of_not_mem_cons hq) t _)

/-- A state that differs in the named parts only is framed by them. -/
theorem frame_of_copied {but : List Part} {s t : State} (h : t = copyParts but t s) : Frame but s t := by
  rw [h]
  exact frame_copyParts but t s

end Sys2Proof.Machine
end

section
/-! SUPPORT. What an ordinary command can do: it ends in a state that keeps `State.kept`. -/
namespace Sys2Proof.Machine
open Sys2Proof

/-! ## Outcomes that keep `State.kept` -/

/-- The outcome is a state that keeps what an ordinary command never touches. -/
def Ordinary (s : State) (o : Host.Outcome State Fault Refusal) : Prop := ∃ t, o = .next t ∧ t.kept = s.kept

namespace Ordinary
variable {s u : State}

theorem next (h : u.kept = s.kept) : Ordinary s (.next u) := ⟨u, rfl, h⟩
theorem same : Ordinary s (.next s) := next rfl
theorem done (h : u.kept = s.kept) : Ordinary s (done u) := next ((settle_kept u).trans h)

theorem ite {c : Prop} [Decidable c] {a b : Host.Outcome State Fault Refusal} (ha : Ordinary s a) (hb : Ordinary s b) :
    Ordinary s (if c then a else b) := by split <;> assumption

/-- An `if` that does nothing unless its condition holds. -/
theorem when {c : Prop} [Decidable c] {a : Host.Outcome State Fault Refusal} (ha : Ordinary s a) :
    Ordinary s (if c then a else .next s) := ite ha same

/-- An `if` that does nothing when its condition holds. -/
theorem guard {c : Prop} [Decidable c] {a : Host.Outcome State Fault Refusal} (ha : Ordinary s a) :
    Ordinary s (if c then .next s else a) := ite same ha

theorem mgmtWrite {path : Path} {index : W16} {sub : Byte} {act : State → WriteRes}
    (h : ∀ u, (act u).kept = u.kept) : Ordinary s (mgmtWrite s path index sub act) :=
  guard (ite (done (by simp)) (ite (done (by simp)) (done (by simp [h]))))

theorem nmtCommand {via : NmtVia} {f : State → State} (h : ∀ u, (f u).kept = u.kept) :
    Ordinary s (nmtCommand via f s) := by
  cases via with
  | frame node => exact when (done (h s))
  | object p => exact mgmtWrite (act := fun s => .ok (f s)) h

theorem receive {d : Desc} {kind : DKind} {before : State → Slot → State} {errs : List DetErr}
    (h : ∀ u slot, (before u slot).kept = u.kept) : Ordinary s (receive s d kind before errs) := by
  unfold Machine.receive
  have hstamp := stampStage_kept s d (typeOf kind).toNat
  split
  next u hu => rw [hu] at hstamp; exact done hstamp
  next u x hu => rw [hu] at hstamp; exact done (by simpa [h] using hstamp)

end Ordinary

theorem kept_ite {c : Prop} [Decidable c] {a b : State} {k : Kept} (ha : a.kept = k) (hb : b.kept = k) :
    (if c then a else b).kept = k := by split <;> assumption

/-! ## Commands that branch on what they find -/

theorem execConsumerIndexReturn_ordinary (p : Fin 8) (tag : BitVec 15) (v : W32) (s : State) :
    Ordinary s (execConsumerIndexReturn p tag v s) := by
  unfold execConsumerIndexReturn
  split
  · split
    · exact .when (.done (by simp))
    · exact .same
  · exact .same

theorem execParkLimitExpiry_ordinary (slot : Slot) (s : State) : Ordinary s (execParkLimitExpiry slot s) := by
  unfold execParkLimitExpiry
  dsimp only
  split
  · exact .same
  · exact .guard (.done (by simp))

theorem execColdMoveComplete_ordinary (slot : Slot) (s : State) : Ordinary s (execColdMoveComplete slot s) := by
  unfold execColdMoveComplete
  dsimp only
  split
  · exact .guard (.done (kept_ite (by simp) (by simp)))
  · exact .same

theorem execColdCopyBack_ordinary (slot : Slot) (s : State) : Ordinary s (execColdCopyBack slot s) := by
  unfold execColdCopyBack
  dsimp only
  split
  · refine .guard ?_
    split
    · exact .done (by simp)
    · exact .done (by simp)
  · exact .same

theorem execCopyBeforeWrite_ordinary (page : BitVec 22) (s : State) : Ordinary s (execCopyBeforeWrite page s) := by
  unfold execCopyBeforeWrite
  refine .when (.ite (.done ?_) (.next ?_)) <;> split <;> simp

theorem execImageLoad_ordinary (s : State) : Ordinary s (execImageLoad s) := by
  unfold execImageLoad
  split
  · split
    · exact .guard (.ite (.done (by simp)) (.ite (.next (by simp)) (.done (by simp))))
    · exact .same
  · split
    · exact .guard (.ite (.done (by simp)) (.ite (.next (by simp)) (.done (by simp))))
    · exact .same
  · exact .same

theorem execBootBlockRead_ordinary (s : State) : Ordinary s (execBootBlockRead s) := by
  unfold execBootBlockRead
  split
  · exact .guard (.ite (.done (by simp)) (.ite (.next (by simp)) (.done (by simp))))
  · exact .same

theorem execCompletion_ordinary (p : Fin 8) (tag : W16) (data : List Byte) (s : State) :
    Ordinary s (execCompletion p tag data s) := by
  unfold execCompletion
  refine .guard (.ite ?_ ?_)
  · split
    · exact .done (by simp)
    · exact .ite (.done (by simp)) (.done (by simp))
  · split
    · exact .done (by simp)
    · exact .done (by simp)

theorem execCompletionError_ordinary (p : Fin 8) (tag : W16) (s : State) :
    Ordinary s (execCompletionError p tag s) := by
  unfold execCompletionError
  refine .guard (.ite ?_ ?_)
  · split
    · exact .done (by simp)
    · exact .done (by simp)
  · split
    · exact .done (by simp)
    · exact .done (by simp)

theorem execReadTimeout_ordinary (p : Fin 8) (tag : BitVec 15) (s : State) : Ordinary s (execReadTimeout p tag s) := by
  unfold execReadTimeout
  split
  · exact .when (.done (by simp))
  · exact .same

theorem execWriteTimeout_ordinary (p : Fin 8) (tag : BitVec 15) (s : State) :
    Ordinary s (execWriteTimeout p tag s) := by
  unfold execWriteTimeout
  split
  · exact .when (.done (by simp))
  · exact .same

/-- The stamp stage keeps what an ordinary command keeps, whatever it answers. -/
theorem stampStage_eq_kept {s u : State} {d : Desc} {type : Nat} {x : Option Seen} (h : stampStage s d type = (u, x)) :
    u.kept = s.kept := by
  have hk := stampStage_kept s d type
  rw [h] at hk
  exact hk

theorem execFeedback_ordinary (d : Desc) (s : State) : Ordinary s (execFeedback d s) := by
  unfold execFeedback
  split
  next u hu => exact .done (stampStage_eq_kept hu)
  next u x hu =>
    have hk := stampStage_eq_kept hu
    exact .ite (.done (by simpa using hk)) (.done (by simpa using hk))

theorem execPublish_ordinary (d : Desc) (s : State) : Ordinary s (execPublish d s) := by
  unfold execPublish
  split
  next u hu => exact .done (stampStage_eq_kept hu)
  next u x hu =>
    have hk := stampStage_eq_kept hu
    refine .ite (.done (by simpa using hk)) (.ite (.done (by simpa using hk)) (.ite (.done (by simpa using hk)) ?_))
    refine .done ((setPendingPub_kept ..).trans (kept_ite ?_ ?_)) <;> simpa using hk

theorem execTileStart_ordinary (e : Fin 48) (w : TileOf) (l : TileLoad) (s : State) :
    Ordinary s (execTileStart e w l s) := by
  unfold execTileStart
  dsimp only
  split
  · exact .same
  · exact .guard (.next (by simp))

theorem execTileComplete_ordinary (e : Fin 48) (heads : List Heads) (stash : Option StashWrite) (errs : List DetErr)
    (s : State) : Ordinary s (execTileComplete e heads stash errs s) := by
  unfold execTileComplete
  dsimp only
  split
  · exact .same
  · refine .guard (.done ?_)
    rw [tileDone_kept]
    split
    · rw [checkStopped_kept, noteTile_kept, raiseErrs_kept]; rfl
    · rw [noteTile_kept, raiseErrs_kept]; rfl

theorem execMortiseSearchResult_ordinary (id : Nat) (ecc : Ecc) (s : State) :
    Ordinary s (execMortiseSearchResult id ecc s) := by
  unfold execMortiseSearchResult
  split
  · exact .same
  · refine .guard ?_
    split
    next u hu => exact .done (takeResult_wait_kept hu)
    next u x f hu => exact .done ((applyResult_kept ..).trans (takeResult_result_kept hu))

theorem execCursorStepDone_ordinary (ecc : Ecc) (s : State) : Ordinary s (execCursorStepDone ecc s) := by
  unfold execCursorStepDone
  split
  · exact .same
  · refine .guard ?_
    split
    next u hu => exact .done (takeResult_wait_kept hu)
    next u x f hu =>
      have hk := takeResult_result_kept hu
      exact .done (kept_ite ((cursorResult_kept ..).trans hk) hk)

theorem execCascadeTimeout_ordinary (id : Nat) (s : State) : Ordinary s (execCascadeTimeout id s) := by
  unfold execCascadeTimeout
  split
  · exact .same
  · exact .guard (.ite (.done (kept_ite (by simp) (by simp))) (.done (by simp)))

theorem execPegRewrite_ordinary (e : Fin 48) (k : W16) (s : State) : Ordinary s (execPegRewrite e k s) := by
  unfold execPegRewrite
  dsimp only
  split
  · exact .same
  · exact .guard (.next rfl)

theorem execMicroBatchComplete_ordinary (seq : W64) (res : BatchResult) (s : State) :
    Ordinary s (execMicroBatchComplete seq res s) := by
  unfold execMicroBatchComplete
  split
  · exact .same
  · refine .guard (.ite (.done ?_) (.ite (.next (by simp)) (.done (by simp))))
    rw [endBatch_kept]
    exact kept_ite (by simp) (by simp)

theorem execCutComplete_ordinary (set : BitVec 10) (s : State) : Ordinary s (execCutComplete set s) := by
  unfold execCutComplete
  dsimp only
  split
  · exact .when (.done (by simp))
  · exact .same

theorem execCascadeResultFrame_ordinary (f : ResultFrame) (crc : W16) (s : State) :
    Ordinary s (execCascadeResultFrame f crc s) := by
  unfold execCascadeResultFrame
  refine .guard (.ite (.done rfl) (.ite ?_ ?_))
  · split
    · exact .next rfl
    · exact .same
  · split
    · exact .next rfl
    · exact .same

theorem execCascadeProbeReturn_ordinary (p : Probe) (s : State) : Ordinary s (execCascadeProbeReturn p s) := by
  unfold execCascadeProbeReturn
  refine .ite (.when (.next rfl)) ?_
  split
  · exact .same
  · exact .guard (.ite (.done (by simp)) (.done (by simp)))

theorem execCascadeProbeTimeout_ordinary (s : State) : Ordinary s (execCascadeProbeTimeout s) := by
  unfold execCascadeProbeTimeout
  split
  · exact .same
  · exact .when (.done (by simp))

theorem execScrubVisit_ordinary (b : Bool) (s : State) : Ordinary s (execScrubVisit b s) :=
  .guard (.ite (.next rfl) (.ite (.done rfl) (.ite (.next rfl) (.done (kept_ite rfl rfl)))))

theorem execBulkUpdateRecord_ordinary (s : State) : Ordinary s (execBulkUpdateRecord s) := by
  unfold execBulkUpdateRecord
  split
  · refine .guard ?_
    split
    · exact .ite (.next (by simp)) (.next (by simp))
    · exact .when (.done (by simp))
  · exact .same

section Loads
variable {s : State}

theorem execPlanLoadDone_ordinary (p : Byte) (decl : PlanDecl) : Ordinary s (execPlanLoadDone p decl s) := by
  unfold execPlanLoadDone
  split
  · exact .guard (.ite (.done (by simp)) (.done (by simp)))
  · exact .same

theorem execVocabLoadDone_ordinary (v : Fin 8) : Ordinary s (execVocabLoadDone v s) := by
  unfold execVocabLoadDone
  split
  · exact .guard (.ite (.done (by simp)) (.done (by simp)))
  · exact .same

theorem execGrammarLoadDone_ordinary (g : Fin 64) : Ordinary s (execGrammarLoadDone g s) := by
  unfold execGrammarLoadDone
  split
  · exact .guard (.ite (.done (by simp)) (.done (by simp)))
  · exact .same

theorem execDeltaLoadDone_ordinary (d : BitVec 10) : Ordinary s (execDeltaLoadDone d s) := by
  unfold execDeltaLoadDone
  split
  · exact .guard (.ite (.done (by simp)) (.done (by simp)))
  · exact .same

theorem execBackboneLoadDone_ordinary (b : BitVec 10) : Ordinary s (execBackboneLoadDone b s) := by
  unfold execBackboneLoadDone
  split
  · exact .guard (.ite (.done (kept_ite (by simp) (by simp))) (.done (by simp)))
  · exact .same

end Loads

theorem execRegisterWrite_ordinary (path : Path) (index : W16) (sub : Byte) (x : Xfer) (data : List Byte) (s : State) :
    Ordinary s (execRegisterWrite path index sub x data s) := by
  unfold execRegisterWrite
  refine .guard ?_
  dsimp only
  split
  case h_5 => exact .ite (.done (by simp)) (.done (by simp))
  all_goals exact .done (by simp)

theorem execUsdoUpload_ordinary (path : Path) (index : W16) (sub : Byte) (x : Xfer) (s : State) :
    Ordinary s (execUsdoUpload path index sub x s) := by
  unfold execUsdoUpload
  refine .guard ?_
  dsimp only
  split
  case h_3 => exact .done (kept_ite (by simp) (by simp))
  all_goals exact .done (by simp)

theorem execUsdoSegmentTimeout_ordinary (path : Path) (s : State) : Ordinary s (execUsdoSegmentTimeout path s) := by
  unfold execUsdoSegmentTimeout
  split
  · exact .same
  · exact .when (.done (by simp))

theorem execEmcyTransmit_ordinary (s : State) : Ordinary s (execEmcyTransmit s) := by
  unfold execEmcyTransmit
  dsimp only
  split
  · exact .same
  · exact .when (.next rfl)

theorem execRestoreReadDone_ordinary (s : State) : Ordinary s (execRestoreReadDone s) := by
  unfold execRestoreReadDone
  refine .guard (.ite (.done (by simp)) ?_)
  split
  · exact .done (by simp)
  · split
    · exact .done (by simp)
    · exact .same

theorem execSensorSample_ordinary (rs : List W16) (s : State) : Ordinary s (execSensorSample rs s) := by
  unfold execSensorSample
  refine .guard ?_
  split
  · exact .same
  · exact .done ((raiseIf_kept ..).trans rfl)

theorem execGtApply_ordinary (level : Bool) (lo hi : W32) (s : State) : Ordinary s (execGtApply level lo hi s) :=
  .guard (.ite (.next rfl) (.next rfl))

theorem execIntakeClose_ordinary (s : State) : Ordinary s (execIntakeClose s) := by
  have hclose : (if s.cal.periodOpen ∧ ¬ s.cal.closed ∧ ¬ s.tick.afterEntry
      then closePeriod { s with tick := { s.tick with intakeClosed := true } } s.tick.cur
      else { s with tick := { s.tick with intakeClosed := true } }).kept = s.kept :=
    kept_ite (closePeriod_kept ..) rfl
  exact .guard (.done (kept_ite ((buildPlan_kept _).trans hclose) hclose))

/-! ## Every ordinary command -/

/-- What an ordinary command can do (02, 18, 19): it answers a state that keeps `State.kept`. -/
theorem exec_ordinary (c : Instr) (s : State) (h : special c = false) : Ordinary s (exec c s) := by
  cases c with
  | tickRegistration | powerOnReset | hostReset | resetRelease | pllLock | vinRise | railsGood | supplyLockout
  | fuseSenseDone | internalResetRelease | clockReturn | tapReset | extest | samplePreload | idcode | stackSelect
  | wrapper | mbist | scanDump | debugAccess | lockDebug | bypass => cases h
  | consumerIndexReturn p tag v => exact execConsumerIndexReturn_ordinary p tag v s
  | overrunThreshold => exact .when (.done (by rw [emcySend_kept]; rfl))
  | intakeClose => exact execIntakeClose_ordinary s
  | tickAbsent => exact .when (.done rfl)
  | parkLimitExpiry slot => exact execParkLimitExpiry_ordinary slot s
  | pinLimitExpiry slot => exact .when (.next rfl)
  | coldExpiry slot => exact .when (.next (by simp))
  | fillTicksExpiry set => exact .when (.next (kept_ite (by simp) (by simp)))
  | autoCut set => exact .when (.done (by simp))
  | holdRing slot => exact .when (.done (by simp))
  | hbmTrainingDone failed => exact .guard (.ite (.next rfl) (.done (foldl_kept _ (fun _ _ => raise_kept ..) _ _)))
  | linkTrainingDone up half =>
    exact .guard (.done ((setBoot_kept ..).trans (foldl_kept _ (fun _ _ => trainPort_kept ..) _ _)))
  | selfTestDone fs => exact .guard (.done ((setBoot_kept ..).trans (foldl_kept _ (fun _ _ => raiseRec_kept ..) _ _)))
  | deviceIdDerive ok => exact .guard (.ite (.next (by simp)) (.done rfl))
  | bootBlockRead => exact execBootBlockRead_ordinary s
  | imageLoad => exact execImageLoad_ordinary s
  | bootRetry => exact .when (.next (by simp))
  | evidenceWrite => exact .when (.done (by simp))
  | supplySample mV mA => exact .guard (.done (by simp only [raiseIf_kept]; rfl))
  | sensorSample rs => exact execSensorSample_ordinary rs s
  | clockLoss src => exact .guard (.next rfl)
  | droop q => exact .when (.next rfl)
  | droopOverlimit q => exact .when (.done rfl)
  | droopRecovery q => exact .next rfl
  | hbm4CatastrophicTemperature i => exact .when (.next rfl)
  | linkDown p => exact .guard (.ite (.done rfl) (.done rfl))
  | linkUp p half => exact .guard (.done (by simp))
  | linkRetry p => exact .guard (.done rfl)
  | linkRetrain p => exact .guard (.ite (.done rfl) (.done rfl))
  | hostWriteStray p addr len => exact .guard (.ite (.done (by simp)) (.when (.done (by simp))))
  | hostRead p tag => exact .when (.next rfl)
  | hostMessageReservedOp p op => exact .when (.done (by simp))
  | completion p tag data => exact execCompletion_ordinary p tag data s
  | completionError p tag => exact execCompletionError_ordinary p tag s
  | readTimeout p tag => exact execReadTimeout_ordinary p tag s
  | writeTimeout p tag => exact execWriteTimeout_ordinary p tag s
  | openReq | prompt | accept | pause | cancel | close => exact .receive fun _ _ => rfl
  | resumeCold | resumeHoldRelease => exact .when (.receive fun _ _ => rfl)
  | tokens d errs => exact .receive fun u slot => by simp
  | feedback d => exact execFeedback_ordinary d s
  | publish d => exact execPublish_ordinary d s
  | unknownType d ty => exact .guard (.done (by simp))
  | descriptorDequeue slot => exact .guard (.done (by simp))
  | tileStart e w l => exact execTileStart_ordinary e w l s
  | tileComplete e heads stash errs => exact execTileComplete_ordinary e heads stash errs s
  | mortiseSearchResult id ecc => exact execMortiseSearchResult_ordinary id ecc s
  | vocabOverflowRead slot p => exact .when (.ite (.next (by simp)) (.done (by simp)))
  | maskWriteComplete g m => exact .when (.done ((foldl_kept _ (fun _ _ => drain_kept ..) _ _).trans (by simp)))
  | snapshotRestore slot => exact .when (.next rfl)
  | coldMoveComplete slot => exact execColdMoveComplete_ordinary slot s
  | coldCopyBack slot => exact execColdCopyBack_ordinary slot s
  | copyBeforeWrite page => exact execCopyBeforeWrite_ordinary page s
  | shadowRefresh e => exact .when (.next rfl)
  | pegRewrite e k => exact execPegRewrite_ordinary e k s
  | microBatchComplete seq res => exact execMicroBatchComplete_ordinary seq res s
  | cutComplete set => exact execCutComplete_ordinary set s
  | cascadeKeyFrame f crc ecc => exact .guard (.ite (.done rfl) (.guard (.next rfl)))
  | cascadeResultFrame f crc => exact execCascadeResultFrame_ordinary f crc s
  | cascadeTimeout id => exact execCascadeTimeout_ordinary id s
  | cascadeProbeReturn p => exact execCascadeProbeReturn_ordinary p s
  | cascadeProbeTimeout => exact execCascadeProbeTimeout_ordinary s
  | scrubVisit b => exact execScrubVisit_ordinary b s
  | bulkUpdateRecord => exact execBulkUpdateRecord_ordinary s
  | cursorStepDone ecc => exact execCursorStepDone_ordinary ecc s
  | planLoadDone p decl => exact execPlanLoadDone_ordinary p decl
  | vocabLoadDone v => exact execVocabLoadDone_ordinary v
  | grammarLoadDone g => exact execGrammarLoadDone_ordinary g
  | deltaLoadDone d => exact execDeltaLoadDone_ordinary d
  | backboneLoadDone b => exact execBackboneLoadDone_ordinary b
  | startRemoteNode via | stopRemoteNode via | enterPreOperational via | resetNode via | resetCommunication via =>
    exact .nmtCommand fun u => by simp
  | mbxPost seq frame => exact .guard (.ite (.next rfl) (.next rfl))
  | registerWrite path index sub x data => exact execRegisterWrite_ordinary path index sub x data s
  | usdoUpload path index sub x => exact execUsdoUpload_ordinary path index sub x s
  | usdoSegmentTimeout path => exact execUsdoSegmentTimeout_ordinary path s
  | heartbeat | tpdoEventTimer n => exact .when (.next rfl)
  | emcyTransmit => exact execEmcyTransmit_ordinary s
  | gtApply level lo hi => exact execGtApply_ordinary level lo hi s
  | checkpointWriteDone => exact .when (.done (by simp))
  | restoreReadDone => exact execRestoreReadDone_ordinary s
  | bulkUpdateRun | mortiseInvalidate | mortiseWrite | mortiseValidate | updateWindowEntry | cursorFirst | cursorNext
  | keyCaptureArm | planLoad | planUnload | deltaLoad | deltaCut
  | dropStaging | deltaDelete | backboneLoad | dropOther | tuningEnable | functionStart | functionStop | errorListClear
  | rearm | acknowledge | enginePoolWrite | tenantValidWrite | checkpoint | restore | foreignAcknowledgement =>
    exact .mgmtWrite fun u => by simp
  | vocabLoad path v => exact .mgmtWrite (act := fun u => vocabLoad u v) fun u => by simp
  | vocabUnload path v => exact .mgmtWrite (act := fun u => vocabUnload u v) fun u => by simp
  | grammarLoad path g => exact .mgmtWrite (act := fun u => grammarLoad u g) fun u => by simp
  | grammarUnload path g => exact .mgmtWrite (act := fun u => grammarUnload u g) fun u => by simp

/-- Settles O9: an ordinary command answers one state, and that one keeps what it never touches. -/
theorem ordinaryCommandsKeep : Obligations.OrdinaryCommandsKeep := by
  unfold Obligations.OrdinaryCommandsKeep
  intro c s t hc ht
  obtain ⟨u, hu, hkept⟩ := exec_ordinary c s hc
  rw [hu] at ht
  cases ht
  exact hkept

end Sys2Proof.Machine
end

section
/-! SUPPORT. What outlasts every command: the queue, the fuses, DEBUGGED (log 1; 19 R550, R554). -/
namespace Sys2Proof.Machine
open Sys2Proof

/-- The queue, the fuses but for their floors, and DEBUGGED once it is set, have outlasted the step from `s` to `t`. -/
structure Durable (s t : State) : Prop where
  pending : t.pending = s.pending
  uds : t.fuse.uds = s.fuse.uds
  keyHash : t.fuse.keyHash = s.fuse.keyHash
  serial : t.fuse.serial = s.fuse.serial
  dbgLock : t.fuse.dbgLock = s.fuse.dbgLock
  debugged : s.tap.debugged = true → t.tap.debugged = true

theorem Durable.refl (s : State) : Durable s s := ⟨rfl, rfl, rfl, rfl, rfl, id⟩

/-- What a command keeps outlasts it. -/
theorem durable_of_kept {s t : State} (h : t.kept = s.kept) : Durable s t where
  pending := congrArg Kept.pending h
  uds := congrArg Kept.uds h
  keyHash := congrArg Kept.keyHash h
  serial := congrArg Kept.serial h
  dbgLock := congrArg Kept.dbgLock h
  debugged := fun hd => (congrArg (·.tap.debugged) h).trans hd

/-- The outcome is a state that the queue, the fuses and DEBUGGED outlast. -/
def Lasting (s : State) (o : Host.Outcome State Fault Refusal) : Prop := ∃ t, o = .next t ∧ Durable s t

namespace Lasting
variable {s u : State}

theorem next (h : Durable s u) : Lasting s (.next u) := ⟨u, rfl, h⟩

theorem ite {c : Prop} [Decidable c] {a b : Host.Outcome State Fault Refusal} (ha : Lasting s a) (hb : Lasting s b) :
    Lasting s (if c then a else b) := by split <;> assumption

theorem when {c : Prop} [Decidable c] {a : Host.Outcome State Fault Refusal} (ha : Lasting s a) :
    Lasting s (if c then a else .next s) := ite ha (next (.refl s))

theorem guard {c : Prop} [Decidable c] {a : Host.Outcome State Fault Refusal} (ha : Lasting s a) :
    Lasting s (if c then .next s else a) := ite (next (.refl s)) ha

/-- A step that changes none of the queue, the fuses and the TAP. -/
theorem next_of_eq (hp : u.pending = s.pending) (hf : u.fuse = s.fuse) (ht : u.tap = s.tap) : Lasting s (.next u) :=
  next ⟨hp, congrArg FuseState.uds hf, congrArg FuseState.keyHash hf, congrArg FuseState.serial hf,
    congrArg FuseState.dbgLock hf, fun h => (congrArg TapState.debugged ht).trans h⟩

end Lasting

/-! ## The commands that an ordinary one is not (02, 18, 19) -/

theorem exec_tickRegistration_lasting (level unstable : Bool) (num : W48) (s : State) :
    Lasting s (exec (.tickRegistration level num unstable) s) := by
  by_cases hup : nodeUp s = true ∧ level ≠ s.tick.refLevel
  · have h := registerTick_kept s level unstable num
    rw [exec_tickRegistration_toggle hup.1 hup.2]
    generalize registerTick s level unstable num = t at h ⊢
    exact .next ⟨congrArg Kept.pending h, congrArg Kept.uds h, congrArg Kept.keyHash h, congrArg Kept.serial h,
      congrArg Kept.dbgLock h, fun hd => (congrArg (·.tap.debugged) h).trans hd⟩
  · have hstays : ¬ nodeUp s ∨ level = s.tick.refLevel :=
      (Decidable.not_and_iff_or_not.mp hup).imp_right Decidable.not_not.mp
    have hidle : exec (.tickRegistration level num unstable) s = .next s := if_pos hstays
    rw [hidle]
    exact .next (.refl s)

theorem execPowerOnReset_lasting (s : State) : Lasting s (execPowerOnReset s) := by
  unfold execPowerOnReset
  dsimp only
  split <;> exact .next_of_eq rfl rfl rfl

theorem execHostReset_lasting (s : State) : Lasting s (execHostReset s) := by
  unfold execHostReset
  split <;> exact .next_of_eq rfl rfl rfl

theorem execFuseSenseDone_lasting (k : FuseCheck) (s : State) : Lasting s (execFuseSenseDone k s) := by
  unfold execFuseSenseDone
  refine .guard (.next_of_eq ?_ ?_ ?_) <;> dsimp only [settle] <;> (repeat' split) <;> rfl

/-- An instruction of the TAP changes the TAP alone, and DEBUGGED only by setting it (19 R554). -/
theorem whenPowered_lasting {s : State} {f : State → State} (hp : (f s).pending = s.pending) (hf : (f s).fuse = s.fuse)
    (ht : s.tap.debugged = true → (f s).tap.debugged = true) : Lasting s (whenPowered s f) :=
  .when (.next ⟨hp, congrArg FuseState.uds hf, congrArg FuseState.keyHash hf, congrArg FuseState.serial hf,
    congrArg FuseState.dbgLock hf, ht⟩)

@[simp] theorem tapDebug_pending (s : State) (code : Byte) (acts : Bool) : (tapDebug s code acts).pending = s.pending := by
  unfold tapDebug; dsimp only; split <;> rfl
@[simp] theorem tapDebug_fuse (s : State) (code : Byte) (acts : Bool) : (tapDebug s code acts).fuse = s.fuse := by
  unfold tapDebug; dsimp only; split <;> rfl
theorem tapDebug_debugged {s : State} (h : s.tap.debugged = true) (code : Byte) (acts : Bool) :
    (tapDebug s code acts).tap.debugged = true := by
  unfold tapDebug; dsimp only; split
  · exact h
  · rfl

theorem tapDebug_lasting (s : State) (code : Byte) (acts : State → Bool) :
    Lasting s (whenPowered s fun s => tapDebug s code (acts s)) :=
  whenPowered_lasting (by simp) (by simp) fun h => tapDebug_debugged h _ _

theorem execMbist_lasting (s : State) : Lasting s (execMbist s) := by
  refine whenPowered_lasting ?_ ?_ fun h => ?_ <;> dsimp only
  · split <;> exact tapDebug_pending ..
  · split <;> exact tapDebug_fuse ..
  · split <;> exact tapDebug_debugged h _ _

/-- Every command but a supply lockout and LOCK_DEBUG leaves the queue, the fuses and a set DEBUGGED. -/
theorem exec_lasting (c : Instr) (s : State) (hlock : c ≠ .lockDebug) (hsupply : ∀ mV, c ≠ .supplyLockout mV) :
    Lasting s (exec c s) := by
  cases hc : special c with
  | false =>
    obtain ⟨t, ht, hkept⟩ := exec_ordinary c s hc
    exact ⟨t, ht, durable_of_kept hkept⟩
  | true =>
    cases c with
    | supplyLockout mV => exact absurd rfl (hsupply mV)
    | lockDebug => exact absurd rfl hlock
    | tickRegistration level num unstable => exact exec_tickRegistration_lasting level unstable num s
    | powerOnReset => exact execPowerOnReset_lasting s
    | hostReset => exact execHostReset_lasting s
    | resetRelease level => exact .guard (.ite (.next_of_eq rfl rfl rfl) (.next_of_eq rfl rfl rfl))
    | pllLock | vinRise | railsGood | internalResetRelease | clockReturn => exact .when (.next_of_eq rfl rfl rfl)
    | fuseSenseDone k => exact execFuseSenseDone_lasting k s
    | tapReset | extest | samplePreload | idcode | bypass => exact .when (.next ⟨rfl, rfl, rfl, rfl, rfl, id⟩)
    | stackSelect => exact tapDebug_lasting s 0x10 (·.pwr.porst)
    | wrapper => exact tapDebug_lasting s 0x11 (·.pwr.porst)
    | mbist => exact execMbist_lasting s
    | scanDump => exact tapDebug_lasting s 0x13 (·.pwr.porst)
    | debugAccess => exact tapDebug_lasting s 0x14 fun _ => true
    | _ => cases hc

/-! ## LOCK_DEBUG (19 R554) -/

/-- LOCK_DEBUG blows DBG_LOCK where it is sensed 0, and leaves the queue, the other fuses and DEBUGGED. -/
theorem exec_lockDebug (s : State) : ∃ t, exec .lockDebug s = .next t ∧ t.pending = s.pending
    ∧ t.tap.debugged = s.tap.debugged
    ∧ (t.fuse = s.fuse ∨ s.sensed.dbgLock = false ∧ t.fuse = { s.fuse with dbgLock := true }) := by
  show ∃ t, execLockDebug s = .next t ∧ _
  unfold execLockDebug whenPowered
  split
  · dsimp only
    cases hl : s.sensed.dbgLock with
    | true => exact ⟨_, rfl, rfl, rfl, .inl rfl⟩
    | false => exact ⟨_, rfl, rfl, rfl, .inr ⟨rfl, rfl⟩⟩
  · exact ⟨s, rfl, rfl, rfl, .inl rfl⟩

/-! ## SUPPLY_LOCKOUT (18 R531; 19 R550) -/

/-- A raise that the supply cuts changes of the fuses only the floors, and of time only the free bits it takes. -/
theorem cutRaise_eq (s : State) : ∃ lilen tile idx, cutRaise s = { s with
    fuse := { s.fuse with lilenFloors := lilen, tileFloors := tile }, time := { s.time with freeIdx := idx } } := by
  unfold cutRaise
  split
  · exact ⟨_, _, _, rfl⟩
  · exact ⟨_, _, _, rfl⟩

/-- The fuses but for their floors, and the queue, outlast a lockout. -/
theorem lockout_fuse (s : State) : (lockout s).pending = s.pending ∧ (lockout s).fuse.uds = s.fuse.uds
    ∧ (lockout s).fuse.keyHash = s.fuse.keyHash ∧ (lockout s).fuse.serial = s.fuse.serial
    ∧ (lockout s).fuse.dbgLock = s.fuse.dbgLock := by
  unfold lockout
  split
  · exact ⟨rfl, rfl, rfl, rfl, rfl⟩
  · obtain ⟨lilen, tile, idx, hcut⟩ := cutRaise_eq s
    rw [hcut]
    exact ⟨rfl, rfl, rfl, rfl, rfl⟩

/-- SUPPLY_LOCKOUT stops the machine, above the absolute maximum alone, or leaves the queue and the fuses. -/
theorem exec_supplyLockout (mV : W32) (s : State) :
    (60000 < mV.toNat ∧ exec (.supplyLockout mV) s = .fault .absoluteMaximum)
    ∨ ∃ t, exec (.supplyLockout mV) s = .next t ∧ t.pending = s.pending ∧ t.fuse.uds = s.fuse.uds
      ∧ t.fuse.keyHash = s.fuse.keyHash ∧ t.fuse.serial = s.fuse.serial ∧ t.fuse.dbgLock = s.fuse.dbgLock := by
  show (_ ∧ execSupplyLockout mV s = _) ∨ ∃ t, execSupplyLockout mV s = .next t ∧ _
  unfold execSupplyLockout
  split
  next hmax =>
    dsimp only
    split
    · exact .inl ⟨hmax, rfl⟩
    · exact .inr ⟨_, rfl, lockout_fuse (takeBit s).2⟩
  next =>
    split
    · exact .inr ⟨_, rfl, lockout_fuse s⟩
    · exact .inr ⟨s, rfl, rfl, rfl, rfl, rfl, rfl⟩

/-! ## The statements -/

/-- Settles O6: what outlasts a command holds the queue. -/
theorem commandsLeaveTheQueue : Obligations.CommandsLeaveTheQueue := by
  unfold Obligations.CommandsLeaveTheQueue
  intro c s t ht
  by_cases hlock : c = .lockDebug
  · obtain ⟨u, hu, hp, -⟩ := exec_lockDebug s
    rw [hlock, hu] at ht
    cases ht
    exact hp
  · by_cases hsupply : ∃ mV, c = .supplyLockout mV
    · obtain ⟨mV, rfl⟩ := hsupply
      rcases exec_supplyLockout mV s with ⟨-, hf⟩ | ⟨u, hu, hp, -⟩
      · rw [hf] at ht; cases ht
      · rw [hu] at ht; cases ht; exact hp
    · obtain ⟨u, hu, hd⟩ := exec_lasting c s hlock (not_exists.mp hsupply)
      rw [hu] at ht
      cases ht
      exact hd.pending

/-- Settles O7: every command but a supply lockout answers a state, and that one stops above the absolute maximum only. -/
theorem onlyAbsoluteMaximumStops : Obligations.OnlyAbsoluteMaximumStops := by
  unfold Obligations.OnlyAbsoluteMaximumStops
  intro c s
  by_cases hlock : c = .lockDebug
  · obtain ⟨u, hu, -⟩ := exec_lockDebug s
    exact .inl ⟨u, hlock ▸ hu⟩
  · by_cases hsupply : ∃ mV, c = .supplyLockout mV
    · obtain ⟨mV, rfl⟩ := hsupply
      rcases exec_supplyLockout mV s with ⟨hmax, hf⟩ | ⟨u, hu, -⟩
      · exact .inr ⟨mV, rfl, hmax, hf⟩
      · exact .inl ⟨u, hu⟩
    · obtain ⟨u, hu, -⟩ := exec_lasting c s hlock (not_exists.mp hsupply)
      exact .inl ⟨u, hu⟩

/-- Settles O17: DEBUGGED and the fuses outlast every command but a lockout, which leaves the fuses, and LOCK_DEBUG,
which blows DBG_LOCK. -/
theorem whatNoCommandUndoes : Obligations.WhatNoCommandUndoes := by
  unfold Obligations.WhatNoCommandUndoes
  refine ⟨fun c s t hdebugged ht hsupply => ?_, fun c s t ht => ?_⟩
  · by_cases hlock : c = .lockDebug
    · obtain ⟨u, hu, -, hd, -⟩ := exec_lockDebug s
      rw [hlock, hu] at ht
      cases ht
      exact hd.trans hdebugged
    · obtain ⟨u, hu, hd⟩ := exec_lasting c s hlock hsupply
      rw [hu] at ht
      cases ht
      exact hd.debugged hdebugged
  · by_cases hlock : c = .lockDebug
    · obtain ⟨u, hu, -, -, hf⟩ := exec_lockDebug s
      rw [hlock, hu] at ht
      cases ht
      rcases hf with hf | ⟨hl, hf⟩
      · simp [hf]
      · simp [hf, hl, hlock]
    · by_cases hsupply : ∃ mV, c = .supplyLockout mV
      · obtain ⟨mV, rfl⟩ := hsupply
        rcases exec_supplyLockout mV s with ⟨-, hf⟩ | ⟨u, hu, -, h1, h2, h3, h4⟩
        · rw [hf] at ht; cases ht
        · rw [hu] at ht
          cases ht
          exact ⟨h1, h2, h3, h4.trans, fun hne => absurd h4 hne⟩
      · obtain ⟨u, hu, hd⟩ := exec_lasting c s hlock (not_exists.mp hsupply)
        rw [hu] at ht
        cases ht
        exact ⟨hd.uds, hd.keyHash, hd.serial, hd.dbgLock.trans, fun hne => absurd hd.dbgLock hne⟩

end Sys2Proof.Machine
end

section
/-! SUPPORT. What a report counts, captures and lists (17 R498 to R504). -/
namespace Sys2Proof.Machine
open Sys2Proof

/-! ## Counts and capture -/

/-- The counts by class and the error capture. -/
structure Tally where
  byClass : Tbl W64
  captured : Bool
  capCode : W16
  capClass : Byte
  capDetail : BitVec 40
  capStamp : Nat

def State.tally (s : State) : Tally :=
  ⟨s.err.byClass, s.err.captured, s.err.capCode, s.err.capClass, s.err.capDetail, s.err.capStamp⟩

@[simp] theorem emcySend_err (s : State) (c : W16) (r : Byte) (d : BitVec 40) : (emcySend s c r d).err = s.err := by
  unfold emcySend; (repeat' split) <;> rfl

@[simp] theorem emcySend_errorList (s : State) (c : W16) (r : Byte) (d : BitVec 40) :
    (emcySend s c r d).mgmt.errorList = s.mgmt.errorList := by
  unfold emcySend; (repeat' split) <;> rfl

@[simp] theorem emcySend_tally (s : State) (c : W16) (r : Byte) (d : BitVec 40) : (emcySend s c r d).tally = s.tally := by
  simp [State.tally]

@[simp] theorem errRingWrite_tally (s : State) (rc : Rec) : (errRingWrite s rc).tally = s.tally := by
  unfold errRingWrite; dsimp only; split
  · rfl
  · simp [State.tally]

@[simp] theorem errRingWrite_mgmt (s : State) (rc : Rec) : (errRingWrite s rc).mgmt = s.mgmt := by
  unfold errRingWrite; dsimp only; split
  · rfl
  · simp

@[simp] theorem viewCount_tally (s : State) (p : Place) (c : BitVec 3) : (viewCount s p c).tally = s.tally := by
  unfold viewCount; split <;> rfl

@[simp] theorem viewCount_mgmt (s : State) (p : Place) (c : BitVec 3) : (viewCount s p c).mgmt = s.mgmt := by
  unfold viewCount; split <;> rfl

/-- The engine that a place names counts the record. -/
def engineCount (s : State) (p : Place) (c : BitVec 3) : State :=
  match placeEngine p with
  | some e =>
    if c = 0 then modEng s e fun v => { v with corrected := v.corrected + 1 }
    else if c = 1 then modEng s e fun v => { v with detected := v.detected + 1 }
    else s
  | none => s

theorem engineCount_eq (s : State) (p : Place) (c : BitVec 3) :
    ∃ x, engineCount s p c = { s with eng := x } := by
  unfold engineCount
  split
  · split
    · exact ⟨_, rfl⟩
    · split
      · exact ⟨_, rfl⟩
      · exact ⟨s.eng, rfl⟩
  · exact ⟨s.eng, rfl⟩

/-- The count at a unit changes the engines, the functions' statistics and the records of the tick. -/
theorem unitCount_eq (s : State) (p : Place) (c : BitVec 3) :
    ∃ x fns l, unitCount s p c = { s with eng := x, fns := fns, err := { s.err with tickErrs := l } } := by
  obtain ⟨x, hx⟩ := engineCount_eq s p c
  have hunfold : unitCount s p c = if (placeUnits p).isEmpty then engineCount s p c else
      { engineCount s p c with
        err := { (engineCount s p c).err with tickErrs := placeUnits p :: (engineCount s p c).err.tickErrs }
        fns := Tbl.mapVals {} (fun _ f =>
          if f.ranOn.any (fun e => (placeUnits p).contains e.val) then { f with stats := cntAdd f.stats 0x0D 1 } else f)
          (engineCount s p c).fns } := rfl
  rw [hunfold, hx]
  split
  · exact ⟨x, s.fns, s.err.tickErrs, rfl⟩
  · exact ⟨x, _, _, rfl⟩

@[simp] theorem unitCount_tally (s : State) (p : Place) (c : BitVec 3) : (unitCount s p c).tally = s.tally := by
  obtain ⟨x, fns, l, h⟩ := unitCount_eq s p c
  rw [h]; rfl

@[simp] theorem unitCount_mgmt (s : State) (p : Place) (c : BitVec 3) : (unitCount s p c).mgmt = s.mgmt := by
  obtain ⟨x, fns, l, h⟩ := unitCount_eq s p c
  rw [h]

@[simp] theorem refreshRegister_tally (s : State) : (refreshRegister s).tally = s.tally := by
  unfold refreshRegister
  dsimp only
  split
  · rfl
  · split
    · exact (emcySend_tally s 0 0 0)
    · rfl

@[simp] theorem refreshRegister_errorList (s : State) : (refreshRegister s).mgmt.errorList = s.mgmt.errorList := by
  unfold refreshRegister
  dsimp only
  split
  · rfl
  · split
    · exact (emcySend_errorList s 0 0 0)
    · rfl

/-! ## One record -/

/-- The state in which a record has been counted at its class and at its unit (17 R500). -/
def tallied (s : State) (e : Raised) : State :=
  unitCount (viewCount { s with err := { s.err with byClass := cntAdd s.err.byClass (e.cls.toNat + 1) 1 } } e.place e.cls)
    e.place e.cls

/-- A record of class 1, 3 or 4 is captured while the capture is armed (17 R501, R507). -/
def capture (s : State) (e : Raised) : State :=
  if (e.cls = 1 ∨ e.cls = 3 ∨ e.cls = 4) ∧ ¬ s.err.captured then
    { s with err := { s.err with captured := true, capCode := emcyCode e.code e.cls, capClass := e.cls.zeroExtend 8,
                                  capDetail := detailOf e.place e.code, capStamp := s.time.now } }
  else s

/-- A corrected record is remembered for the tick, unless it has been seen in it (17 R502). -/
def remembered (s : State) (e : Raised) : State :=
  if e.cls = 0 ∧ ¬ (e.cls = 0 ∧ s.err.corrected.contains (e.code, e.place.source)) then
    { s with err := { s.err with corrected := (e.code, e.place.source) :: s.err.corrected } }
  else s

/-- A record is written to the error ring, but for a corrected one seen before in the tick (17 R502). -/
def ringed (s : State) (e : Raised) : State :=
  if e.cls = 0 ∧ s.err.corrected.contains (e.code, e.place.source) then remembered s e
  else errRingWrite (remembered s e)
    { tick := tickOf (remembered s e), handle := e.handle
      body := .notice { emcyCode := emcyCode e.code e.cls, errReg := errorRegister (remembered s e), cls := e.cls
                        code := e.code, place := e.place, stamp := (remembered s e).time.now, argA := e.argA
                        argB := e.argB, argC := e.argC } }

/-- A record that is sent as an EMCY heads the error list (17 R504). -/
def listed (s : State) (e : Raised) : State :=
  if e.emcy && errEmcy e.code then
    let s := { s with mgmt := { s.mgmt with
      errorList := ((BitVec.ofNat 16 (errNum e.code) ++ emcyCode e.code e.cls) :: s.mgmt.errorList).take 16 } }
    emcySend s (emcyCode e.code e.cls) (errorRegister s) (detailOf e.place e.code)
  else s

/-- The stages of the report of one record. -/
theorem reportOne_eq (s : State) (e : Raised) : reportOne s e
    = if (capture (tallied s e) e).mgmt.nmt = .initialisation then capture (tallied s e) e
      else listed (ringed (capture (tallied s e) e) e) e := rfl

/-- The tally after a record: the first of class 1, 3 or 4 since the capture was armed is captured (17 R501, R507). -/
def Tally.add (y : Tally) (e : Raised) (now : Nat) : Tally :=
  if (e.cls = 1 ∨ e.cls = 3 ∨ e.cls = 4) ∧ ¬ y.captured then
    ⟨cntAdd y.byClass (e.cls.toNat + 1) 1, true, emcyCode e.code e.cls, e.cls.zeroExtend 8, detailOf e.place e.code, now⟩
  else { y with byClass := cntAdd y.byClass (e.cls.toNat + 1) 1 }

theorem tallied_tally (s : State) (e : Raised) :
    (tallied s e).tally = { s.tally with byClass := cntAdd s.err.byClass (e.cls.toNat + 1) 1 } :=
  (unitCount_tally ..).trans (viewCount_tally ..)

theorem tallied_mgmt (s : State) (e : Raised) : (tallied s e).mgmt = s.mgmt :=
  (unitCount_mgmt ..).trans (viewCount_mgmt ..)

theorem tallied_time (s : State) (e : Raised) : (tallied s e).time = s.time :=
  congrArg Quiet.time ((unitCount_quiet ..).trans (viewCount_quiet ..))

theorem capture_tally (s : State) (e : Raised) : (capture s e).tally
    = if (e.cls = 1 ∨ e.cls = 3 ∨ e.cls = 4) ∧ ¬ s.tally.captured then
        ⟨s.tally.byClass, true, emcyCode e.code e.cls, e.cls.zeroExtend 8, detailOf e.place e.code, s.time.now⟩
      else s.tally := by
  unfold capture
  split
  next h => exact (if_pos h).symm
  next h => exact (if_neg h).symm

theorem capture_mgmt (s : State) (e : Raised) : (capture s e).mgmt = s.mgmt := by
  unfold capture; split <;> rfl

theorem capture_tallied_tally (s : State) (e : Raised) :
    (capture (tallied s e) e).tally = s.tally.add e s.time.now := by
  rw [capture_tally, tallied_tally, tallied_time]
  rfl

theorem capture_tallied_mgmt (s : State) (e : Raised) : (capture (tallied s e) e).mgmt = s.mgmt :=
  (capture_mgmt ..).trans (tallied_mgmt ..)

theorem remembered_tally (s : State) (e : Raised) : (remembered s e).tally = s.tally := by
  unfold remembered; split <;> rfl

theorem remembered_mgmt (s : State) (e : Raised) : (remembered s e).mgmt = s.mgmt := by
  unfold remembered; split <;> rfl

theorem ringed_tally (s : State) (e : Raised) : (ringed s e).tally = s.tally := by
  unfold ringed
  split
  · exact remembered_tally s e
  · exact (errRingWrite_tally ..).trans (remembered_tally s e)

theorem ringed_mgmt (s : State) (e : Raised) : (ringed s e).mgmt = s.mgmt := by
  unfold ringed
  split
  · exact remembered_mgmt s e
  · exact (errRingWrite_mgmt ..).trans (remembered_mgmt s e)

theorem listed_tally (s : State) (e : Raised) : (listed s e).tally = s.tally := by
  unfold listed
  split
  · exact emcySend_tally ..
  · rfl

theorem listed_errorList {e : Raised} (h : (e.emcy && errEmcy e.code) = true) (s : State) :
    (listed s e).mgmt.errorList
      = ((BitVec.ofNat 16 (errNum e.code) ++ emcyCode e.code e.cls) :: s.mgmt.errorList).take 16 := by
  unfold listed
  rw [if_pos h]
  exact emcySend_errorList ..

theorem reportOne_tally (s : State) (e : Raised) : (reportOne s e).tally = s.tally.add e s.time.now := by
  rw [reportOne_eq]
  split
  · exact capture_tallied_tally s e
  · exact (listed_tally ..).trans ((ringed_tally ..).trans (capture_tallied_tally s e))

/-- Outside Initialisation an EMCY heads the error list, which holds 16 (17 R504). -/
theorem reportOne_errorList {s : State} {e : Raised} (hn : s.mgmt.nmt ≠ .initialisation)
    (he : (e.emcy && errEmcy e.code) = true) : (reportOne s e).mgmt.errorList
      = ((BitVec.ofNat 16 (errNum e.code) ++ emcyCode e.code e.cls) :: s.mgmt.errorList).take 16 := by
  rw [reportOne_eq, if_neg (by rwa [capture_tallied_mgmt]), listed_errorList he, ringed_mgmt, capture_tallied_mgmt]

/-! ## A report -/

theorem report_tally_nil {s : State} (h : s.err.cycle = []) : (report s).tally = s.tally := by
  unfold report; rw [h, refreshRegister_tally]; rfl

theorem report_errorList_nil {s : State} (h : s.err.cycle = []) : (report s).mgmt.errorList = s.mgmt.errorList := by
  unfold report; rw [h, refreshRegister_errorList]; rfl

/-- The record that a command raised alone in its cycle, as it is reported. -/
def loneRecord (code : ErrCode) (place : Place) (a b : Nat) : Raised :=
  { code, place, argA := BitVec.ofNat 64 a, argB := BitVec.ofNat 64 b }

section Lone
variable {s : State} (hr : s.err.raised = []) (hc : s.err.cycle = []) (code : ErrCode) (place : Place) (a b : Nat)
include hr hc

/-- The state in which a record raised alone in its cycle is reported: the one that raised it, with none waiting. -/
theorem report_lone : ∃ u : State, report (settle (raise s code place a b))
      = refreshRegister (reportOne u (loneRecord code place a b))
    ∧ u.tally = s.tally ∧ u.mgmt = s.mgmt ∧ u.time = s.time := by
  have hcycle : (settle (raise s code place a b)).err.cycle = [loneRecord code place a b] := by
    simp [settle, raise, hr, hc, insertRaised, loneRecord]
  generalize hx : settle (raise s code place a b) = x at hcycle
  refine ⟨{ x with err := { x.err with cycle := [] } }, ?_, ?_, ?_, ?_⟩
  · unfold report; rw [hcycle]; rfl
  all_goals subst hx; rfl

theorem report_lone_tally : (report (settle (raise s code place a b))).tally
    = s.tally.add (loneRecord code place a b) s.time.now := by
  obtain ⟨u, hu, htally, -, htime⟩ := report_lone hr hc code place a b
  rw [hu, refreshRegister_tally, reportOne_tally, htally, htime]

theorem report_lone_errorList (hn : s.mgmt.nmt ≠ .initialisation) (he : errEmcy code = true) :
    (report (settle (raise s code place a b))).mgmt.errorList
      = ((BitVec.ofNat 16 (errNum code) ++ emcyCode code (errCls code)) :: s.mgmt.errorList).take 16 := by
  obtain ⟨u, hu, -, hm, -⟩ := report_lone hr hc code place a b
  rw [hu, refreshRegister_errorList, reportOne_errorList (e := loneRecord code place a b) (by rwa [hm]) he, hm]
  rfl

end Lone

theorem settle_frame (s : State) : Frame [.err] s (settle s) := frame_of_copied rfl

theorem report_frame (s : State) : Frame [.ports, .fns, .eng, .err, .mgmt, .view] s (report s) := by
  intro p hp
  cases p <;> simp [Part.same] at hp ⊢

/-- Settles O8: what a report does to the tally and the error list is what its one record does. -/
theorem reportsStayAtTheirPlaces : Obligations.ReportsStayAtTheirPlaces := by
  unfold Obligations.ReportsStayAtTheirPlaces
  intro s
  refine ⟨settle_settled s, settle_inOrder, settle_frame s, fun h => report_reported h, report_frame s, fun hc => ?_,
    fun hr hc code place a b => ?_⟩
  · have htally := report_tally_nil hc
    exact ⟨congrArg Tally.byClass htally, congrArg Tally.captured htally, report_errorList_nil hc⟩
  · extract_lets t cls
    have htally : t.tally = s.tally.add (loneRecord code place a b) s.time.now := report_lone_tally hr hc code place a b
    have hcls : (loneRecord code place a b).cls = cls := rfl
    unfold Tally.add at htally
    rw [hcls] at htally
    refine ⟨?_, fun hcap => ?_, fun hcap hclass => ?_, fun hcap h1 h3 h4 => ?_,
      fun hn he => report_lone_errorList hr hc code place a b hn he⟩
    · refine (congrArg Tally.byClass htally).trans ?_
      split <;> rfl
    · rw [if_neg (by simp [State.tally, hcap])] at htally
      exact ⟨(congrArg Tally.captured htally).trans hcap, congrArg Tally.capCode htally, congrArg Tally.capClass htally,
        congrArg Tally.capDetail htally, congrArg Tally.capStamp htally⟩
    · rw [if_pos ⟨hclass, by simp [State.tally, hcap]⟩] at htally
      exact ⟨congrArg Tally.captured htally, congrArg Tally.capCode htally, congrArg Tally.capClass htally,
        congrArg Tally.capDetail htally, congrArg Tally.capStamp htally⟩
    · rw [if_neg fun h => (h.1.elim h1 fun h => h.elim h3 h4)] at htally
      exact (congrArg Tally.captured htally).trans hcap

end Sys2Proof.Machine
end

section
/-! SUPPORT. What the sensors read, and the alert and the trip that follow (18 R535, R536). -/
namespace Sys2Proof.Machine
open Sys2Proof

/-- From a reading on, the hottest of it and the list is one of them, and none of them is above it. -/
theorem hottestOf_from (t : List W16) (i : Nat) (b : W16) (j : Nat) :
    ∃ h k, hottestOf t i (some (b, j)) = some (h, k) ∧ h ∈ b :: t ∧ ∀ r ∈ b :: t, r.toInt ≤ h.toInt := by
  induction t generalizing i b j with
  | nil => exact ⟨b, j, rfl, by simp, by simp⟩
  | cons r t ih =>
    unfold hottestOf
    by_cases hr : r.toInt > b.toInt
    · rw [if_pos hr]
      obtain ⟨h, k, he, hmem, hmax⟩ := ih (i + 1) r i
      refine ⟨h, k, he, List.mem_cons_of_mem _ hmem, List.forall_mem_cons.mpr ⟨?_, hmax⟩⟩
      have := hmax r (by simp)
      omega
    · rw [if_neg hr]
      obtain ⟨h, k, he, hmem, hmax⟩ := ih (i + 1) b j
      obtain ⟨hb, ht⟩ := List.forall_mem_cons.mp hmax
      refine ⟨h, k, he, ?_, List.forall_mem_cons.mpr ⟨hb, List.forall_mem_cons.mpr ⟨by omega, ht⟩⟩⟩
      rcases List.mem_cons.mp hmem with rfl | hm <;> simp [*]

theorem hottestOf_spec {rs : List W16} (hne : rs ≠ []) :
    ∃ h k, hottestOf rs 0 none = some (h, k) ∧ h ∈ rs ∧ ∀ r ∈ rs, r.toInt ≤ h.toInt := by
  cases rs with
  | nil => exact absurd rfl hne
  | cons r t => exact hottestOf_from t 1 r 0

/-- The power state after a sample whose hottest reading is `h` (18 R535, R536). -/
def sampled (p : PowerState) (rs : List W16) (h : W16) : PowerState :=
  { p with
    hottest := h
    alert := if p.alert then decide (h.toInt ≥ p.alertAt.toInt - 200) else decide (h.toInt ≥ p.alertAt.toInt)
    trip := p.trip || (rs.take 72).any (fun r => decide (r.toInt ≥ 11000)) }

@[simp] theorem raiseIf_pwr (b : Bool) (s : State) (c : ErrCode) (p : Place) (x y : Nat) :
    (raiseIf b s c p x y).pwr = s.pwr := by unfold raiseIf; split <;> rfl

theorem raiseIf_frame (b : Bool) (s : State) (c : ErrCode) (p : Place) (x y : Nat) :
    Frame [.err] s (settle (raiseIf b s c p x y)) := by
  unfold raiseIf
  split <;> exact frame_of_copied rfl

/-- A sample sets the power state by its hottest reading and changes beyond that the errors alone. -/
theorem exec_sensorSample {rs : List W16} {s : State} (hrun : sensorsRun s = true) (hne : rs ≠ []) :
    ∃ h t, exec (.sensorSample rs) s = .next t ∧ h ∈ rs ∧ (∀ r ∈ rs, r.toInt ≤ h.toInt)
      ∧ t.pwr = sampled s.pwr rs h
      ∧ Frame [.err, .pwr] s t := by
  obtain ⟨h, i, he, hmem, hmax⟩ := hottestOf_spec hne
  have hexec : ∃ b, exec (.sensorSample rs) s
      = .next (settle (raiseIf b { s with pwr := sampled s.pwr rs h } .thermalAlert (stackPlace s 12 i) h.toNat 0)) := by
    refine ⟨(sampled s.pwr rs h).alert && !s.pwr.alert, ?_⟩
    show execSensorSample rs s = _
    unfold execSensorSample
    rw [if_neg (by simp [hrun]), he]
    rfl
  obtain ⟨b, hexec⟩ := hexec
  have hpwr : Frame [.err, .pwr] s { s with pwr := sampled s.pwr rs h } := frame_of_copied rfl
  exact ⟨h, _, hexec, hmem, hmax, raiseIf_pwr .., hpwr.trans (Frame.mono (by simp) (raiseIf_frame _ _ _ _ _ _))⟩

/-- Settles O14: the hottest reading is the list's maximum, and the alert and the trip are read off `sampled`. -/
theorem temperatures : Obligations.Temperatures := by
  unfold Obligations.Temperatures
  refine ⟨fun rs s hrun hne => ?_, fun i s hp => if_pos hp⟩
  obtain ⟨h, t, hexec, hmem, hmax, hpwr, hframe⟩ := exec_sensorSample hrun hne
  refine ⟨t, hexec, ?_, ?_, fun ha => ?_, fun ha => ?_, ?_, hframe⟩ <;> rw [hpwr]
  · exact hmem
  · exact hmax
  · simp [sampled, ha]
  · simp [sampled, ha]
  · simp [sampled]

end Sys2Proof.Machine
end

section
/-! SUPPORT. What the stamp stage leaves of the state, and that outside Operational it discards every descriptor of a
request (03 R55 to R62). -/
namespace Sys2Proof.Machine
open Sys2Proof

/-! ## A violation record is no error record (03 R120) -/

@[simp] theorem violateAt_quiet (s : State) (t : TickRef) (handle : W32) (v : ViolRec) :
    (violateAt s t handle v).quiet = s.quiet := by
  unfold violateAt
  split
  · rfl
  · exact errRingWrite_quiet ..

@[simp] theorem violate_quiet (s : State) (d : Desc) (type : Byte) (stamp : Nat) (tick : TickRef) (code : ViolCode)
    (a b : Nat) : (violate s d type stamp tick code a b).quiet = s.quiet := violateAt_quiet ..

@[simp] theorem modPort_quiet (s : State) (p : Fin 8) (f : Port → Port) : (modPort s p f).quiet = s.quiet := rfl

@[simp] theorem markOnce_quiet (s : State) (kind unit tick : Nat) : (markOnce s kind unit tick).quiet = s.quiet := rfl

@[simp] theorem countDesc_quiet (s : State) (p : Fin 8) (type : Nat) : (countDesc s p type).quiet = s.quiet := by
  unfold countDesc; split <;> rfl

/-! ## The stages of a stamp -/

theorem lastRows_quiet (s : State) (x : Seen) : (lastRows s x).1.quiet = s.quiet := by
  unfold lastRows
  dsimp only
  (repeat' split) <;> simp

/-- Taking a descriptor's sequence number counts its arrival. -/
theorem takeSeq_quiet (s : State) (x : Seen) (want : W16) : (takeSeq s x want).quiet
    = { s.quiet with time := { s.time with arrivals := s.time.arrivals + 1 } } := by
  unfold takeSeq
  split
  · rfl
  · have h := violate_quiet s x.desc x.type x.stamp x.tick .portSeq want.toNat x.desc.portSeq.toNat
    generalize violate s x.desc x.type x.stamp x.tick .portSeq want.toNat x.desc.portSeq.toNat = u at h
    rw [← h, ← show u.time = s.time from congrArg Quiet.time h]
    rfl

/-- The rows of the violation table before the sequence number (03 R58 to R60, R120). -/
def firstRows (s : State) (d : Desc) (type : Nat) : State :=
  let x : Seen := { desc := d, type := BitVec.ofNat 8 type, stamp := s.time.now, tick := tickOf s, gt := s.time.gtAccepted,
                    reported := (badField type d).isSome, tickBad := tickFieldBad (tickOf s) d.tick }
  let known := decide (1 ≤ type ∧ type ≤ 10)
  let wrong := known && type != 10 && decide (6 ≤ d.port.val)
  let u := countDesc s d.port type
  let u := if known then u else violate u d x.type x.stamp x.tick .unknownType
  let u := match firstReserved type d with
    | some b => violate u d x.type x.stamp x.tick .reservedNonzero b
    | none => u
  let u := match badField type d with
    | some (a, _) => violate u d x.type x.stamp x.tick .badField a
    | none => u
  if wrong ∧ ¬ x.reported then violate u d x.type x.stamp x.tick .wrongPort else u

theorem firstRows_quiet (s : State) (d : Desc) (type : Nat) : (firstRows s d type).quiet = s.quiet := by
  unfold firstRows
  dsimp only
  (repeat' split) <;> simp

/-- The stamp stage, by its rows: nothing, a descriptor discarded before the last rows, or the last rows. -/
theorem stampStage_rows (s : State) (d : Desc) (type : Nat) :
    stampStage s d type = (s, none) ∨ ∃ x : Seen, x.type = BitVec.ofNat 8 type ∧ ∃ want,
      (stampStage s d type = (takeSeq (firstRows s d type) x want, none)
        ∨ stampStage s d type = lastRows (takeSeq (firstRows s d type) x want) x) := by
  unfold stampStage
  split
  · exact .inl rfl
  · refine .inr ⟨{ desc := d, type := BitVec.ofNat 8 type, stamp := s.time.now, tick := tickOf s, gt := s.time.gtAccepted,
                   reported := (badField type d).isSome, tickBad := tickFieldBad (tickOf s) d.tick }, rfl,
      (portOf s d.port).seq, ?_⟩
    exact ite_is_branch ..

/-- The stamp stage changes of what no report touches only the count of arrivals. -/
theorem stampStage_quiet (s : State) (d : Desc) (type : Nat) :
    ∃ n, (stampStage s d type).1.quiet = { s.quiet with time := { s.time with arrivals := n } } := by
  have hfirst := firstRows_quiet s d type
  have hseq : ∀ x want, (takeSeq (firstRows s d type) x want).quiet
      = { s.quiet with time := { s.time with arrivals := s.time.arrivals + 1 } } := by
    intro x want
    rw [takeSeq_quiet, hfirst, show (firstRows s d type).time = s.time from congrArg Quiet.time hfirst]
  rcases stampStage_rows s d type with h | ⟨x, -, want, h | h⟩
  · exact ⟨s.time.arrivals, by rw [h]; rfl⟩
  · exact ⟨_, by rw [h]; exact hseq x want⟩
  · exact ⟨_, by rw [h]; exact (lastRows_quiet ..).trans (hseq x want)⟩

/-- Outside Operational the last rows discard everything but a PUBLISH (03 R55). -/
theorem lastRows_outside {s : State} {x : Seen} (hn : s.mgmt.nmt ≠ .operational) (ht : x.type ≠ 10) :
    (lastRows s x).2 = none := by
  unfold lastRows
  rw [if_pos ⟨ht, hn⟩]
  dsimp only
  split <;> rfl

/-- Outside Operational the stamp stage discards every descriptor but a PUBLISH (03 R55). -/
theorem stampStage_outside {s : State} {type : Nat} (hn : s.mgmt.nmt ≠ .operational)
    (ht : BitVec.ofNat 8 type ≠ 10) (d : Desc) :
    ∃ t n, stampStage s d type = (t, none) ∧ t.quiet = { s.quiet with time := { s.time with arrivals := n } } := by
  obtain ⟨n, hq⟩ := stampStage_quiet s d type
  refine ⟨_, n, ?_, hq⟩
  have hnone : (stampStage s d type).2 = none := by
    rcases stampStage_rows s d type with h | ⟨x, hx, want, h | h⟩
    · rw [h]
    · rw [h]
    · rw [h]
      have hnmt : (takeSeq (firstRows s d type) x want).mgmt.nmt = s.mgmt.nmt :=
        (congrArg Quiet.nmt (takeSeq_quiet ..)).trans (congrArg Quiet.nmt (firstRows_quiet ..))
      exact lastRows_outside (hnmt ▸ hn) (hx ▸ ht)
  rw [← hnone]

/-! ## Descriptors outside Operational -/

/-- The parts that no discarded descriptor changes, but for the count of arrivals. -/
def Untouched (s t : State) : Prop :=
  t.req = s.req ∧ t.text = s.text ∧ t.mortise = s.mortise ∧ t.stream = s.stream ∧ t.tune = s.tune ∧ t.jobs = s.jobs
    ∧ t.time = { s.time with arrivals := t.time.arrivals } ∧ t.acct = s.acct ∧ t.cal = s.cal

theorem Untouched.refl (s : State) : Untouched s s := ⟨rfl, rfl, rfl, rfl, rfl, rfl, rfl, rfl, rfl⟩

theorem untouched_settle_of_quiet {s t : State} {n : Nat}
    (h : t.quiet = { s.quiet with time := { s.time with arrivals := n } }) : Untouched s (settle t) := by
  have htime : t.time = { s.time with arrivals := n } := congrArg Quiet.time h
  refine ⟨congrArg Quiet.req h, congrArg Quiet.text h, congrArg Quiet.mortise h, congrArg Quiet.stream h,
    congrArg Quiet.tune h, congrArg Quiet.jobs h, ?_, congrArg Quiet.acct h, congrArg Quiet.cal h⟩
  show t.time = { s.time with arrivals := t.time.arrivals }
  rw [htime]

section Outside
variable {s t : State} (hn : s.mgmt.nmt ≠ .operational)
include hn

theorem receive_outside {d : Desc} {kind : DKind} {before : State → Slot → State} {errs : List DetErr}
    (ht : receive s d kind before errs = .next t) : Untouched s t := by
  obtain ⟨u, n, hu, hq⟩ := stampStage_outside (type := (typeOf kind).toNat) hn (by cases kind <;> decide) d
  rw [receive_discarded before errs hu] at ht
  cases ht
  exact untouched_settle_of_quiet hq

theorem execFeedback_outside {d : Desc} (ht : execFeedback d s = .next t) : Untouched s t := by
  obtain ⟨u, n, hu, hq⟩ := stampStage_outside (type := 9) hn (by decide) d
  have hdone : execFeedback d s = done u := by unfold execFeedback; rw [hu]
  rw [hdone] at ht
  cases ht
  exact untouched_settle_of_quiet hq

/-- A RESUME is received by the command of its kind alone. -/
theorem receive_when_outside {c : Prop} [Decidable c] {d : Desc} {kind : DKind}
    (ht : (if c then receive s d kind else .next s) = .next t) : Untouched s t := by
  split at ht
  · exact receive_outside hn ht
  · cases ht; exact .refl s

end Outside

theorem exec_openReq (d : Desc) (s : State) : exec (.openReq d) s = receive s d .openReq := rfl
theorem exec_prompt (d : Desc) (s : State) : exec (.prompt d) s = receive s d .prompt := rfl
theorem exec_accept (d : Desc) (s : State) : exec (.accept d) s = receive s d .accept := rfl
theorem exec_pause (d : Desc) (s : State) : exec (.pause d) s = receive s d .pause := rfl
theorem exec_cancel (d : Desc) (s : State) : exec (.cancel d) s = receive s d .cancel := rfl
theorem exec_close (d : Desc) (s : State) : exec (.close d) s = receive s d .close := rfl

/-- Settles O33: the stamp stage discards each of the descriptors, and changes only what a report touches. -/
theorem descriptorsNeedOperational : Obligations.DescriptorsNeedOperational := by
  unfold Obligations.DescriptorsNeedOperational
  intro d s t hn
  show ∀ c ∈ [Instr.openReq d, .prompt d, .tokens d [], .accept d, .pause d, .resumeCold d, .resumeHoldRelease d,
    .cancel d, .close d, .feedback d], exec c s = .next t → Untouched s t
  simp only [List.forall_mem_cons, exec_openReq, exec_prompt, exec_tokens, exec_accept, exec_pause, exec_cancel, exec_close]
  exact ⟨receive_outside hn, receive_outside hn, receive_outside hn, receive_outside hn, receive_outside hn,
    receive_when_outside hn, receive_when_outside hn, receive_outside hn, receive_outside hn, execFeedback_outside hn,
    List.forall_mem_nil _⟩

end Sys2Proof.Machine
end

section
/-! SUPPORT. What the release gate asks of a position that it passes (03 R90; 04 R135, R138; 05 R163). -/
namespace Sys2Proof.Machine
open Sys2Proof

/-- What a position has met that passes the gate: committed, scanned, judged at stage 3 and due, and let go by its class
and, in GATE_FULL, by stage 4 (04 R135, R138). -/
def Screened (t mode : Nat) (r : Request) (x : Pos) : Prop :=
  x.p < r.c ∧ x.scanned = true ∧ x.s3.isSome = true ∧ x.due ≤ t
    ∧ (mode = 0 → x.s4 ≠ .pending)
    ∧ (mode ≠ 2 → x.cls = 2 → x.resumed = true)
    ∧ (mode ≠ 2 → 3 ≤ x.cls → x.cutAfter = true)

/-- A step of the gate that passes its position, with or without a cut after it. -/
def GateStep.Passes (g : GateStep) : Prop := g = .pass ∨ ∃ e, g = .cut e true

theorem screened_of_passes {t mode lag : Nat} {r : Request} {x : Pos} (h : (gateStep t mode lag r x).Passes) :
    Screened t mode r x := by
  unfold gateStep at h
  split at h
  next => rcases h with h | ⟨e, h⟩ <;> cases h
  next hstop =>
    simp only [not_or, Decidable.not_not, Nat.not_lt, ge_iff_le, Nat.not_le] at hstop
    obtain ⟨hc, hscanned, -, -, -, hs3, hdue⟩ := hstop
    have hjudged : x.s3.isSome = true := by simpa [Option.isSome_iff_ne_none] using hs3
    refine ⟨hc, hscanned, hjudged, hdue, ?_⟩
    split at h
    next hopen => exact ⟨fun h0 => by omega, fun h2 => absurd hopen h2, fun h2 => absurd hopen h2⟩
    next hmode =>
      split at h
      next => rcases h with h | ⟨e, h⟩ <;> cases h
      next hwatched =>
        have hs4 : mode = 0 → x.s4 ≠ .pending := by
          intro h0 hp
          simp [watched, h0, hp] at hwatched
        split at h
        next => rcases h with h | ⟨e, h⟩ <;> cases h
        next hhold =>
          have hresumed : x.cls = 2 → x.resumed = true := fun h2 => by simpa [h2] using hhold
          split at h
          next hcut =>
            rcases h with h | ⟨e, h⟩
            · cases h
            · exact ⟨hs4, fun _ => hresumed, fun _ _ => congrArg (fun | .cut _ b => b | _ => true) h⟩
          next hlow => exact ⟨hs4, fun _ => hresumed, fun _ h3 => absurd h3 hlow⟩

/-- Passing one position leaves the others as they are. -/
theorem modAt_other {ps : List Pos} {p i : Nat} (f : Pos → Pos) (h : i ≠ p) : (Pos.modAt ps p f)[i]? = ps[i]? := by
  unfold Pos.modAt
  rw [List.getElem?_modify]
  simp [Ne.symm h]

/-- A position that the gate passes was screened. -/
theorem gateRun_screened {t mode lag i : Nat} {x y : Pos} (hx : x.applied = false) (hy : y.applied = true)
    (fuel p : Nat) (r : Request) (hr : r.positions[i]? = some x)
    (hrun : (gateRun t mode lag fuel p r).positions[i]? = some y) : Screened t mode r x := by
  have same : ∀ z : Request, z.positions[i]? = some x → z.positions[i]? = some y → Screened t mode r x := by
    intro z h1 h2
    rw [h1] at h2
    cases h2
    rw [hx] at hy
    cases hy
  induction fuel generalizing p r with
  | zero => exact same r hr hrun
  | succ fuel ih =>
    unfold gateRun at hrun
    split at hrun
    next => exact same r hr hrun
    next z hz =>
      split at hrun
      next => exact ih (p + 1) r hr hrun same
      next hz' =>
        have here : (gateStep t mode lag r z).Passes → i = p → Screened t mode r x := by
          rintro hpass rfl
          rw [hr] at hz
          cases hz
          exact screened_of_passes hpass
        dsimp only at hrun
        split at hrun
        next => exact same r hr hrun
        next => exact same r hr hrun
        next e hstep =>
          by_cases hip : i = p
          · exact here (.inr ⟨e, hstep⟩) hip
          · exact same r hr (by rwa [modAt_other _ hip] at hrun)
        next => exact same r hr hrun
        next hstep =>
          by_cases hip : i = p
          · exact here (.inl hstep) hip
          · have hnext := ih (p + 1) { r with positions := Pos.modAt r.positions p fun x => { x with applied := true } }
              ((modAt_other _ hip).trans hr) hrun same
            exact hnext

/-- Settles O41: by induction on the gate's fuel, a position changes only where a step of the gate passes it. -/
theorem gatePassesOnlyScreenedPositions : Obligations.GatePassesOnlyScreenedPositions := by
  unfold Obligations.GatePassesOnlyScreenedPositions
  intro t mode lag fuel p r i x y hr hrun hx hy
  exact gateRun_screened hx hy fuel p r hr hrun

/-! ## RELEASE records (03 R102) -/

/-- The answer bytes that a record carries. -/
def Rec.releaseBytes (rc : Rec) : List Byte :=
  match rc.body with
  | .release x => x.bytes
  | _ => []

theorem answerBytes_append (ps : List Pos) {a m b : Nat} (h1 : a ≤ m) (h2 : m ≤ b) :
    answerBytes ps a m ++ answerBytes ps m b = answerBytes ps a b := by
  unfold answerBytes
  have hd : (ps.flatMap (·.bytes)).drop m = ((ps.flatMap (·.bytes)).drop a).drop (m - a) := by
    rw [List.drop_drop]; congr 1; omega
  have hn : b - a = (m - a) + (b - m) := by omega
  rw [hd, hn, List.take_add]

theorem answerBytes_length_le (ps : List Pos) (a n : Nat) : (answerBytes ps a (a + n)).length ≤ n := by
  unfold answerBytes
  rw [List.length_take]
  omega

theorem releaseRecs_answer (h : W32) (ps : List Pos) (fuel a b : Nat) (hf : b - a ≤ fuel) (hab : a ≤ b) :
    (releaseRecs h ps fuel a b).flatMap Rec.releaseBytes = answerBytes ps a b
      ∧ ∀ rc ∈ releaseRecs h ps fuel a b, rc.releaseBytes.length ≤ 36 ∧ rc.handle = h := by
  have none_left : b ≤ a → answerBytes ps a b = [] := fun hb => by
    unfold answerBytes; rw [Nat.sub_eq_zero_of_le hb]; rfl
  induction fuel generalizing a with
  | zero => exact ⟨(none_left (by omega)).symm, by simp [releaseRecs]⟩
  | succ fuel ih =>
    unfold releaseRecs
    split
    next hb => exact ⟨(none_left hb).symm, by simp⟩
    next hb =>
      have hn : min 36 (b - a) ≤ 36 := Nat.min_le_left ..
      have hle : a + min 36 (b - a) ≤ b := by omega
      obtain ⟨hbytes, hrecs⟩ := ih (a + min 36 (b - a)) (by omega) hle
        (fun hb => by unfold answerBytes; rw [Nat.sub_eq_zero_of_le hb]; rfl)
      refine ⟨?_, List.forall_mem_cons.mpr ⟨⟨?_, rfl⟩, hrecs⟩⟩
      · rw [List.flatMap_cons, hbytes]
        exact answerBytes_append ps (by omega) hle
      · exact Nat.le_trans (answerBytes_length_le ps a _) hn

/-- Settles O42: by induction on the records, each carrying the next bytes of the range. -/
theorem releaseRecordsCarryTheAnswer : Obligations.ReleaseRecordsCarryTheAnswer := by
  unfold Obligations.ReleaseRecordsCarryTheAnswer
  intro h ps a b hab
  exact releaseRecs_answer h ps (b - a) a b (Nat.le_refl _) hab

end Sys2Proof.Machine
end

section
/-! SUPPORT. The version slots of a delta set and of a screen: what the steps that a cut let wait keep of them, and the
commands on them (13 R413 to R421). -/
namespace Sys2Proof.Machine
open Sys2Proof

/-! ## What an optimiser step keeps of a delta set (13 R408, R410) -/

/-- The two sets of delta sets differ at most in training: the versions, their slots and the settings are the same. -/
def SameVersions (s t : State) : Prop := ∀ d : BitVec 10,
  (dsetOf t d).staging = (dsetOf s d).staging ∧ (dsetOf t d).stagingV = (dsetOf s d).stagingV

theorem SameVersions.refl (s : State) : SameVersions s s := fun _ => ⟨rfl, rfl⟩
theorem SameVersions.trans {s t u : State} (h : SameVersions s t) (k : SameVersions t u) : SameVersions s u :=
  fun d => ⟨(k d).1.trans (h d).1, (k d).2.trans (h d).2⟩
theorem sameVersions_of_sets {s t : State} (h : t.tune.sets = s.tune.sets) : SameVersions s t := fun d => by
  unfold dsetOf; rw [h]; exact ⟨rfl, rfl⟩

theorem dsetOf_setDset_other (s : State) {d e : BitVec 10} (x : DeltaSet) (h : e ≠ d) :
    dsetOf (setDset s d x) e = dsetOf s e :=
  Tbl.get_put_other _ _ _ _ _ fun he => h (BitVec.eq_of_toNat_eq he)

theorem setDset_sameVersions {s : State} {d : BitVec 10} {x : DeltaSet} (hst : x.staging = (dsetOf s d).staging)
    (hv : x.stagingV = (dsetOf s d).stagingV) : SameVersions s (setDset s d x) := fun e => by
  by_cases he : e = d
  · subst he; rw [dsetOf_setDset]; exact ⟨hst, hv⟩
  · rw [dsetOf_setDset_other _ _ he]; exact ⟨rfl, rfl⟩

theorem foldl_sameVersions {α} (f : State → α → State) (h : ∀ s x, SameVersions s (f s x)) (l : List α) (s : State) :
    SameVersions s (l.foldl f s) := by
  induction l generalizing s with
  | nil => exact .refl s
  | cons a t ih => exact (h s a).trans (ih _)

theorem recordAt_tune (s : State) (k : Option Nat) (st : Stat) : (recordAt s k st).tune = s.tune := by
  unfold recordAt; split <;> rfl

theorem foldl_raise_tune {α} (f : State → α → State) (h : ∀ s x, (f s x).tune = s.tune) (l : List α) (s : State) :
    (l.foldl f s).tune = s.tune := by
  induction l generalizing s with
  | nil => rfl
  | cons a t ih => exact (ih _).trans (h s a)

theorem noteNumeric_tune (s : State) (e id : Nat) (n : Num) : (noteNumeric s e id n).tune = s.tune :=
  foldl_raise_tune _ (fun _ _ => raise_tune ..) _ _

theorem applyStep_sameVersions (s : State) (b : Batch) (res : BatchResult) : SameVersions s (applyStep s b res) := by
  unfold applyStep
  extract_lets
  refine (sameVersions_of_sets ?_).trans (setDset_sameVersions rfl rfl)
  rw [recordAt_tune, recordAt_tune, noteNumeric_tune]
  rfl

theorem endBatch_sameVersions (s : State) (b : Batch) : SameVersions s (endBatch s b) := sameVersions_of_sets rfl

theorem settleBatch_sameVersions (s : State) (b : Batch) (res : BatchResult) :
    SameVersions s (settleBatch s b res) := by
  unfold settleBatch
  refine SameVersions.trans ?_ (endBatch_sameVersions _ b)
  split
  · exact sameVersions_of_sets rfl
  · split
    · split
      · exact sameVersions_of_sets rfl
      · exact (applyStep_sameVersions s b res).trans (sameVersions_of_sets rfl)
    · exact (applyStep_sameVersions s b res).trans (sameVersions_of_sets rfl)

/-- The steps that waited for a cut change no version and no slot. -/
theorem releaseSteps_sameVersions (s : State) (d : BitVec 10) : SameVersions s (releaseSteps s d) := by
  unfold releaseSteps
  refine SameVersions.trans (t := setDset s d { dsetOf s d with cutWait := [] }) (setDset_sameVersions rfl rfl)
    (foldl_sameVersions _ (fun u w => ?_) _ _)
  split
  · exact settleBatch_sameVersions u _ w.2
  · exact .refl u

/-- A staging slot that is freed is empty, and holds no version. -/
theorem dsetOf_freeStaging (s : State) (d : BitVec 10) :
    (dsetOf (freeStaging s d) d).staging = .empty ∧ (dsetOf (freeStaging s d) d).stagingV = none := by
  obtain ⟨h1, h2⟩ := releaseSteps_sameVersions (setDset (dropJob s (.delta d)) d
    { dsetOf (dropJob s (.delta d)) d with staging := .empty, stagingV := none, stagingNum := 0, firstDue := false }) d d
  rw [dsetOf_setDset] at h1 h2
  exact ⟨h1, h2⟩

/-! ## Commands on a delta set (13 R414 to R416) -/

@[simp] theorem setBound_heard (s : State) (p : Path) (i : W16) (d : BitVec 10) :
    setBound (heard s p i) d = setBound s d := by unfold setBound; rw [heard_acct]

section Delta
variable {s : State} {path : Path} (h : Served s path 0x2710 2)
include h

/-- A pending publication that names the staging slot forbids the command. -/
theorem stagingCommand_pending (hp : pendingNamesStaging (dsetOf s (selectedSet s)) = true) :
    ∀ c ∈ [Instr.deltaLoad path, .deltaCut path, .dropStaging path],
      exec c s = .next (settle (abortReq (heard s path 0x2710) path abState rsInUse 0x2710 2)) := by
  have hbad : pendingNamesStaging (dsetOf (heard s path 0x2710) (selectedSet (heard s path 0x2710))) = true := by
    simpa using hp
  simp only [List.forall_mem_cons]
  exact ⟨mgmtWrite_abort (act := deltaLoad) h (if_pos hbad), mgmtWrite_abort (act := deltaCut) h (if_pos hbad),
    mgmtWrite_abort (act := dropStaging) h (if_pos hbad), List.forall_mem_nil _⟩

section Free
variable (hp : pendingNamesStaging (dsetOf s (selectedSet s)) = false)
include hp

theorem exec_deltaLoad (hv : (dsetOf s (selectedSet s)).highest.toNat < (dsetOf s (selectedSet s)).loadVersion.toNat) :
    let d := selectedSet s
    let f := freeStaging (heard s path 0x2710) d
    exec (.deltaLoad path) s = .next (settle (respond (startJob
      (setDset f d { dsetOf f d with
        staging := .loading, stagingNum := (dsetOf f d).loadVersion, highest := (dsetOf f d).loadVersion })
      (.delta d) (weightPort f) (dsetOf f d).addr (dsetOf f d).len.toNat) path 0 [])) := by
  refine mgmtWrite_ok h ?_
  unfold deltaLoad guardWrite
  simp only [selectedSet_heard, dsetOf_heard, hp, Nat.not_le.mpr hv, if_false, Bool.false_eq_true]
  rfl

theorem exec_deltaLoad_old
    (hv : (dsetOf s (selectedSet s)).loadVersion.toNat ≤ (dsetOf s (selectedSet s)).highest.toNat) :
    exec (.deltaLoad path) s = .next (settle (abortReq (heard s path 0x2710) path abRange 0 0x2710 2)) := by
  refine mgmtWrite_abort h ?_
  unfold deltaLoad guardWrite
  simp only [selectedSet_heard, dsetOf_heard, hp, hv, if_false, if_true, Bool.false_eq_true]

theorem exec_deltaCut (hst : (dsetOf s (selectedSet s)).staging ≠ .loading) :
    exec (.deltaCut path) s
      = .next (settle (respond (startCut (heard s path 0x2710) (selectedSet s)) path 0 [])) := by
  refine mgmtWrite_ok h ?_
  unfold deltaCut guardWrite
  simp [hp, hst]

theorem exec_dropStaging (hst : (dsetOf s (selectedSet s)).staging ≠ .empty) :
    let f := freeStaging (heard s path 0x2710) (selectedSet s)
    exec (.dropStaging path) s = .next (settle (respond
      (setDset f (selectedSet s) { dsetOf f (selectedSet s) with last := 1 }) path 0 [])) := by
  refine mgmtWrite_ok h ?_
  unfold dropStaging guardWrite
  simp [hp, hst]

end Free

theorem exec_deltaDelete_used (hu : setBound s (selectedSet s) = true ∨ (dsetOf s (selectedSet s)).tuning = 1) :
    exec (.deltaDelete path) s = .next (settle (abortReq (heard s path 0x2710) path abState rsInUse 0x2710 2)) := by
  refine mgmtWrite_abort h (if_pos ?_)
  simpa using hu

/-- A DELETE of a set that is neither bound nor tuned leaves it empty of versions and of training. -/
theorem exec_deltaDelete (hb : setBound s (selectedSet s) = false) (ht : (dsetOf s (selectedSet s)).tuning ≠ 1) :
    ∃ t, exec (.deltaDelete path) s = .next (settle (respond t path 0 []))
      ∧ ∃ (u : State) (held : List DVersion), dsetOf t (selectedSet s)
          = { dsetOf (freeStaging u (selectedSet s)) (selectedSet s) with
          current := none, previous := none, pending := none, master := [], moment1 := [], moment2 := [], steps := 0
          stepsSinceCut := false, cutTicks := 0, autoCut := 0, autoPublish := 0, last := 1, held := held } := by
  have hfree : (setBound (heard s path 0x2710) (selectedSet (heard s path 0x2710))
      || (dsetOf (heard s path 0x2710) (selectedSet (heard s path 0x2710))).tuning == 1) = false := by
    simpa [hb] using ht
  refine ⟨_, mgmtWrite_ok h (if_neg (ne_true_of_eq_false hfree)), ?_⟩
  rw [selectedSet_heard]
  exact ⟨_, _, dsetOf_setDset ..⟩

end Delta

/-! ## Commands on the other slot of a screen (13 R420, R421) -/

@[simp] theorem otherUsed_heard (s : State) (p : Path) (i : W16) (b : BitVec 10) :
    otherUsed (heard s p i) b = otherUsed s b := by cases p <;> rfl

@[simp] theorem weightPort_setScreen (s : State) (b : BitVec 10) (x : Screen) :
    weightPort (setScreen s b x) = weightPort s := rfl

section Backbone
variable {s : State} {path : Path} (h : Served s path 0x2720 2) (hu : otherUsed s (selectedScreen s) = false)
include h hu

theorem exec_backboneLoad (ho : (screenOf s (selectedScreen s)).other ≠ .loading)
    (hv : (screenOf s (selectedScreen s)).highest.toNat < (screenOf s (selectedScreen s)).loadVersion.toNat) :
    let b := selectedScreen s
    let x := screenOf s b
    exec (.backboneLoad path) s = .next (settle (respond (startJob
      (setScreen (heard s path 0x2720) b { x with
        other := .loading, otherV := x.loadVersion, highest := x.loadVersion, otherLen := x.len.toNat, otherImage := []
        firstDue := false })
      (.backbone b) (weightPort s) x.addr x.len.toNat) path 0 [])) := by
  refine mgmtWrite_ok h ?_
  unfold backboneLoad guardWrite
  simp [hu, ho, Nat.not_le.mpr hv]

theorem exec_backboneLoad_loading (ho : (screenOf s (selectedScreen s)).other = .loading) :
    exec (.backboneLoad path) s = .next (settle (abortReq (heard s path 0x2720) path abState rsBusy 0x2720 2)) := by
  refine mgmtWrite_abort h ?_
  unfold backboneLoad guardWrite
  simp [hu, ho]

theorem exec_dropOther : exec (.dropOther path) s
    = .next (settle (respond (freeOther (heard s path 0x2720) (selectedScreen s)) path 0 [])) := by
  refine mgmtWrite_ok h ?_
  unfold dropOther guardWrite
  simp [hu]

end Backbone

/-- Settles O49: each command is judged in the state that heard it; a deleted set keeps an empty staging slot through
the steps that its cut let wait. -/
theorem versionCommands : Obligations.VersionCommands := by
  unfold Obligations.VersionCommands
  intro path s
  refine ⟨fun h => ⟨stagingCommand_pending h, fun hp => ⟨exec_deltaLoad h hp, exec_deltaLoad_old h hp, exec_deltaCut h hp,
    exec_dropStaging h hp⟩, exec_deltaDelete_used h, fun hb ht => ?_⟩,
    fun h hu => ⟨exec_backboneLoad h hu, exec_backboneLoad_loading h hu, exec_dropOther h hu⟩⟩
  obtain ⟨t, hexec, u, held, hset⟩ := exec_deltaDelete h hb ht
  obtain ⟨hst, hv⟩ := dsetOf_freeStaging u (selectedSet s)
  refine ⟨t, hexec, ?_⟩
  rw [hset]
  exact ⟨rfl, rfl, hst, hv, rfl, rfl, rfl, rfl, rfl, rfl, rfl⟩

end Sys2Proof.Machine
end

section
/-! SUPPORT. The block as a whole: a command in front of the queue, an ac with an empty one, and the machine right after
reset (02 R31; 16 R476; log 1). -/
namespace Sys2Proof.Machine
open Sys2Proof

/-! ## Reset -/

/-- Settles O1: the front command runs on the state whose queue is the rest. -/
theorem stepRunsTheFrontCommand : Obligations.StepRunsTheFrontCommand := fun _ _ => rfl

/-- Settles O3: every value is the default of its register. -/
theorem resetValues : Obligations.ResetValues := by
  unfold Obligations.ResetValues
  exact ⟨rfl, rfl, rfl, rfl, rfl, rfl, rfl, rfl, rfl, rfl, fun _ => ⟨rfl, rfl⟩, fun _ => ⟨rfl, rfl⟩, fun _ => rfl,
    fun _ => ⟨rfl, rfl⟩, rfl, rfl, rfl, rfl, rfl⟩

/-- Settles O4: the error register of the reset state is 0, its default. -/
theorem resetIsSettled : Obligations.ResetIsSettled := ⟨rfl, rfl, rfl, rfl⟩

/-! ## An ac with nothing to do -/

theorem runWakes_idle {s : State} (h : s.req.wakes = []) : runWakes s = s := by
  unfold runWakes
  rw [h]
  rfl

theorem report_idle {s : State} (h : Reported s) : report s = s := by
  obtain ⟨-, hcycle, hreg⟩ := h
  unfold report
  rw [hcycle, List.foldl_nil]
  have hs : ({ s with err := { s.err with cycle := [] } } : State) = s := by rw [← hcycle]
  rw [hs]
  exact if_pos hreg.symm

theorem grantSearch_idle {s : State} (h : s.mortise.waiting = []) : grantSearch s = s := by
  unfold grantSearch
  dsimp only
  rw [h]
  exact ite_id _

theorem bulkCycle_idle {s : State} (h : s.mortise.bulkStep = none) : bulkCycle s = s := by
  unfold bulkCycle
  rw [h]

/-- A port with nothing to send is left as it is. -/
theorem pumpPort_idle {v : Port} (w : Bool) (now : Nat) (hw : v.waiting = []) (hr : v.readsWaiting = []) :
    pumpPort w now v = v := by
  have hone : pumpOne w now v = v := by
    have hwrite : askWrite v = none := by unfold askWrite; rw [hw]; exact ite_id _
    have hread : askRead w v = none := by unfold askRead; rw [hr]; cases w <;> exact ite_id _
    unfold pumpOne
    rw [hwrite, hread]
    exact ite_id _
  unfold pumpPort
  rw [hone, hone]

/-- Nothing but the record of the ports has moved, and no port in it. -/
def PortsAlone (s t : State) : Prop := Frame [.ports] s t ∧ ∀ p, portOf t p = portOf s p

theorem portOf_modPort_id {s : State} {p : Fin 8} {f : Port → Port} (h : f (portOf s p) = portOf s p) (q : Fin 8) :
    portOf (modPort s p f) q = portOf s q := by
  by_cases hq : q = p
  · subst hq; rw [portOf_modPort, h]
  · exact portOf_modPort_other _ _ _ _ hq

theorem foldl_pumpAt_idle (l : List Nat) {s : State}
    (h : ∀ p, (portOf s p).waiting = [] ∧ (portOf s p).readsWaiting = []) :
    PortsAlone s (l.foldl (fun s p => pumpAt s (Fin.ofNat 8 p)) s) := by
  induction l generalizing s with
  | nil => exact ⟨fun p _ => by cases p <;> rfl, fun _ => rfl⟩
  | cons n l ih =>
    have hpump : ∀ p, portOf (pumpAt s (Fin.ofNat 8 n)) p = portOf s p :=
      portOf_modPort_id (pumpPort_idle _ _ (h _).1 (h _).2)
    obtain ⟨hframe, hports⟩ := ih (s := pumpAt s (Fin.ofNat 8 n)) (fun p => by rw [hpump]; exact h p)
    exact ⟨(frame_of_copied rfl).trans hframe, fun p => (hports p).trans (hpump p)⟩

section Idle
variable {s : State} (hwakes : s.req.wakes = []) (hwaiting : s.mortise.waiting = []) (hbulk : s.mortise.bulkStep = none)
  (hreported : Reported s) (hports : ∀ p, (portOf s p).waiting = [] ∧ (portOf s p).readsWaiting = [])
include hwakes hwaiting hbulk hreported hports

/-- With nothing due, an ac moves the time bases, and the ports by nothing. -/
theorem acTick_idle : Frame [.time, .ports] s (acTick s) ∧ ∀ p, portOf (acTick s) p = portOf s p := by
  obtain ⟨x, hx, -⟩ := timeCycle_eq s
  have hreport : report (settle (if coreRuns { s with time := x } then runWakes { s with time := x }
      else { s with time := x })) = { s with time := x } := by
    have hrun : (if coreRuns { s with time := x } then runWakes { s with time := x } else { s with time := x })
        = ({ s with time := x } : State) := by
      split
      · exact runWakes_idle hwakes
      · rfl
    rw [hrun, settle_eq (s := { s with time := x }) hreported.1]
    exact report_idle (s := { s with time := x }) hreported
  unfold acTick
  rw [hx]
  dsimp only
  rw [hreport]
  split
  next =>
    rw [grantSearch_idle (s := { s with time := { x with now := x.now + 1 } }) hwaiting,
      bulkCycle_idle (s := { s with time := { x with now := x.now + 1 } }) hbulk]
    obtain ⟨hframe, hsame⟩ := foldl_pumpAt_idle (s := { s with time := { x with now := x.now + 1 } }) (List.range 8) hports
    exact ⟨(frame_of_copied rfl).trans (hframe.mono (by simp)), hsame⟩
  next => exact ⟨frame_of_copied rfl, fun _ => rfl⟩

end Idle

/-- The end of an idle step changes the errors' order alone. -/
theorem step_idle {s : State} (h : s.pending = []) : step s = .next (settle (acTick s)) := by
  unfold step; rw [h]; rfl

/-- Settles O2: the ac keeps what `acTick_kept` says; with nothing due it leaves nothing to put in order. -/
theorem idleStepIsOneCycle : Obligations.IdleStepIsOneCycle := by
  unfold Obligations.IdleStepIsOneCycle
  intro s hpending
  refine ⟨_, step_idle hpending, (settle_kept _).trans (acTick_kept s),
    fun hwakes hwaiting hbulk hreported hports => ?_⟩
  obtain ⟨hframe, hsame⟩ := acTick_idle hwakes hwaiting hbulk hreported hports
  have hsettled : (acTick s).err.raised = [] := by
    rw [show (acTick s).err = s.err from hframe .err (by decide)]
    exact hreported.1
  rw [settle_eq hsettled]
  exact ⟨hframe, hsame⟩

end Sys2Proof.Machine
end

section
/-! SUPPORT. The supply, the resets, the sensors, the clocks and the TAP (18 R525 to R539; 19 R554). -/
namespace Sys2Proof.Machine
open Sys2Proof

/-! ## Power states and resets (18 R533, R534, R539) -/

theorem exec_resetRelease {s : State} (lvl : Bool) (hpins : s.pwr.porst = true ∨ s.pwr.hrst = true)
    (hp : s.pwr.power = .reset) (hr : s.pwr.railsGood = true) :
    exec (.resetRelease lvl) s = .next { s with
      tick := { s.tick with refLevel := lvl }
      pwr := { s.pwr with porst := false, hrst := false, power := .active } } :=
  (if_neg (by rcases hpins with h | h <;> simp [h])).trans (if_pos ⟨hp, hr⟩)

/-- Settles O10: each command acts in the power state that it ends. -/
theorem powerUpStates : Obligations.PowerUpStates := by
  unfold Obligations.PowerUpStates
  exact ⟨fun s hp => if_pos hp, fun s hp => if_pos hp, fun lvl s => exec_resetRelease lvl,
    fun s hp hi hporst hhrst => if_pos ⟨hp, hi, by simp [hporst], by simp [hhrst]⟩⟩

/-- Settles O11: in RESET and ACTIVE the resets clear everything that they do not name. -/
theorem resetsClear : Obligations.ResetsClear := by
  unfold Obligations.ResetsClear
  refine ⟨fun s hp => ?_, fun s hp => ⟨errorRegister { clearAll s with
    pwr := { s.pwr with power := .reset, hrst := true, holdInternal := false, alertAt := 9500 }
    sensed := { dbgLock := s.sensed.dbgLock, byPorst := s.sensed.byPorst && s.pwr.porst } }, ?_⟩⟩
  · show execPowerOnReset s = _
    unfold execPowerOnReset
    rcases hp with hp | hp <;> rw [hp] <;> rfl
  · show execHostReset s = _
    unfold execHostReset
    rcases hp with hp | hp <;> rw [hp] <;> rfl

/-! ## Supply lockout (18 R531; 19 R550) -/

/-- What a lockout leaves, `u` being the state whose raise the supply has cut. -/
def locked (s u : State) : State := { ({} : State) with
  pending := s.pending, fuse := u.fuse, time := { freeIdx := u.time.freeIdx }, sensed := { dbgLock := s.fuse.dbgLock }
  pwr := { power := .off, porst := s.pwr.porst, hrst := s.pwr.hrst, railsGood := false, stopped := s.pwr.stopped } }

theorem lockout_powered {s : State} (h : s.pwr.power ≠ .off) : lockout s = locked s (cutRaise s) := by
  unfold lockout
  rw [if_neg h]
  obtain ⟨lilen, tile, idx, hcut⟩ := cutRaise_eq s
  rw [hcut]
  rfl

theorem exec_supplyLockout_range {mV : W32} {s : State} (hout : mV.toNat < 38000 ∨ 52000 < mV.toNat)
    (hmax : mV.toNat ≤ 60000) (hp : s.pwr.power ≠ .off) :
    exec (.supplyLockout mV) s = .next (locked s (cutRaise s)) := by
  rw [← lockout_powered hp]
  exact (if_neg (Nat.not_lt.mpr hmax)).trans (if_pos hout)

theorem exec_supplyLockout_absolute {mV : W32} {s : State} (hmax : 60000 < mV.toNat) (hp : s.pwr.power ≠ .off) :
    exec (.supplyLockout mV) s = if Config.freeBit s.time.freeIdx then .fault .absoluteMaximum else
      .next (locked s (cutRaise { s with time := { s.time with freeIdx := s.time.freeIdx + 1 } })) := by
  have hlock : lockout (takeBit s).2 = locked s (cutRaise (takeBit s).2) := lockout_powered (s := (takeBit s).2) hp
  refine (if_pos hmax).trans ?_
  show (if _ then _ else Host.Outcome.next (lockout (takeBit s).2)) = _
  rw [hlock]
  rfl

/-- A raise that has ended is not cut. -/
theorem cutRaise_ended {s : State}
    (h : (s.boot.raisedL = false ∧ s.boot.raisedT = false) ∨ s.boot.raisedAt + 2000000 ≤ s.time.now) : cutRaise s = s := by
  refine if_neg ?_
  rcases h with ⟨hl, ht⟩ | h
  · simp [hl, ht]
  · simp only [Bool.and_eq_true, decide_eq_true_eq, not_and, Nat.not_lt]
    exact fun _ => h

/-- A cut raise spoils at most the entry being programmed of a table that was raised, and no other fuse. -/
theorem cutRaise_fuse (s : State) :
    ((cutRaise s).fuse.lilenFloors = s.fuse.lilenFloors
      ∨ s.boot.raisedL = true ∧ (cutRaise s).fuse.lilenFloors = spoilLast s.fuse.lilenFloors)
    ∧ ((cutRaise s).fuse.tileFloors = s.fuse.tileFloors
      ∨ s.boot.raisedT = true ∧ (cutRaise s).fuse.tileFloors = spoilLast s.fuse.tileFloors)
    ∧ (cutRaise s).fuse.uds = s.fuse.uds ∧ (cutRaise s).fuse.keyHash = s.fuse.keyHash
    ∧ (cutRaise s).fuse.dbgLock = s.fuse.dbgLock := by
  have hspoil : ∀ {α} (raised bit : Bool) (l : List (α × Bool)),
      (if raised && bit then spoilLast l else l) = l
        ∨ raised = true ∧ (if raised && bit then spoilLast l else l) = spoilLast l := by
    intro α raised bit l
    cases raised <;> cases bit <;> simp
  unfold cutRaise
  split
  · exact ⟨hspoil .., hspoil .., rfl, rfl, rfl⟩
  · exact ⟨.inl rfl, .inl rfl, rfl, rfl, rfl⟩

/-- Settles O12: a lockout leaves what `locked` says of the state whose raise was cut. -/
theorem lockoutLosesAllButFuses : Obligations.LockoutLosesAllButFuses := by
  unfold Obligations.LockoutLosesAllButFuses
  exact ⟨fun mV s => exec_supplyLockout_range, fun mV s => exec_supplyLockout_absolute, fun s => cutRaise_ended,
    cutRaise_fuse⟩

/-! ## The supply's samples (18 R531; 17 R503) -/

/-- The power state after a sample of the supply. -/
def supplied (p : PowerState) (mV : W16) (mA : W32) : PowerState :=
  { p with
    voltage := mV, current := mA, power_mW := BitVec.ofNat 32 (mV.toNat * mA.toNat / 1000)
    overVolt := if p.overVolt then decide (mV.toNat < 40500 ∨ 47500 < mV.toNat)
      else decide (mV.toNat < 40000 ∨ 48000 < mV.toNat)
    overCurr := if p.overCurr then decide (18500 < mA.toNat) else decide (19000 < mA.toNat) }

/-- The entry to a range is reported, at the unit of power control. -/
def rangeReport (s : State) (entered : Bool) (mV : W16) (mA : W32) : State :=
  raiseIf entered s .supplyRange (stackPlace s 10 0) mV.toNat mA.toNat

theorem exec_supplySample {s : State} (h : sensorsRun s = true) (mV : W16) (mA : W32) :
    exec (.supplySample mV mA) s = .next (settle (rangeReport
      (rangeReport { s with pwr := supplied s.pwr mV mA } ((supplied s.pwr mV mA).overVolt && !s.pwr.overVolt) mV mA)
      ((supplied s.pwr mV mA).overCurr && !s.pwr.overCurr) mV mA)) :=
  if_neg (by simp [h])

theorem rangeReport_err_only (s : State) (entered : Bool) (mV : W16) (mA : W32) :
    ∃ e, rangeReport s entered mV mA = { s with err := e } := by
  unfold rangeReport raiseIf
  split
  · exact ⟨_, rfl⟩
  · exact ⟨s.err, rfl⟩

theorem rangeReport_not (s : State) (mV : W16) (mA : W32) : rangeReport s false mV mA = s := rfl

theorem rangeReport_entered {s : State} (h : s.pwr.power = .active) (mV : W16) (mA : W32) :
    rangeReport s true mV mA = raise s .supplyRange (stackPlace s 10 0) mV.toNat mA.toNat :=
  if_pos (by simp [h])

section Sample
variable {s : State} (h : sensorsRun s = true) (mV : W16) (mA : W32)
include h

/-- A sample changes the power state, as `supplied` says, and the errors. -/
theorem exec_supplySample_pwr : ∃ e, exec (.supplySample mV mA) s
    = .next (settle { s with pwr := supplied s.pwr mV mA, err := e }) := by
  obtain ⟨e, he⟩ := rangeReport_err_only { s with pwr := supplied s.pwr mV mA }
    ((supplied s.pwr mV mA).overVolt && !s.pwr.overVolt) mV mA
  obtain ⟨e', he'⟩ := rangeReport_err_only { s with pwr := supplied s.pwr mV mA, err := e }
    ((supplied s.pwr mV mA).overCurr && !s.pwr.overCurr) mV mA
  exact ⟨e', by rw [exec_supplySample h, he, he']⟩

variable {mV mA} (hc : s.pwr.overCurr = false) (hmA : mA.toNat ≤ 19000)
include hc hmA

/-- With the current in range a sample sets the voltage's range alone, and reports its entry. -/
theorem exec_supplySample_current_ok {v : Bool} (hv : (supplied s.pwr mV mA).overVolt = v) :
    exec (.supplySample mV mA) s = .next (settle (rangeReport { s with pwr := { s.pwr with
      voltage := mV, current := mA, power_mW := BitVec.ofNat 32 (mV.toNat * mA.toNat / 1000), overVolt := v
      overCurr := false } } (v && !s.pwr.overVolt) mV mA)) := by
  have hcurr : (supplied s.pwr mV mA).overCurr = false := by
    simp only [supplied, hc]
    simpa using hmA
  have hpwr : supplied s.pwr mV mA = { s.pwr with
      voltage := mV, current := mA, power_mW := BitVec.ofNat 32 (mV.toNat * mA.toNat / 1000)
      overVolt := (supplied s.pwr mV mA).overVolt, overCurr := (supplied s.pwr mV mA).overCurr } := rfl
  rw [hv, hcurr] at hpwr
  rw [exec_supplySample h, hv, hcurr, Bool.false_and, rangeReport_not, hpwr]

end Sample

/-- Settles O13: the power state is `supplied`, and the entry to the voltage's range is reported. -/
theorem supplySample : Obligations.SupplySample := by
  unfold Obligations.SupplySample
  intro mV mA s
  refine ⟨fun h => if_pos (by simp [h]), fun h => ?_, fun h hactive hc => ⟨fun hv hlow hhigh hmA => ?_,
    fun hv hlow hmA => ?_, fun hv hlow hmA => ?_⟩⟩
  · obtain ⟨e, he⟩ := exec_supplySample_pwr h mV mA
    exact ⟨_, he, rfl, frame_of_copied rfl⟩
  · have hrange : (supplied s.pwr mV mA).overVolt = false := by simp only [supplied, hv]; simp; omega
    rw [exec_supplySample_current_ok h hc hmA hrange, Bool.false_and, rangeReport_not]
  · have hrange : (supplied s.pwr mV mA).overVolt = true := by simp only [supplied, hv]; simp; omega
    rw [exec_supplySample_current_ok h hc hmA hrange, hv]
    exact congrArg (fun u => Host.Outcome.next (settle u)) (rangeReport_entered (s := { s with pwr := { s.pwr with
      voltage := mV, current := mA, power_mW := BitVec.ofNat 32 (mV.toNat * mA.toNat / 1000), overVolt := true
      overCurr := false } }) hactive mV mA)
  · have hrange : (supplied s.pwr mV mA).overVolt = true := by simp only [supplied, hv]; simp; omega
    rw [exec_supplySample_current_ok h hc hmA hrange, hv, Bool.not_true, Bool.and_false, rangeReport_not]

/-! ## Clocks and droops (18 R525, R526) -/

/-- Settles O15: each event acts where its clock stands or its quadrant droops. -/
theorem clocksAndDroops : Obligations.ClocksAndDroops := by
  unfold Obligations.ClocksAndDroops
  refine ⟨fun c s h => if_neg (ne_true_of_eq_false h), fun c s h => ⟨_, if_pos h, rfl, rfl, rfl, rfl⟩,
    fun q s hp hq => if_pos ⟨hp, ne_true_of_eq_false hq⟩, fun q s => rfl,
    fun q s hrun hq => if_pos (Bool.and_eq_true_iff.mpr ⟨hrun, hq⟩)⟩

/-! ## TAP (19 R554) -/

/-- An instruction that debugging is for acts with DBG_LOCK sensed 0. -/
theorem tapDebug_unlocked {s : State} (hl : s.sensed.dbgLock = false) (code : Byte) :
    tapDebug s code true = { s with tap := { s.tap with
      ir := code, register := code, halted := code == 0x14, debugged := true } } := by
  unfold tapDebug tapSelect
  simp [hl]

/-- With DBG_LOCK sensed 1 it selects the bypass register and nothing else. -/
theorem tapDebug_locked {s : State} (hl : s.sensed.dbgLock = true) (code : Byte) (acts : Bool) :
    tapDebug s code acts = { s with tap := { s.tap with ir := code, register := 0xFF, halted := false } } := by
  unfold tapDebug tapSelect
  simp [hl]

theorem tapPowered_of {s : State} (h : s.pwr.power = .reset ∨ s.pwr.power = .active) : tapPowered s = true := by
  unfold tapPowered
  rcases h with h | h <;> simp [h]

/-- What a locked instruction leaves: the bypass register, DEBUGGED as it was, nothing halted and nothing else changed. -/
def Bypassed (s t : State) : Prop := t.tap.register = 0xFF ∧ t.tap.debugged = s.tap.debugged ∧ t.tap.halted = false
  ∧ t.fuse = s.fuse ∧ Frame [.tap] s t

theorem bypassed_select (s : State) (code : Byte) :
    Bypassed s { s with tap := { s.tap with ir := code, register := 0xFF, halted := false } } :=
  ⟨rfl, rfl, rfl, rfl, frame_of_copied rfl⟩

/-- What MBIST does at a powered TAP. -/
def mbistSelect (s : State) : State :=
  if s.pwr.porst && !s.sensed.dbgLock then
    { tapDebug s 0x12 s.pwr.porst with tap := { (tapDebug s 0x12 s.pwr.porst).tap with mbistRun := true } }
  else tapDebug s 0x12 s.pwr.porst

/-- What LOCK_DEBUG does at a powered TAP. -/
def lockSelect (s : State) : State :=
  if !s.sensed.dbgLock then
    { tapSelect s 0x20 (!s.sensed.dbgLock) with
      fuse := { (tapSelect s 0x20 (!s.sensed.dbgLock)).fuse with dbgLock := true } }
  else tapSelect s 0x20 (!s.sensed.dbgLock)

section Instructions
variable {s : State}

theorem exec_tapReset : exec .tapReset s = whenPowered s fun s => { s with tap := {
    debugged := s.tap.debugged, mbistRun := s.tap.mbistRun, idcode := s.tap.idcode } } := rfl
theorem exec_extest : exec .extest s = whenPowered s fun s => tapSelect s 0x00 s.pwr.porst := rfl
theorem exec_samplePreload : exec .samplePreload s = whenPowered s fun s => tapSelect s 0x01 true := rfl
theorem exec_idcode : exec .idcode s = whenPowered s fun s =>
    { tapSelect s 0x02 true with tap := { (tapSelect s 0x02 true).tap with idcode := 0xB0B5214B } } := rfl
theorem exec_bypass : exec .bypass s = whenPowered s fun s => tapSelect s 0xFF false := rfl
theorem exec_stackSelect : exec .stackSelect s = whenPowered s fun s => tapDebug s 0x10 s.pwr.porst := rfl
theorem exec_wrapper : exec .wrapper s = whenPowered s fun s => tapDebug s 0x11 s.pwr.porst := rfl
theorem exec_mbist : exec .mbist s = whenPowered s mbistSelect := rfl
theorem exec_scanDump : exec .scanDump s = whenPowered s fun s => tapDebug s 0x13 s.pwr.porst := rfl
theorem exec_debugAccess : exec .debugAccess s = whenPowered s fun s => tapDebug s 0x14 true := rfl
theorem exec_lockDebug_eq : exec .lockDebug s = whenPowered s lockSelect := rfl

end Instructions

section Tap
variable {s : State} (hp : s.pwr.power = .reset ∨ s.pwr.power = .active)
include hp

/-- An instruction of a powered TAP acts. -/
theorem exec_powered {c : Instr} {f : State → State} (hc : exec c s = whenPowered s f) : exec c s = .next (f s) :=
  hc.trans (if_pos (tapPowered_of hp))

/-- The debug instructions of a TAP with DBG_LOCK sensed 0, those that need PORST_N while it is asserted. -/
theorem exec_debug_unlocked (hl : s.sensed.dbgLock = false) (hporst : s.pwr.porst = true) :
    exec .stackSelect s = .next { s with tap := { s.tap with ir := 0x10, register := 0x10, halted := false, debugged := true } }
    ∧ exec .wrapper s = .next { s with tap := { s.tap with ir := 0x11, register := 0x11, halted := false, debugged := true } }
    ∧ exec .mbist s = .next { s with tap := { s.tap with
        ir := 0x12, register := 0x12, halted := false, debugged := true, mbistRun := true } }
    ∧ exec .scanDump s = .next { s with tap := { s.tap with
        ir := 0x13, register := 0x13, halted := false, debugged := true } } := by
  have hacts (code : Byte) : tapDebug s code s.pwr.porst = { s with tap := { s.tap with
      ir := code, register := code, halted := code == 0x14, debugged := true } } := by
    rw [hporst, tapDebug_unlocked hl]
  have hrun : (s.pwr.porst && !s.sensed.dbgLock) = true := by simp [hporst, hl]
  refine ⟨(exec_powered hp exec_stackSelect).trans (congrArg _ (hacts 0x10)),
    (exec_powered hp exec_wrapper).trans (congrArg _ (hacts 0x11)), ?_,
    (exec_powered hp exec_scanDump).trans (congrArg _ (hacts 0x13))⟩
  rw [exec_powered hp exec_mbist, mbistSelect, if_pos hrun, hacts]
  rfl

/-- DEBUG_ACCESS and LOCK_DEBUG need DBG_LOCK sensed 0 alone. -/
theorem exec_access_unlocked (hl : s.sensed.dbgLock = false) :
    exec .debugAccess s = .next { s with tap := { s.tap with ir := 0x14, register := 0x14, halted := true, debugged := true } }
    ∧ exec .lockDebug s = .next { s with
        tap := { s.tap with ir := 0x20, register := 0x20, halted := false }, fuse := { s.fuse with dbgLock := true } } := by
  refine ⟨(exec_powered hp exec_debugAccess).trans (congrArg _ (tapDebug_unlocked hl 0x14)), ?_⟩
  rw [exec_powered hp exec_lockDebug_eq, lockSelect, hl]
  rfl

theorem exec_debug_locked (hl : s.sensed.dbgLock = true) :
    ∀ c ∈ [Instr.stackSelect, .wrapper, .mbist, .scanDump, .debugAccess, .lockDebug],
      ∃ t, exec c s = .next t ∧ Bypassed s t := by
  have hbypass (code : Byte) (acts : Bool) : Bypassed s (tapDebug s code acts) :=
    tapDebug_locked hl code acts ▸ bypassed_select s code
  have hmbist : mbistSelect s = tapDebug s 0x12 s.pwr.porst := if_neg (by simp [hl])
  have hlock : Bypassed s (lockSelect s) := by
    rw [lockSelect, hl]
    exact bypassed_select s 0x20
  simp only [List.forall_mem_cons]
  exact ⟨⟨_, exec_powered hp exec_stackSelect, hbypass 0x10 _⟩, ⟨_, exec_powered hp exec_wrapper, hbypass 0x11 _⟩,
    ⟨_, exec_powered hp exec_mbist, hmbist ▸ hbypass 0x12 _⟩, ⟨_, exec_powered hp exec_scanDump, hbypass 0x13 _⟩,
    ⟨_, exec_powered hp exec_debugAccess, hbypass 0x14 _⟩, ⟨_, exec_powered hp exec_lockDebug_eq, hlock⟩,
    List.forall_mem_nil _⟩

end Tap

/-- Settles O16: each instruction selects its register, and the debug instructions act where DBG_LOCK is sensed 0. -/
theorem tapInstructions : Obligations.TapInstructions := by
  unfold Obligations.TapInstructions
  intro s hp
  have hextest : tapSelect s 0x00 s.pwr.porst = { s with tap := { s.tap with
      ir := 0x00, register := if s.pwr.porst then 0x00 else 0xFF, halted := false } } := by
    unfold tapSelect
    simp
  exact ⟨exec_powered hp exec_tapReset, exec_powered hp exec_samplePreload, exec_powered hp exec_idcode,
    exec_powered hp exec_bypass, (exec_powered hp exec_extest).trans (congrArg _ hextest),
    exec_debug_unlocked hp, exec_access_unlocked hp, exec_debug_locked hp⟩

end Sys2Proof.Machine
end

section
/-! SUPPORT. Start-up (19): each step leads to the next, and what fails is reported. -/
namespace Sys2Proof.Machine
open Sys2Proof

/-- Records raised one after another join those of the cycle in that order. -/
theorem foldl_raiseRec {α : Type} (f : State → α → Raised) (hf : ∀ u e x, f { u with err := e } x = f u x) (xs : List α)
    (s : State) : xs.foldl (fun u x => raiseRec u (f u x)) s
      = { s with err := { s.err with raised := s.err.raised ++ xs.map (f s) } } := by
  induction xs generalizing s with
  | nil => simp
  | cons x xs ih =>
    rw [List.foldl_cons, ih]
    have hmap : xs.map (f (raiseRec s (f s x))) = xs.map (f s) := List.map_congr_left fun y _ => hf s _ y
    rw [hmap]
    unfold raiseRec
    simp

/-! ## The first steps (19 R542) -/

/-- What FUSE_SENSE_DONE leaves sensed and where bring-up stands, but for the reports. -/
def fusesSensed (s : State) (k : FuseCheck) : State :=
  { s with
    sensed := { dbgLock := if s.sensed.byPorst then s.fuse.dbgLock && !k.lockBad else s.sensed.dbgLock
                serial := if k.serialBad then 0 else s.fuse.serial, udsBad := k.udsBad, byPorst := false }
    boot := { s.boot with step := .pll, stopAfterPll := k.udsBad || k.keyBad } }

/-- A bad UDS and a bad key hash are reported, each at the unit of the fuses. -/
def fuseReport (bad : Bool) (s : State) : State := if bad then raise s .eccUncorrected (stackPlace s 8 0) else s

theorem fuseReport_err_only (bad : Bool) (s : State) : ∃ e, fuseReport bad s = { s with err := e } := by
  cases bad
  · exact ⟨s.err, rfl⟩
  · exact ⟨_, rfl⟩

theorem exec_fuseSenseDone {s : State} (h : bootAt s .fuseSense = true) (k : FuseCheck) :
    exec (.fuseSenseDone k) s = .next (settle (fuseReport k.keyBad (fuseReport k.udsBad (fusesSensed s k)))) :=
  if_neg (by simp [h])

theorem fuseSense_boot {k : FuseCheck} {s : State} (h : bootAt s .fuseSense = true) (hbad : k.udsBad = true ∨ k.keyBad = true) :
    ∃ t, exec (.fuseSenseDone k) s = .next t ∧ t.boot = { s.boot with step := .pll, stopAfterPll := true }
      ∧ t.sensed.udsBad = k.udsBad ∧ t.fuse = s.fuse := by
  obtain ⟨e, he⟩ := fuseReport_err_only k.udsBad (fusesSensed s k)
  obtain ⟨e', he'⟩ := fuseReport_err_only k.keyBad { fusesSensed s k with err := e }
  have hstop : (k.udsBad || k.keyBad) = true := (Bool.or_eq_true ..).mpr hbad
  rw [exec_fuseSenseDone h, he, he']
  exact ⟨_, rfl, congrArg (fun b => { s.boot with step := .pll, stopAfterPll := b }) hstop, rfl, rfl⟩

theorem hbmTraining_failed {failed : BitVec 4} {s : State} (hr : coreRuns s = true) (hb : bootAt s .hbm = true)
    (hf : failed ≠ 0) :
    ∃ t, exec (.hbmTrainingDone failed) s = .next (settle t) ∧ t.boot = { s.boot with step := .halted }
      ∧ t.err = { s.err with raised := s.err.raised ++ ([0, 1, 2, 3].filter fun i => failed.getLsbD i).map fun i =>
          { code := .hbmUncorrected, place := stackPlace s 4 i } }
      ∧ Frame [.boot, .err] s t := by
  have hfold := foldl_raiseRec (fun u i => { code := .hbmUncorrected, place := stackPlace u 4 i }) (fun _ _ _ => rfl)
    ([0, 1, 2, 3].filter fun i => failed.getLsbD i) (setBoot s .halted)
  exact ⟨_, (if_neg (by simp [hr, hb])).trans ((if_neg hf).trans
    (congrArg (fun u => Host.Outcome.next (settle u)) hfold)), rfl, rfl, frame_of_copied rfl⟩

theorem selfTest_done {fs : List DetErr} {s : State} (hr : coreRuns s = true) (hb : bootAt s .selfTest = true) :
    ∃ t, exec (.selfTestDone fs) s = .next (settle t) ∧ t.boot = { s.boot with step := .deviceId }
      ∧ t.err = { s.err with raised := s.err.raised
          ++ (fs.filter fun e => e.code == .eccUncorrected || e.code == .parity).map fun e =>
            { code := e.code, place := placeOf s e.place, argA := e.argA, argB := e.argB } }
      ∧ Frame [.boot, .err] s t := by
  have hplace (u : State) (e : ErrState) (x : ErrAt) : placeOf { u with err := e } x = placeOf u x := by cases x <;> rfl
  have hfold := foldl_raiseRec (fun u (e : DetErr) =>
      { code := e.code, place := placeOf u e.place, argA := e.argA, argB := e.argB }) (fun u e x => by simp only [hplace])
    (fs.filter fun e => e.code == .eccUncorrected || e.code == .parity) s
  exact ⟨_, (if_neg (by simp [hr, hb])).trans (congrArg (fun u => Host.Outcome.next (settle (setBoot u .deviceId))) hfold),
    rfl, rfl, frame_of_copied rfl⟩

/-- Settles O18: each event acts at its own step, and the reports of a training or self test are raised in order. -/
theorem bootFirstSteps : Obligations.BootFirstSteps := by
  unfold Obligations.BootFirstSteps
  refine ⟨⟨fun k s h hu hk => ?_, fun k s h => fuseSense_boot h, fun s h hc => if_pos (by rw [h, hc]; rfl)⟩,
    fun s hr hb => ?_, fun failed s => hbmTraining_failed, fun up half s hr hb => if_neg (by simp [hr, hb]),
    fun up half p s => ⟨fun h => if_pos h, fun h => if_neg (ne_true_of_eq_false h)⟩, fun fs s => selfTest_done⟩
  · rw [exec_fuseSenseDone h, hu, hk]
    unfold fusesSensed
    rw [hu, hk]
    rfl
  · exact (if_neg (by simp [hr, hb])).trans (if_pos rfl)

/-! ## The boot block (19 R544, R545) -/

theorem exec_bootBlockRead {s : State} {j : Job} (hr : coreRuns s = true) (hb : bootAt s .bootBlock = true)
    (hj : jobOf s .boot = some j) (ho : j.over = true) (hf : j.failed = none) :
    exec .bootBlockRead s = if bootBlockGood j.bytes then .next (startJob { dropJob s .boot with boot := { s.boot with
        lilenAddr := BitVec.ofNat 64 (leAt j.bytes 8 8), lilenLen := BitVec.ofNat 32 (leAt j.bytes 16 4)
        tileAddr := BitVec.ofNat 64 (leAt j.bytes 24 8), tileLen := BitVec.ofNat 32 (leAt j.bytes 32 4)
        evidenceAddr := BitVec.ofNat 64 (leAt j.bytes 40 8), nonce := BitVec.ofNat 256 (leAt j.bytes 48 32)
        step := .lilen } }
      .lilen (weightPort s) (BitVec.ofNat 64 (leAt j.bytes 8 8)) (BitVec.ofNat 32 (leAt j.bytes 16 4)).toNat)
      else done (bootFail s .versions {} 0) := by
  show execBootBlockRead s = _
  unfold execBootBlockRead
  rw [hj]
  refine (if_neg (by simp [hr, hb, ho])).trans ((if_neg (by simp [hf])).trans ?_)
  rfl

/-- Settles O19: a good block starts the read of the Lilen image, and a bad one the wait. -/
theorem bootBlock : Obligations.BootBlock := by
  unfold Obligations.BootBlock
  refine ⟨fun s hr hb => (if_neg (by simp [hr, hb])).trans (if_pos rfl), fun s hr hb => ?_,
    fun j s hr hb hj ho hf => ⟨fun hg => ?_, fun hg => ?_⟩, fun s hr hw ht => ⟨_, if_pos ⟨hr, hw, ht⟩, rfl, ?_⟩⟩
  · exact (if_neg (by simp [hr, hb])).trans (if_neg Bool.false_ne_true)
  · rw [exec_bootBlockRead hr hb hj ho hf, if_pos hg]
  · exact ⟨_, (exec_bootBlockRead hr hb hj ho hf).trans (if_neg (ne_true_of_eq_false hg)), rfl⟩
  · exact frame_of_copied rfl

/-! ## The images (19 R544, R546) -/

theorem foldl_sendWrite_frame (s : State) (p : Fin 8) (dest : Dest) (cs : List (Nat × List Byte)) :
    ∃ v, cs.foldl (fun s c => sendWrite s p dest (BitVec.ofNat 64 c.1) (.bytes c.2)) s = { s with ports := v } := by
  induction cs generalizing s with
  | nil => exact ⟨s.ports, rfl⟩
  | cons c cs ih =>
    obtain ⟨v, hv⟩ := ih (sendWrite s p dest (BitVec.ofNat 64 c.1) (.bytes c.2))
    exact ⟨v, hv⟩

theorem sendBytes_ports (s : State) (p : Fin 8) (dest : Dest) (addr : W64) (bs : List Byte) :
    ∃ v, sendBytes s p dest addr bs = { s with ports := v } := foldl_sendWrite_frame ..

theorem exec_imageLoad_lilen {s : State} {j : Job} (hr : coreRuns s = true) (hs : s.boot.step = .lilen)
    (hj : jobOf s .lilen = some j) (ho : j.over = true) (hf : j.failed = none) :
    exec .imageLoad s = if imageGood s j.bytes 1 16777216 (lilenFloor s) then
        .next (startJob { dropJob s .lilen with boot := { s.boot with
          lilenVersion := BitVec.ofNat 32 (leAt j.bytes 4 4), planMin := BitVec.ofNat 16 (leAt j.bytes 18 2)
          planMax := BitVec.ofNat 16 (leAt j.bytes 20 2), raiseLilen := BitVec.ofNat 32 (leAt j.bytes 24 4)
          raiseTile := BitVec.ofNat 16 (leAt j.bytes 28 2), pairs := pairTable j.bytes
          mLilen := Config.sha384 (j.bytes.take 128 ++ j.bytes.drop 512), step := .tile } }
          .tile (weightPort s) s.boot.tileAddr s.boot.tileLen.toNat)
      else done (bootFail s .versions {} 0) := by
  show execImageLoad s = _
  unfold execImageLoad
  rw [hs, hj]
  exact (if_neg (by simp [hr, ho])).trans (if_neg (by simp [hf]))

/-- The state from which the evidence is sent. -/
def tileTaken (s : State) (img : List Byte) : State :=
  { dropJob s .tile with boot := { s.boot with
    tileVersion := BitVec.ofNat 16 (leAt img 4 2)
    mTile := Config.sha384 (img.take 128 ++ img.drop 512), step := .evidence } }

theorem exec_imageLoad_tile {s : State} {j : Job} (hr : coreRuns s = true) (hs : s.boot.step = .tile)
    (hj : jobOf s .tile = some j) (ho : j.over = true) (hf : j.failed = none) :
    exec .imageLoad s = if imageGood s j.bytes 2 67108864 (tileFloor s) then
        .next (sendBytes (tileTaken s j.bytes) (weightPort s) .evidence s.boot.evidenceAddr (evidence (tileTaken s j.bytes)))
      else done (bootFail s .versions {} 0) := by
  show execImageLoad s = _
  unfold execImageLoad
  rw [hs, hj]
  exact (if_neg (by simp [hr, ho])).trans (if_neg (by simp [hf]))

theorem imageLoad_lilen {s : State} {j : Job} (hr : coreRuns s = true) (hs : s.boot.step = .lilen)
    (hj : jobOf s .lilen = some j) (ho : j.over = true) (hf : j.failed = none) :
    ∃ t, exec .imageLoad s = .next t ∧ if imageGood s j.bytes 1 16777216 (lilenFloor s) = true then
        t.boot.step = .tile ∧ t.boot.lilenVersion = BitVec.ofNat 32 (leAt j.bytes 4 4)
        ∧ t.boot.mLilen = Config.sha384 (j.bytes.take 128 ++ j.bytes.drop 512) ∧ t.boot.tileVersion = s.boot.tileVersion
        ∧ Frame [.boot, .jobs, .ports] s t
      else t.boot = { s.boot with step := .wait, waitSince := s.time.now } := by
  rw [exec_imageLoad_lilen hr hs hj ho hf]
  split
  · exact ⟨_, rfl, rfl, rfl, rfl, rfl, frame_of_copied rfl⟩
  · exact ⟨_, rfl, rfl⟩

theorem imageLoad_tile {s : State} {j : Job} (hr : coreRuns s = true) (hs : s.boot.step = .tile)
    (hj : jobOf s .tile = some j) (ho : j.over = true) (hf : j.failed = none) :
    ∃ t, exec .imageLoad s = .next t ∧ if imageGood s j.bytes 2 67108864 (tileFloor s) = true then
        t.boot.step = .evidence ∧ t.boot.tileVersion = BitVec.ofNat 16 (leAt j.bytes 4 2)
        ∧ t.boot.mTile = Config.sha384 (j.bytes.take 128 ++ j.bytes.drop 512) ∧ t.boot.mLilen = s.boot.mLilen
        ∧ Frame [.boot, .jobs, .ports] s t
      else t.boot = { s.boot with step := .wait, waitSince := s.time.now } := by
  rw [exec_imageLoad_tile hr hs hj ho hf]
  split
  · obtain ⟨v, hv⟩ := sendBytes_ports (tileTaken s j.bytes) (weightPort s) .evidence s.boot.evidenceAddr
      (evidence (tileTaken s j.bytes))
    rw [hv]
    exact ⟨_, rfl, rfl, rfl, rfl, rfl, frame_of_copied rfl⟩
  · exact ⟨_, rfl, rfl⟩

/-- Settles O20: a good image leads to the next read or to the evidence, whose write ends in Pre-operational. -/
theorem bootImages : Obligations.BootImages := by
  unfold Obligations.BootImages
  exact ⟨fun j s => imageLoad_lilen, fun j s => imageLoad_tile,
    fun s hr hb hw => if_pos ⟨hr, hb, ne_true_of_eq_false hw⟩⟩

end Sys2Proof.Machine
end

section
/-! SUPPORT. Ports (18): links, messages that are no descriptor, completions and timeouts, consumer indexes (03). -/
namespace Sys2Proof.Machine
open Sys2Proof

theorem portAlive_of {s : State} {p : Fin 8} (ht : linksTrained s = true) (hu : portUp s p = true) : portAlive s p = true := by
  unfold portAlive
  rw [ht, hu]
  rfl

/-- Settles O21: each event acts on a trained link whose state it changes. -/
theorem linkEvents : Obligations.LinkEvents := by
  unfold Obligations.LinkEvents
  intro p s ht
  refine ⟨fun hup => ⟨?_, ?_⟩, fun hdown half => if_neg (by simp [ht, hdown]), fun hu => ?_⟩
  · exact (if_neg (by simp [ht, hup])).trans (if_pos hup)
  · exact (if_neg (by simp [ht])).trans (if_pos hup)
  · exact if_neg (by simp [portAlive_of ht hu])

/-! ## Messages that are no descriptor, and unknown types -/

theorem reservedMask_unknown {type : Nat} (h : type = 0 ∨ 10 < type) (d : Desc) (b : Nat) : reservedMask type d b = 0 := by
  unfold reservedMask
  split
  · rfl
  · split <;> first | rfl | omega

theorem firstReserved_unknown {type : Nat} (h : type = 0 ∨ 10 < type) (d : Desc) : firstReserved type d = none := by
  unfold firstReserved
  simp [reservedMask_unknown h]

theorem badField_unknown {type : Nat} (h : type = 0 ∨ 10 < type) (d : Desc) : badField type d = none := by
  unfold badField
  split <;> first | rfl | omega

/-- The stamp stage of a descriptor of an undefined type (03 R120). -/
theorem stampStage_unknown {s : State} {d : Desc} {ty : Byte} (hup : nodeUp s = true) (hport : portUp s d.port = true)
    (htraffic : d.port.val < 6) (hty : ty = 0 ∨ 10 < ty.toNat) (hseq : d.portSeq = (portOf s d.port).seq) :
    (stampStage s d ty.toNat).1
      = (let t := modPort (violate (modPort s d.port fun v => { v with descs := v.descs + 1 }) d ty s.time.now (tickOf s)
          .unknownType) d.port fun v => { v with seq := d.portSeq + 1 }
        { t with time := { t.time with arrivals := t.time.arrivals + 1 } }) := by
  have hnat : ty.toNat = 0 ∨ 10 < ty.toNat := hty.imp_left fun h => by simp [h]
  have hknown : ¬ (1 ≤ ty.toNat ∧ ty.toNat ≤ 10) := by omega
  unfold stampStage
  rw [if_neg (by simp [hup, hport])]
  simp only [countDesc_traffic s htraffic, hknown, firstReserved_unknown hnat, badField_unknown hnat, decide_false,
    Bool.false_and, Bool.false_eq_true, false_and, if_false, not_false_eq_true, true_or, if_true, BitVec.ofNat_toNat,
    BitVec.setWidth_eq]
  exact takeSeq_expected hseq

/-- Settles O22: each message is reported for the field that makes it none. -/
theorem strayMessagesAreReported : Obligations.StrayMessagesAreReported := by
  unfold Obligations.StrayMessagesAreReported
  refine ⟨fun p s ha => ⟨fun addr len h => ?_, fun len h => ?_, fun op h => ?_, fun tag => if_pos ha⟩,
    fun d ty s hup hport htraffic hty hseq => ?_⟩
  · exact (if_neg (by simp [ha])).trans (if_pos h)
  · exact (if_neg (by simp [ha])).trans ((if_neg (by simp)).trans (if_pos h))
  · have hres : ¬ (1 ≤ op.toNat ∧ op.toNat ≤ 4) := by
      rcases h with rfl | h
      · decide
      · omega
    exact if_pos ⟨ha, hres⟩
  · have hnone : ¬ (1 ≤ ty.toNat ∧ ty.toNat ≤ 10) := by
      rcases hty with rfl | h
      · decide
      · omega
    exact (if_neg hnone).trans (congrArg (fun u => Host.Outcome.next (settle u))
      (stampStage_unknown hup hport htraffic hty hseq))

/-! ## Completions and timeouts (18 R511 to R514) -/

section Completions
variable {p : Fin 8} {tag : W16} {s : State} (ha : portAlive s p = true)
include ha

theorem completion_write (hw : tag.getLsbD 15 = false) {m : WriteMsg} (hm : writeByNum s p (tag.truncate 15) = some m) :
    exec (.completion p tag []) s = .next (settle (drainPort (pumpAfter s p fun v =>
        { v with unacked := afterNum (tag.truncate 15) v.unacked }) p))
      ∧ exec (.completionError p tag) s = .next (settle (failWrite s p m)) := by
  constructor
  · show execCompletion p tag [] s = _
    unfold execCompletion
    dsimp only
    rw [if_neg (by simp [ha]), if_neg (ne_true_of_eq_false hw), hm]
    rfl
  · show execCompletionError p tag s = _
    unfold execCompletionError
    dsimp only
    rw [if_neg (by simp [ha]), if_neg (ne_true_of_eq_false hw), hm]
    rfl

theorem completion_read (hr : tag.getLsbD 15 = true) {m : ReadMsg} (hm : readByTag s p (tag.truncate 15) = some m)
    (data : List Byte) :
    (data.length = m.len → exec (.completion p tag data) s
      = .next (settle (deliverRead (endRead s p (tag.truncate 15)) m data)))
    ∧ exec (.completionError p tag) s = .next (settle (failRead s p m)) := by
  constructor
  · intro hlen
    show execCompletion p tag data s = _
    unfold execCompletion
    dsimp only
    rw [if_neg (by simp [ha]), if_pos hr, hm]
    exact if_neg (by simp [hlen])
  · show execCompletionError p tag s = _
    unfold execCompletionError
    dsimp only
    rw [if_neg (by simp [ha]), if_pos hr, hm]
    rfl

theorem completion_stray_read (hr : tag.getLsbD 15 = true) (hm : readByTag s p (tag.truncate 15) = none) (data : List Byte) :
    exec (.completion p tag data) s = .next (settle (violateMsg s p 4)) := by
  show execCompletion p tag data s = _
  unfold execCompletion
  dsimp only
  rw [if_neg (by simp [ha]), if_pos hr, hm]
  rfl

theorem completion_stray_write (hw : tag.getLsbD 15 = false) (hm : writeByNum s p (tag.truncate 15) = none) :
    exec (.completion p tag []) s = .next (settle (violateMsg s p 4)) := by
  show execCompletion p tag [] s = _
  unfold execCompletion
  dsimp only
  rw [if_neg (by simp [ha]), if_neg (ne_true_of_eq_false hw), hm]
  rfl

end Completions

theorem exec_readTimeout {s : State} {p : Fin 8} {n : BitVec 15} {m : ReadMsg} (hm : readByTag s p n = some m) :
    exec (.readTimeout p n) s
      = if linksTrained s ∧ s.time.now ≥ m.sentAt + 200000 then done (failRead s p m) else .next s := by
  show execReadTimeout p n s = _
  unfold execReadTimeout
  rw [hm]

theorem exec_writeTimeout {s : State} {p : Fin 8} {n : BitVec 15} {m : WriteMsg} (hm : writeByNum s p n = some m) :
    exec (.writeTimeout p n) s
      = if linksTrained s ∧ s.time.now ≥ m.sentAt + 100000 then done (failWrite s p m) else .next s := by
  show execWriteTimeout p n s = _
  unfold execWriteTimeout
  rw [hm]

/-- A failed WRITE of a ring is held for the next tick and reported HOST_WRITE. -/
theorem failWrite_ring {m : WriteMsg} {slot : Slot} (h : m.dest = .ring slot) (s : State) (p : Fin 8) :
    failWrite s p m = holdWrite (modPort s p fun v =>
      { v with detected := v.detected + 1, unacked := v.unacked.filter fun x => x.num != m.num }) p m := by
  unfold failWrite
  rw [h]

theorem holdWrite_port (s : State) (p : Fin 8) (m : WriteMsg) : portOf (holdWrite s p m) p
    = { portOf s p with failedWrites := (portOf s p).failedWrites ++ [{ m with retry := true }] } :=
  portOf_modPort s p fun v => { v with failedWrites := v.failedWrites ++ [{ m with retry := true }] }

theorem holdWrite_codes (s : State) (p : Fin 8) (m : WriteMsg) :
    (holdWrite s p m).err.raised.map (·.code) = s.err.raised.map (·.code) ++ [.hostWrite] := List.map_append ..

/-- Settles O23: a completion ends what it names, and an error or a timeout fails it. -/
theorem completionsAndTimeouts : Obligations.CompletionsAndTimeouts := by
  unfold Obligations.CompletionsAndTimeouts
  refine ⟨fun p tag s ha => ⟨fun m hw hm => completion_write ha hw hm, fun m data hr hm => completion_read ha hr hm data,
      fun hr hm data => completion_stray_read ha hr hm data, fun hw hm => completion_stray_write ha hw hm⟩,
    fun p n m s ht hm => ⟨fun h => ?_, fun h => ?_⟩, fun p n m s ht hm => ⟨fun h => ?_, fun h => ?_⟩,
    fun p m slot s hd => ?_⟩
  · exact (exec_readTimeout hm).trans (if_pos ⟨ht, h⟩)
  · exact (exec_readTimeout hm).trans (if_neg fun hlate => by omega)
  · exact (exec_writeTimeout hm).trans (if_pos ⟨ht, h⟩)
  · exact (exec_writeTimeout hm).trans (if_neg fun hlate => by omega)
  · rw [failWrite_ring hd, holdWrite_port, holdWrite_codes, portOf_modPort]
    exact ⟨List.mem_append_right _ List.mem_cons_self, rfl, rfl⟩

/-! ## Consumer indexes (03 R112 to R118) -/

theorem exec_consumerIndexReturn {s : State} {p : Fin 8} {tag : BitVec 15} {m : ReadMsg} {ref : RingRef}
    (ha : portAlive s p = true) (hm : readByTag s p tag = some m) (hp : m.purpose = .consumer ref) (v : W32) :
    exec (.consumerIndexReturn p tag v) s = .next (settle (consumerReturn (endRead s p tag) ref v)) := by
  show execConsumerIndexReturn p tag v s = _
  unfold execConsumerIndexReturn
  rw [hm]
  dsimp only
  rw [hp]
  exact if_pos ha

/-- What a request's ring takes from a consumer index that is not beyond its producer. -/
def ringTaken (s : State) (slot : Slot) (v : W32) : State := modReq s slot fun r => { r with
  consumer := v, holdTicks := if v != r.consumer then 0 else r.holdTicks
  held := { r with consumer := v }.free == 0, holdReported := r.holdReported && { r with consumer := v }.free == 0 }

theorem consumerReturn_req {s : State} {slot : Slot} (hst : (reqOf s slot).st ≠ .free) (he : (reqOf s slot).entryBad = false)
    (v : W32) : consumerReturn s (.req slot (genOf s slot)) v
      = if beyond v (reqOf s slot).producer then
          consumerAhead s (reqOf s slot).home (handleOf s slot) v (reqOf s slot).producer
        else if (reqOf s slot).st = .closing then ringTaken s slot v else goOn (ringTaken s slot v) slot :=
  if_neg (by simp [hst, he])

/-- Settles O24: an index beyond the producer is reported, any other is taken, and a long hold is reported once. -/
theorem consumerIndex : Obligations.ConsumerIndex := by
  unfold Obligations.ConsumerIndex
  refine ⟨fun p tag m ref v s ha hm hp => exec_consumerIndexReturn ha hm hp v, fun slot v s he hb => ⟨fun hc => ?_,
    fun hf hc => ?_⟩, fun slot v s hf he hb => ?_,
    fun slot s hn hf hh hr hl => if_pos ⟨hn, hf, hh, ne_true_of_eq_false hr, hl⟩⟩
  · rw [consumerReturn_req (by simp [hc]) he, if_neg (ne_true_of_eq_false hb), if_pos hc, ringTaken]
  · rw [consumerReturn_req hf he, if_neg (ne_true_of_eq_false hb), if_neg hc, ringTaken]
  · rw [consumerReturn_req hf he, if_pos hb, consumerAhead]

end Sys2Proof.Machine
end

section
/-! SUPPORT. Requests (03): OPEN, PROMPT, TOKENS, ACCEPT, CANCEL and CLOSE, and the waits that end (04, 11, 13). -/
namespace Sys2Proof.Machine
open Sys2Proof

/-! ## OPEN and admission -/

/-- The state in which an OPEN is judged: its descriptor has arrived and its slot is taken. -/
def opened (s : State) (d : Desc) : State :=
  setReq (arrived s d) (handleSlot d.handle) { openEntry d with st := .opened }

/-- An OPEN of a free slot with a good ring is judged at once. -/
theorem exec_openReq_free {s : State} {d : Desc} (h : Clean s d 1) (hfree : (reqOf s (handleSlot d.handle)).st = .free)
    (hring : ringBad (openEntry d) = false) :
    exec (.openReq d) s = .next (settle (openAct (arrived s d) (handleSlot d.handle) (itemOf s d .openReq))) := by
  have hr : (reqOf (arrived s d) (handleSlot d.handle)).st = .free := hfree
  have hj : judge (reqOf (arrived s d) (handleSlot d.handle)) (itemOf s d .openReq) = none := by
    show judgeOpen _ d = none
    unfold judgeOpen
    simp [hr, hring]
  rw [exec_openReq, receive_clean _ _ h]
  unfold route processItem
  rw [if_pos hr, hj]
  rfl

section OpenAct
variable {s : State} {d : Desc}

theorem openAct_refused (hc : openCheck s (openEntry d) ≠ 0) :
    openAct (arrived s d) (handleSlot d.handle) (itemOf s d .openReq)
      = refuseOpen (if openCheck s (openEntry d) = 6 then
          reportRow (opened s d) (itemOf s d .openReq) 1 .vocabAbsent (openEntry d).vocab.val 0 else opened s d)
        (handleSlot d.handle) (tickOf s) (openCheck s (openEntry d)) := if_pos hc

theorem openAct_running (hc : openCheck s (openEntry d) = 0) (hf : (fnOf s (openEntry d).fn).st = .running) :
    openAct (arrived s d) (handleSlot d.handle) (itemOf s d .openReq)
      = if demandBreaks s (openEntry d) then refuseOpen (opened s d) (handleSlot d.handle) (tickOf s) 9
        else admitReq (opened s d) (handleSlot d.handle) (tickOf s) :=
  (if_neg (not_not_intro hc)).trans (if_pos hf)

theorem openAct_parked (hc : openCheck s (openEntry d) = 0) (hf : (fnOf s (openEntry d).fn).st ≠ .running) :
    openAct (arrived s d) (handleSlot d.handle) (itemOf s d .openReq)
      = fnCount (setReq (arrived s d) (handleSlot d.handle) { openEntry d with
         st := .opened, queue := [{ itemOf s d .openReq with parked := true }] }) (openEntry d).fn 0x0E 1 :=
  (if_neg (not_not_intro hc)).trans (if_neg hf)

end OpenAct

theorem admitReq_noPages {s : State} {slot : Slot}
    (h : pagesFit s (1 + windowCount (planOf s (fnOf s (reqOf s slot).fn).act.plan)) = false) (k : TickRef) :
    admitReq s slot k
      = refuseOpen (stateFull s (1 + windowCount (planOf s (fnOf s (reqOf s slot).fn).act.plan))) slot k 9 :=
  if_pos (ne_true_of_eq_false h)

theorem admitReq_noPattern {s : State} {slot : Slot}
    (h : pagesFit s (1 + windowCount (planOf s (fnOf s (reqOf s slot).fn).act.plan)) = true)
    (hp : nextPattern s (reqOf s slot).latency = none) (k : TickRef) : admitReq s slot k = refuseOpen s slot k 10 := by
  unfold admitReq
  dsimp only
  rw [if_neg (not_not_intro h), hp]

/-- Settles O25: the checks of an OPEN in their order, and the steps of an admission. -/
theorem openAndAdmission : Obligations.OpenAndAdmission := by
  unfold Obligations.OpenAndAdmission
  refine ⟨fun d s h hfree hring => ?_, fun slot k s => ⟨fun e hfit hp => ?_, fun hfit => admitReq_noPages hfit k,
    fun hfit hp => admitReq_noPattern hfit hp k⟩⟩
  · rw [exec_openReq_free h hfree hring]
    refine ⟨fun hc hf hd => ?_, fun hc hf hd => ?_, fun hc h6 => ?_, fun h6 => ?_, fun hc hf => ?_⟩
    · rw [openAct_running hc hf, if_neg (ne_true_of_eq_false hd), opened]
    · rw [openAct_running hc hf, if_pos hd, opened]
    · rw [openAct_refused hc, if_neg h6, opened]
    · rw [openAct_refused (by omega), if_pos h6, h6, opened]
    · rw [openAct_parked hc hf]
  · unfold admitReq
    dsimp only
    rw [if_neg (not_not_intro hfit), hp]
    rfl

/-! ## PROMPT and TOKENS -/

/-- Settles O26: the segment is appended, and its bytes run or are read. -/
theorem promptAppendsItsSegment : Obligations.PromptAppendsItsSegment := by
  unfold Obligations.PromptAppendsItsSegment
  intro d s h
  refine ⟨fun hin => ?_, fun hin => ?_⟩ <;>
  · rw [exec_prompt, receive_direct h]
    show done (promptAct _ _ _) = _
    unfold promptAct
    simp only [itemOf, hin, if_true, if_false, Bool.false_eq_true]
    rfl

/-- What TOKENS leaves of its request before its positions are scanned. -/
def tokensGrown (s : State) (slot : Slot) (q : QItem) (committed : Nat) (ending : Bool) : State :=
  let x := enterTokens s slot
  let n := tokensCount q.desc
  let news := newPositions x.1 (reqOf s slot) q x.2 n
  modReq (textCount x.1 2 (news.filter (·.waitsRead)).length) slot fun y =>
    let c := if committed = 0 then y.c else y.s + committed
    { y with
      positions := y.positions ++ news, c := c, s := y.s + n
      endSeen := y.endSeen || ending
      closeTick := if ending then some (y.closeTick.getD q.tick) else y.closeTick
      chains := y.chains ++ [{ first := (reqOf s slot).s, c := c, s := y.s + n, tick := q.tick, parked := q.parked
                               ending := ending, entered := x.2 }] }

/-- TOKENS that meets nothing speculative, or is speculative within the depth, rejects nothing and drops nothing. -/
theorem tokensAct_grown {s : State} {slot : Slot} {q : QItem} (hspec : tokensSpec q.desc ≤ tokensCount q.desc)
    (hopen : tokensCount q.desc - tokensSpec q.desc = 0 ∨ (reqOf s slot).s - (reqOf s slot).c = 0)
    (hdepth : tokensCount q.desc - tokensSpec q.desc = 0 → tokensSpec q.desc ≤ 16 - ((reqOf s slot).s - (reqOf s slot).c))
    (herrs : q.errs = []) :
    tokensAct s slot q = pump (runScan (addGroup (tokensGrown s slot q (tokensCount q.desc - tokensSpec q.desc)
      (tokensEnd q.desc && tokensSpec q.desc == 0)) slot (reqOf s slot).s
      (tokensCount q.desc - tokensSpec q.desc)) slot) slot := by
  have hreject : ¬ (tokensCount q.desc - tokensSpec q.desc ≠ 0 ∧ (reqOf s slot).s - (reqOf s slot).c ≠ 0) := by omega
  have hkeep : (if tokensCount q.desc - tokensSpec q.desc = 0 then
      min (tokensSpec q.desc) (16 - ((reqOf s slot).s - (reqOf s slot).c)) else tokensSpec q.desc) = tokensSpec q.desc := by
    split
    next h => exact Nat.min_eq_left (hdepth h)
    next => rfl
  have hcount : tokensCount q.desc - tokensSpec q.desc + tokensSpec q.desc = tokensCount q.desc := by omega
  unfold tokensAct tokensGrown
  dsimp only
  rw [if_neg hreject]
  simp only [hkeep, Nat.lt_irrefl, if_false, herrs, List.any_nil, Bool.or_false, Nat.add_assoc, hcount]

theorem exec_tokens_direct {s : State} {d : Desc} (h : Direct s d .tokens) :
    exec (.tokens d []) s = .next (settle (tokensAct (arrived s d) (handleSlot d.handle) (itemOf s d .tokens))) :=
  receive_direct h

/-- Settles O27: committed tokens raise C and S, speculative ones S alone; errors met on the way are raised first. -/
theorem tokensRaiseCAndS : Obligations.TokensRaiseCAndS := by
  unfold Obligations.TokensRaiseCAndS
  refine ⟨fun d s h => ⟨fun hn hcs => ?_, fun hn h0 hcs hdepth => ?_⟩, fun d errs s h => receive_clean _ _ h⟩
  · have hgrow := tokensAct_grown (s := arrived s d) (slot := handleSlot d.handle) (q := itemOf s d .tokens) (Nat.le_of_lt hn)
      (.inr (Nat.sub_eq_zero_of_le (Nat.le_of_eq hcs))) (fun h0 => absurd h0 (Nat.sub_ne_zero_of_lt hn)) rfl
    rw [exec_tokens_direct h, hgrow]
    rfl
  · have hroom : tokensSpec d ≤ 16 - ((reqOf s (handleSlot d.handle)).s - (reqOf s (handleSlot d.handle)).c) := by omega
    have hnone : tokensCount (itemOf s d .tokens).desc - tokensSpec (itemOf s d .tokens).desc = 0 :=
      Nat.sub_eq_zero_of_le (Nat.le_of_eq hn.symm)
    have hend : (tokensEnd (itemOf s d .tokens).desc && tokensSpec (itemOf s d .tokens).desc == 0) = false := by
      show (tokensEnd d && tokensSpec d == 0) = false
      simp [hn, h0]
    have hgrow := tokensAct_grown (s := arrived s d) (slot := handleSlot d.handle) (q := itemOf s d .tokens) (Nat.le_of_eq hn)
      (.inl hnone) (fun _ => hroom) rfl
    rw [hnone, hend] at hgrow
    rw [exec_tokens_direct h, hgrow]
    rfl

/-! ## ACCEPT and rejection -/

/-- What ACCEPT commits: as many positions as it names, which go ten cycles after it at the earliest. -/
def acceptTook (s : State) (slot : Slot) (n : Nat) : State := modReq s slot fun x => { x with
  c := x.c + n
  positions := x.positions.map fun y => if (reqOf s slot).c ≤ y.p ∧ y.p < (reqOf s slot).c + n then
    { y with group := y.p, due := max y.due (s.time.now + 11) } else y }

theorem acceptAct_within {s : State} {slot : Slot} {q : QItem}
    (h : pfield q.desc 12 0 16 ≤ (reqOf s slot).s - (reqOf s slot).c) :
    acceptAct s slot q
      = (let n := pfield q.desc 12 0 16
        let took := acceptTook s slot n
        let t := if n < (reqOf s slot).s - (reqOf s slot).c then rejectFrom took slot ((reqOf s slot).c + n) q.stamp else took
        pump (addGroup (wakeAt t slot (s.time.now + 10)) slot (reqOf s slot).c n) slot) := by
  unfold acceptAct acceptTook
  dsimp only
  rw [Nat.min_eq_left h, if_neg (Nat.not_lt.mpr h)]
  split <;> rfl

theorem exec_accept_direct {s : State} {d : Desc} (h : Direct s d .accept)
    (hn : pfield d 12 0 16 ≤ (reqOf s (handleSlot d.handle)).s - (reqOf s (handleSlot d.handle)).c) :
    exec (.accept d) s = .next (settle
      (let slot := handleSlot d.handle
        let r := reqOf s slot
        let n := pfield d 12 0 16
        let took := acceptTook (arrived s d) slot n
        let t := if n < r.s - r.c then rejectFrom took slot (r.c + n) s.time.now else took
        pump (addGroup (wakeAt t slot (s.time.now + 10)) slot r.c n) slot)) :=
  (receive_direct h).trans (congrArg done (acceptAct_within (s := arrived s d) (q := itemOf s d .accept) hn))

@[simp] theorem reqOf_dropSearches (s : State) (keep : SearchReq → Bool) (slot : Slot) :
    reqOf (dropSearches s keep) slot = reqOf s slot := rfl

@[simp] theorem reqOf_dropResults (s : State) (slot : Slot) (keep : SearchReq → Bool) :
    reqOf (dropResults s slot keep) slot
      = { reqOf s slot with results := (reqOf s slot).results.filter fun x => keep x.1 } := reqOf_modReq s slot fun r =>
  { r with results := r.results.filter fun x => keep x.1 }

theorem reqOf_dropWatch (s : State) (slot : Slot) (keep : Nat → Bool) :
    ∃ ps rs, reqOf (dropWatch s slot keep) slot = { reqOf s slot with positions := ps, results := rs } := by
  unfold dropWatch
  simp only [reqOf_modReq, reqOf_dropResults]
  exact ⟨_, _, rfl⟩

/-- A question of a position from the one rejected on is dropped; of another slot, or before it, kept. -/
def keptBefore (slot : Slot) (n : Nat) (q : SearchReq) : Bool :=
  match q.asker with
  | .s3 sl p => sl != slot || decide (p < n)
  | .s4 sl p => sl != slot || decide (p < n)
  | _ => true

theorem lt_of_keptBefore {slot : Slot} {n p : Nat} {q : SearchReq} (h : keptBefore slot n q = true)
    (hq : q.asker = .s3 slot p ∨ q.asker = .s4 slot p) : p < n := by
  unfold keptBefore at h
  rcases hq with hq | hq <;> simpa [hq] using h

/-- A result of a position from the one rejected on is dropped. -/
def resultBefore (n : Nat) (q : SearchReq) : Bool :=
  match q.asker with
  | .s3 _ p => decide (p < n)
  | .s4 _ p => decide (p < n)
  | _ => true

theorem lt_of_resultBefore {slot : Slot} {n p : Nat} {q : SearchReq} (h : resultBefore n q = true)
    (hq : q.asker = .s3 slot p ∨ q.asker = .s4 slot p) : p < n := by
  unfold resultBefore at h
  rcases hq with hq | hq <;> simpa [hq] using h

/-- What a rejection leaves of the work in flight, before it changes the request's own fields. -/
def rejectedWork (s : State) (slot : Slot) (n : Nat) : State :=
  dropResults (dropSearches (dropWatch s slot fun p => decide (p < n)) (keptBefore slot n)) slot (resultBefore n)

/-- What a rejection leaves of a request. -/
def rejectedReq (n stamp : Nat) (r : Request) : Request :=
  let cut (k : Chunk) : Chunk := { k with s := min k.s n }
  { r with
    s := n
    positions := r.positions.take n
    auto := match r.snaps.find? fun e => e.1 == n with
      | some e => e.2
      | none => r.auto
    snaps := r.snaps.filter fun e => decide (e.1 < n)
    summary := match r.sumSnaps.find? fun e => e.1 == n with
      | some e => e.2
      | none => r.summary
    sumSnaps := r.sumSnaps.filter fun e => decide (e.1 < n)
    verdictsDue := r.verdictsDue.filter fun v => decide (v.pos.toNat < n)
    chains := (r.chains.filter fun k => decide (k.first < n)).map cut
    wait := .restore, waitSince := stamp }

theorem rejectFrom_eq (s : State) (slot : Slot) (n stamp : Nat) :
    rejectFrom s slot n stamp = modReq (rejectedWork s slot n) slot (rejectedReq n stamp) := rfl

theorem reqOf_rejectedWork (s : State) (slot : Slot) (n : Nat) :
    ∃ ps rs, reqOf (rejectedWork s slot n) slot
      = { reqOf s slot with positions := ps, results := List.filter (fun x => resultBefore n x.1) rs } := by
  obtain ⟨ps, rs, h⟩ := reqOf_dropWatch s slot fun p => decide (p < n)
  exact ⟨ps, rs, by rw [rejectedWork, reqOf_dropResults, reqOf_dropSearches, h]⟩

theorem waiting_rejectFrom (s : State) (slot : Slot) (n stamp : Nat) :
    (rejectFrom s slot n stamp).mortise.waiting
      = (dropWatch s slot fun p => decide (p < n)).mortise.waiting.filter (keptBefore slot n) := rfl

/-- Settles O29: ACCEPT commits what it names and rejects the rest; a rejection keeps what lies before it. -/
theorem acceptAndReject : Obligations.AcceptAndReject := by
  unfold Obligations.AcceptAndReject
  refine ⟨fun d s h => ⟨fun hn => ?_, fun hn => ?_⟩, fun slot n stamp s => ?_⟩
  · rw [exec_accept_direct h (Nat.le_of_eq hn)]
    dsimp only
    rw [if_neg (hn ▸ Nat.lt_irrefl _)]
    rfl
  · rw [exec_accept_direct h (Nat.le_of_lt hn)]
    dsimp only
    rw [if_pos hn]
    rfl
  · obtain ⟨ps, rs, hwork⟩ := reqOf_rejectedWork s slot n
    have hreq : reqOf (rejectFrom s slot n stamp) slot = rejectedReq n stamp
        { reqOf s slot with positions := ps, results := List.filter (fun x => resultBefore n x.1) rs } := by
      rw [rejectFrom_eq, reqOf_modReq, hwork]
    rw [hreq, waiting_rejectFrom]
    refine ⟨rfl, List.length_take_le .., rfl, fun a ha => ?_, fun v hv => ?_, fun k hk => ?_, fun v hv => ?_,
      fun x hx p => ?_, fun q hq p => ?_⟩
    · simp only [rejectedReq, ha]
    · simp only [rejectedReq, hv]
    · obtain ⟨k', hk', rfl⟩ := List.mem_map.mp hk
      exact ⟨of_decide_eq_true (List.mem_filter.mp hk').2, Nat.min_le_right ..⟩
    · exact of_decide_eq_true (List.mem_filter.mp hv).2
    · exact lt_of_resultBefore (List.mem_filter.mp hx).2
    · exact lt_of_keptBefore (List.mem_filter.mp hq).2

/-! ## CANCEL and CLOSE -/

/-- The request as CANCEL ends it: what is queued behind a CLOSE or END is reported, and the queue is empty. -/
def cancelled (s : State) (slot : Slot) : State :=
  let r := reqOf (stopCold s slot) slot
  modReq (reportAfterClose r.queue (r.closeSeen || r.endSeen) (stopCold s slot)) slot fun r => { r with
    cancelSeen := true, queue := [] }

/-- The causes that CANCEL adds for a CLOSE or END in the queue. -/
def cancelCauses (r : Request) : Byte := flagIf (endQueued r) 1 ||| flagIf (r.queue.any fun q => q.kind == .close) 2

section CancelAct
variable {s : State} {slot : Slot} (q : QItem)

theorem cancelAct_open (h : (reqOf (stopCold s slot) slot).pendingClosed = none) :
    cancelAct s slot q = finishRequest (cancelled s slot) slot (reqOf (stopCold s slot) slot).front
      ((reqOf (cancelled s slot) slot).causes ||| cancelCauses (reqOf (stopCold s slot) slot)) q.tick := by
  unfold cancelAct
  dsimp only
  rw [h]
  rfl

theorem cancelAct_closing {c : ClosedRec} (h : (reqOf (stopCold s slot) slot).pendingClosed = some c) :
    cancelAct s slot q = modReq (cancelled s slot) slot fun r => { r with
      pendingClosed := some { c with cause := c.cause ||| cancelCauses (reqOf (stopCold s slot) slot) ||| 4 } } := by
  unfold cancelAct
  dsimp only
  rw [h]
  rfl

end CancelAct

/-- The request once its CLOSE is noted. -/
def closeNoted (s : State) (slot : Slot) (q : QItem) : State :=
  modReq s slot fun x => { x with closeSeen := true, closeTick := some ((reqOf s slot).closeTick.getD q.tick) }

section CloseAct
variable {s : State} {slot : Slot} (q : QItem)

theorem closeAct_opened (h : (reqOf s slot).st = .opened) :
    closeAct s slot q = finishRequest (modReq (closeNoted s slot q) slot fun x => { x with queue := [] }) slot 0
      (reqOf (modReq (closeNoted s slot q) slot fun x => { x with queue := [] }) slot).causes q.tick := by
  unfold closeAct
  dsimp only
  rw [h]
  rfl

theorem closeAct_paused (h : (reqOf s slot).st = .paused) :
    closeAct s slot q = pump (stopCold (closeNoted s slot q) slot) slot := by
  unfold closeAct
  dsimp only
  rw [h]
  rfl

theorem closeAct_running (h : (reqOf s slot).st = .prompt ∨ (reqOf s slot).st = .streaming) :
    closeAct s slot q = pump (closeNoted s slot q) slot := by
  unfold closeAct
  dsimp only
  rcases h with h | h <;> rw [h] <;> rfl

end CloseAct

/-- Settles O31: CANCEL ends the request or joins a CLOSED that waits, and CLOSE acts by the request's state. -/
theorem cancelAndClose : Obligations.CancelAndClose := by
  unfold Obligations.CancelAndClose
  refine ⟨fun d s h => ⟨fun hc => ?_, fun c hc => ?_⟩, fun d s h => ⟨fun hst => ?_, fun hst => ?_, fun hst => ?_⟩⟩
  · exact (receive_direct h).trans (congrArg done (cancelAct_open (s := arrived s d) (itemOf s d .cancel) hc))
  · exact (receive_direct h).trans (congrArg done (cancelAct_closing (s := arrived s d) (itemOf s d .cancel) hc))
  · exact (receive_direct h).trans (congrArg done (closeAct_opened (s := arrived s d) (itemOf s d .close) hst))
  · exact (receive_direct h).trans (congrArg done (closeAct_running (s := arrived s d) (itemOf s d .close) hst))
  · exact (receive_direct h).trans (congrArg done (closeAct_paused (s := arrived s d) (itemOf s d .close) hst))

/-! ## Waits that end -/

theorem takeHead_of {s : State} {slot : Slot} {q : QItem} {rest : List QItem} (hq : (reqOf s slot).queue = q :: rest)
    (hr : canRun s slot q = true) :
    takeHead s slot = if q.kind = .openReq ∧ q.parked then
        admitReq (modReq s slot fun r => { r with queue := rest }) slot q.tick
      else processItem (modReq s slot fun r => { r with queue := rest }) slot q := by
  unfold takeHead
  rw [hq]
  exact if_pos hr

theorem exec_descriptorDequeue {s : State} {slot : Slot} (hn : nodeUp s = true) (hf : (reqOf s slot).st ≠ .free) :
    exec (.descriptorDequeue slot) s = .next (settle (takeHead s slot)) := if_neg (by simp [hn, hf])

/-- The overflow entry that has come in lets its position be scanned. -/
theorem exec_vocabOverflowRead {s : State} {slot : Slot} {p : W32} (hc : coreRuns s = true)
    (hp : ((reqOf s slot).positions[p.toNat]?).any
      (fun x => x.waitsRead && decide (overflowAt (reqOf s slot) x ≤ s.time.now)) = true)
    (hst : (reqOf s slot).st ≠ .closing) (hclosed : (reqOf s slot).pendingClosed = none) :
    exec (.vocabOverflowRead slot p) s = .next (settle (pump (runScan (modReq s slot fun r => { r with
      positions := Pos.modAt r.positions p.toNat fun x => { x with waitsRead := false } }) slot) slot)) :=
  (if_pos ⟨hc, hp⟩).trans (if_neg (by simp [hst, hclosed]))

theorem exec_parkLimitExpiry {s : State} {slot : Slot} {q : QItem} (hn : nodeUp s = true)
    (hq : (reqOf s slot).queue.find? (·.parked) = some q) (hsent : (reqOf s slot).withheldSent = false)
    (hbad : (reqOf s slot).entryBad = false) (hst : (reqOf s slot).st ≠ .closing) (hpark : parks s (reqOf s slot) = true)
    (hroom : roomFor s slot = true) (hlimit : (fnOf s (reqOf s slot).fn).act.parkLimit.toNat ≤ q.boundaries) :
    exec (.parkLimitExpiry slot) s = .next (settle (issue (modReq s slot fun r => { r with withheldSent := true }) slot
      { flags := 8 ||| flagIf (s.boot.verState == 2) 4, tick := q.tick, handle := handleOf s slot
        body := .verdict { position := (withheldPos (reqOf s slot) q).1
                           stage := BitVec.ofNat 4 (withheldPos (reqOf s slot) q).2, cls := 2
                           deltaVersion := (deltaVersionOf s (reqOf s slot) q.tick).truncate 16 } })) := by
  show execParkLimitExpiry slot s = _
  unfold execParkLimitExpiry
  dsimp only
  rw [hq]
  exact if_neg (by simp [hn, hsent, hbad, hst, hpark, hroom, hlimit])

/-- Settles O32: each wait ends where its condition holds. -/
theorem waitsEnd : Obligations.WaitsEnd := by
  unfold Obligations.WaitsEnd
  refine ⟨⟨fun slot q rest s hn hf hq hr => ⟨fun hk => ?_, fun hk hp => ?_⟩,
      fun slot s hc hw ht => if_pos ⟨hc, hw, ht⟩, fun slot p s => exec_vocabOverflowRead⟩,
    fun slot q s => exec_parkLimitExpiry, fun slot s hc hi ht hf hp hl => if_pos ⟨hc, hi, ht, hf, hp, hl⟩⟩
  · rw [exec_descriptorDequeue hn hf, takeHead_of hq hr, if_neg hk]
  · rw [exec_descriptorDequeue hn hf, takeHead_of hq hr, if_pos ⟨hk, hp⟩]

end Sys2Proof.Machine
end

section
/-! SUPPORT. The Mortise array (07): updates of entries, cursor, shadow, searches, cascade frames and verdicts (04). -/
namespace Sys2Proof.Machine
open Sys2Proof

/-! ## The update window and the bulk update (07 R234 to R239) -/

@[simp] theorem entryOf_heard (s : State) (p : Path) (i : W16) (e : Nat) : entryOf (heard s p i) e = entryOf s e := by
  unfold entryOf
  rw [heard_mortise]

theorem guardWrite_free {s : State} {bad : Bool} (h : bad = false) (reason : W16) (f : State → WriteRes) :
    guardWrite s bad reason f = f s := if_neg (ne_true_of_eq_false h)

theorem guardWrite_bad {s : State} {bad : Bool} (h : bad = true) (reason : W16) (f : State → WriteRes) :
    guardWrite s bad reason f = .abort abState reason s := if_pos h

/-- Outside a bulk update a step acts on the window's entry. -/
theorem mgmtStep_heard {s : State} (h : s.mortise.bulkSt ≠ .running) (path : Path) (f : Nat → State → WriteRes) :
    mgmtStep f (heard s path 0x2401) = f s.mortise.winEntry.toNat (heard s path 0x2401) := by
  unfold mgmtStep
  rw [guardWrite_free (by simpa using h), heard_mortise]

section Window
variable {s : State} {path : Path} (hs : Served s path 0x2401 2) (hb : s.mortise.bulkSt ≠ .running)
include hs hb

theorem mortiseInvalidate_of (h : (entryOf s s.mortise.winEntry.toNat).st ≠ .empty) :
    exec (.mortiseInvalidate path) s = .next (settle (respond (noteStep (setEntry (heard s path 0x2401)
      s.mortise.winEntry.toNat { entryOf s s.mortise.winEntry.toNat with st := .empty }) s.mortise.winEntry.toNat)
      path 0 [])) := by
  refine mgmtWrite_ok (act := invalidateStep) hs ((mgmtStep_heard hb path _).trans (congrArg WriteRes.ok ?_))
  unfold step1
  dsimp only
  rw [entryOf_heard, if_neg h]

theorem mortiseWrite_of (h : (entryOf s s.mortise.winEntry.toNat).st ≠ .valid)
    (hr : badRange s.mortise.winImage = false) :
    exec (.mortiseWrite path) s = .next (settle (respond (noteStep (setEntry (heard s path 0x2401)
      s.mortise.winEntry.toNat { image := s.mortise.winImage, st := .written, wroteAt := s.time.now + 1 })
      s.mortise.winEntry.toNat) path 0 [])) := by
  refine mgmtWrite_ok (act := writeStep) hs ((mgmtStep_heard hb path _).trans ?_)
  rw [guardWrite_free (by simpa using h), heard_mortise, heard_time, if_neg (ne_true_of_eq_false hr)]

theorem mortiseWrite_valid (h : (entryOf s s.mortise.winEntry.toNat).st = .valid) :
    exec (.mortiseWrite path) s = .next (settle (abortReq (heard s path 0x2401) path abState rsEntry 0x2401 2)) := by
  refine mgmtWrite_abort (act := writeStep) hs ((mgmtStep_heard hb path _).trans ?_)
  rw [guardWrite_bad (by simpa using h)]

theorem mortiseValidate_of (h : (entryOf s s.mortise.winEntry.toNat).st = .written) :
    exec (.mortiseValidate path) s = .next (settle (respond (noteStep (setEntry (heard s path 0x2401)
      s.mortise.winEntry.toNat { entryOf s s.mortise.winEntry.toNat with st := .valid }) s.mortise.winEntry.toNat)
      path 0 [])) := by
  refine mgmtWrite_ok (act := validateStep) hs ((mgmtStep_heard hb path _).trans ?_)
  rw [guardWrite_free (by simpa using h), entryOf_heard]

end Window

theorem updateWindowEntry_of {s : State} {path : Path} {v : W32} (hs : Served s path 0x2401 1) :
    (v.toNat ≤ 262143 → exec (.updateWindowEntry path v) s = .next (settle (respond
      { heard s path 0x2401 with mortise := { s.mortise with
          winEntry := v, winImage := (entryOf s v.toNat).image, winState := entryState (entryOf s v.toNat) } }
      path 0 [])))
    ∧ (262143 < v.toNat → exec (.updateWindowEntry path v) s
        = .next (settle (abortReq (heard s path 0x2401) path abRange 0 0x2401 1))) := by
  refine ⟨fun h => mgmtWrite_ok (act := windowEntry v) hs ?_, fun h => mgmtWrite_abort (act := windowEntry v) hs (if_pos h)⟩
  unfold windowEntry
  rw [if_neg (Nat.not_lt.mpr h)]
  simp

theorem bulkUpdateRun_of {s : State} {path : Path} (hs : Served s path 0x2402 3) (hb : s.mortise.bulkSt ≠ .running)
    (hc : s.mortise.bulkCount ≠ 0) :
    exec (.bulkUpdateRun path) s = .next (settle (respond (startJob { heard s path 0x2402 with mortise := { s.mortise with
      bulkSt := .running, bulkApplied := 0, bulkFailing := 0, bulkTotal := s.mortise.bulkCount.toNat, bulkLastAt := 0 } }
      .bulk (weightPort s) s.mortise.bulkAddr (128 * s.mortise.bulkCount.toNat)) path 0 [])) := by
  have hw : ∀ m, weightPort { heard s path 0x2402 with mortise := m } = weightPort s := fun m =>
    (show weightPort { heard s path 0x2402 with mortise := m } = weightPort (heard s path 0x2402) from rfl).trans
      (weightPort_heard ..)
  refine mgmtWrite_ok (act := bulkRun) hs ?_
  unfold bulkRun
  rw [guardWrite_free (by simpa using hb), guardWrite_free (by simpa using hc)]
  dsimp only
  rw [hw, heard_mortise]

theorem exec_bulkUpdateRecord {s : State} {j : Job} {b : List Byte} (hc : coreRuns s = true) (hr : s.mortise.bulkSt = .running)
    (hj : jobOf s .bulk = some j) (hn : s.mortise.bulkStep = none)
    (ht : s.mortise.bulkApplied = 0 ∨ s.mortise.bulkLastAt + 8 ≤ s.time.now)
    (hb : jobSlice j (128 * s.mortise.bulkApplied.toNat) 128 = some b) :
    exec .bulkUpdateRecord s = if ¬ (byteAt b 4).getLsbD 0 ∧ badRange (readImage (b.drop 16)) then
      .next (bulkFail s s.mortise.bulkApplied.toNat) else .next (bulkApply s b) := by
  have hready : s.mortise.bulkApplied.toNat = 0 ∨ s.time.now ≥ s.mortise.bulkLastAt + 8 := ht.imp_left fun h => by simp [h]
  show execBulkUpdateRecord s = _
  unfold execBulkUpdateRecord
  rw [hj]
  refine (if_neg (not_not_intro ⟨hc, hr, hn, hready⟩)).trans ?_
  rw [hb]

@[simp] theorem entryOf_setEntry (s : State) (e : Nat) (v : MEntry) : entryOf (setEntry s e v) e = v := Tbl.get_put_same ..

@[simp] theorem entryOf_noteStep (s : State) (e i : Nat) : entryOf (noteStep s e) i = entryOf s i := rfl

theorem bulkRecordDone_mortise (s : State) : (bulkRecordDone s).mortise.entries = s.mortise.entries
    ∧ (bulkRecordDone s).mortise.bulkApplied = BitVec.ofNat 32 (s.mortise.bulkApplied.toNat + 1)
    ∧ (bulkRecordDone s).mortise.bulkStep = s.mortise.bulkStep := by
  unfold bulkRecordDone dropJob
  dsimp only
  split <;> exact ⟨rfl, rfl, rfl⟩

theorem entryOf_of_entries {s t : State} (h : t.mortise.entries = s.mortise.entries) (e : Nat) : entryOf t e = entryOf s e := by
  unfold entryOf
  rw [h]

/-- The cycle after step 1 of a replace stores its image. -/
theorem bulkCycle_second {s : State} {x : BulkStep} (hx : s.mortise.bulkStep = some x) (h : x.third = false) :
    entryOf (bulkCycle s) x.entry = { image := x.image, st := .written, wroteAt := s.time.now + 1 } := by
  unfold bulkCycle
  rw [hx]
  dsimp only
  rw [if_neg (ne_true_of_eq_false h)]
  exact entryOf_setEntry ..

/-- What step 3 of a replace leaves, but for the record's end. -/
def entryValidated (s : State) (e : Nat) : State :=
  let t := noteStep (setEntry s e { entryOf s e with st := .valid }) e
  { t with mortise := { t.mortise with bulkStep := none } }

/-- The one after that makes the entry VALID and ends the record. -/
theorem bulkCycle_third {s : State} {x : BulkStep} (hx : s.mortise.bulkStep = some x) (h : x.third = true) :
    entryOf (bulkCycle s) x.entry = { entryOf s x.entry with st := .valid }
      ∧ (bulkCycle s).mortise.bulkApplied = BitVec.ofNat 32 (s.mortise.bulkApplied.toNat + 1)
      ∧ (bulkCycle s).mortise.bulkStep = none := by
  have hcycle : bulkCycle s = bulkRecordDone (entryValidated s x.entry) := by
    unfold bulkCycle
    rw [hx]
    exact if_pos h
  obtain ⟨hentries, happlied, hstep⟩ := bulkRecordDone_mortise (entryValidated s x.entry)
  rw [hcycle]
  exact ⟨(entryOf_of_entries hentries x.entry).trans (entryOf_setEntry ..), happlied, hstep⟩

/-- Settles O35: the steps of the window's entry, and the records of a bulk update. -/
theorem entriesAreUpdated : Obligations.EntriesAreUpdated := by
  unfold Obligations.EntriesAreUpdated
  refine ⟨⟨fun path s hs hb => ⟨mortiseInvalidate_of hs hb, mortiseWrite_of hs hb, mortiseValidate_of hs hb,
      mortiseWrite_valid hs hb⟩, fun path v s => updateWindowEntry_of⟩, fun path s => bulkUpdateRun_of,
    fun j b s hc hr hj hn ht hb => ?_, fun x s hx => ⟨bulkCycle_second hx, bulkCycle_third hx⟩⟩
  rw [exec_bulkUpdateRecord hc hr hj hn ht hb]
  refine ⟨fun hi hbad => if_pos ⟨ne_true_of_eq_false hi, hbad⟩, fun hi => ?_, fun hi hbad => ?_⟩
  · rw [if_neg fun h => h.1 hi]
    exact congrArg _ (if_pos hi)
  · rw [if_neg fun h => ne_true_of_eq_false hbad h.2]
    exact congrArg _ (if_neg (ne_true_of_eq_false hi))

/-! ## Cursor, capture, shadow and scrub (07 R230 to R233, R249 to R252) -/

/-- A search whose merged result is back is delivered once its delay has gone by. -/
theorem takeResult_back {s : State} {id : Nat} {x : Search} (hx : searchById s id = some x) (hb : x.back = true)
    (ht : x.issue + searchDelay s ≤ s.time.now) (ecc : Ecc) : takeResult s id ecc = .result (dropSearch s id) x x.found := by
  unfold takeResult
  rw [hx]
  dsimp only
  rw [if_pos (by simp [hb]), if_neg (Nat.not_lt.mpr ht), if_pos hb]

/-- Settles O36: a request of the cursor asks for a search, and its result is shown. -/
theorem cursorAndCapture : Obligations.CursorAndCapture := by
  unfold Obligations.CursorAndCapture
  refine ⟨fun path s hs hb => ⟨mgmtWrite_ok (act := cursorFirst) hs ?_, mgmtWrite_ok (act := cursorNext) hs ?_⟩,
    fun x s hc hcur hx hback ht hbusy => ?_, fun f b s hf hh => ?_, fun b s => ?_, fun path v s hs hv => ?_⟩
  · exact guardWrite_free (by simpa using hb) ..
  · refine (guardWrite_free (by simpa using hb) ..).trans ?_
    rw [heard_mortise]
  · show execCursorStepDone .ok s = _
    unfold execCursorStepDone
    rw [hcur]
    refine (if_neg (not_not_intro hc)).trans ?_
    rw [takeResult_back hx hback ht]
    dsimp only
    rw [if_pos (show (dropSearch s x.id).mortise.curSt = .busy from hbusy), hback]
    rfl
  · unfold cursorResult
    simp [hf, hh]
  · unfold cursorResult
    simp
  · refine mgmtWrite_ok (act := keyArm v) hs ?_
    unfold keyArm
    rw [if_neg (Nat.not_lt.mpr hv), heard_mortise]

/-- The scrub visit of an entry that is not being refreshed. -/
theorem exec_scrubVisit {s : State} (hn : nodeUp s = true) (hon : s.mortise.scrubOn = 1)
    (ht : s.mortise.scrubLast + s.mortise.scrubInterval.toNat ≤ s.time.now) (hat : s.mortise.scrubAt < 262143)
    (hr : s.mortise.refresh.contains s.mortise.scrubAt = false) (hp : portStepped s = false) :
    exec (.scrubVisit false) s
      = (let t := { s with mortise := { s.mortise with scrubAt := s.mortise.scrubAt + 1, scrubLast := s.time.now } }
        if shadowOf (entryOf s s.mortise.scrubAt) = Tbl.get {} s.mortise.shadow s.mortise.scrubAt then .next t
        else
          let u := { setEntry t s.mortise.scrubAt { entryOf s s.mortise.scrubAt with suspect := true } with
            mortise := { (setEntry t s.mortise.scrubAt { entryOf s s.mortise.scrubAt with suspect := true }).mortise with
              mismatches := s.mortise.mismatches + 1, lastMismatch := BitVec.ofNat 32 s.mortise.scrubAt } }
          .next (settle (if (entryOf s s.mortise.scrubAt).suspect then u
            else raise u .mortiseSuspect (mortisePlace s s.mortise.scrubAt) s.mortise.scrubAt))) := by
  have hlast : decide (s.mortise.scrubAt + 1 ≥ 262144) = false := decide_eq_false (by omega)
  show execScrubVisit false s = _
  unfold execScrubVisit
  dsimp only
  rw [if_neg (by simp [hn, hon, ht, hp]), hlast, if_neg (ne_true_of_eq_false hr)]
  rfl

/-- Settles O37: the shadow slot takes the entry, and the scrubber marks an entry that differs from its slot. -/
theorem shadowAndScrub : Obligations.ShadowAndScrub := by
  unfold Obligations.ShadowAndScrub
  refine ⟨fun e s hc hr => if_pos (Bool.and_eq_true_iff.mpr ⟨hc, hr⟩), fun s hn hon ht hat hr hp => ?_⟩
  rw [exec_scrubVisit hn hon ht hat hr hp]
  exact ⟨fun h => if_pos h, fun h => if_neg h⟩

/-! ## Search results and cascade frames (07 R226 to R229, R243 to R247) -/

/-- A single stack's search is delivered when its delay has gone by, with the winner's action word. -/
theorem takeResult_single {s : State} {id : Nat} {x : Search} (hx : searchById s id = some x) (hc : cascaded s = false)
    (hsent : x.sent = false) (hb : x.back = false) (ht : x.issue + 20 ≤ s.time.now) (ecc : Ecc) :
    takeResult s id ecc = (let r := readAction s x.found x.issue ecc (searchHandle s x.req)
      .result (dropSearch r.1 id) x r.2) := by
  have hdelay : searchDelay s = 20 := if_neg (ne_true_of_eq_false hc)
  unfold takeResult
  rw [hx]
  dsimp only
  rw [if_pos (by simp [hb, hc, hsent]), hdelay, if_neg (Nat.not_lt.mpr ht), if_neg (ne_true_of_eq_false hb)]

theorem askerSlot_remote {a : Asker} {slot : Slot} (h : askerSlot a = some slot) :
    a ≠ .cursor ∧ ∀ o t c st, a ≠ .remote o t c st := by
  constructor
  · rintro rfl; cases h
  · rintro o t c st rfl; cases h

theorem exec_cascadeTimeout {s : State} {id : Nat} {x : Search} {slot : Slot} (hcore : coreRuns s = true)
    (hx : searchById s id = some x) (ha : askerSlot x.req.asker = some slot) (hc : cascaded s = true) (hb : x.back = false)
    (ht : x.issue + searchDelay s + 256 ≤ s.time.now) :
    exec (.cascadeTimeout id) s
      = .next (settle (applyResult (reportTimeout (dropSearch s id) x) x.req { fault := true })) := by
  obtain ⟨hcursor, hremote⟩ := askerSlot_remote ha
  show execCascadeTimeout id s = _
  unfold execCascadeTimeout
  rw [hx]
  dsimp only
  rw [if_neg, if_neg hcursor]
  · rfl
  · split
    next h => exact (hremote _ _ _ _ h).elim
    next => simp [hcore, hb, hc, ht]

/-- Settles O38: a result acts on its request, and a merged one that is late did not complete. -/
theorem searchResults : Obligations.SearchResults := by
  unfold Obligations.SearchResults
  refine ⟨fun id ecc x slot s hcore hx ha hc hsent hb ht => ?_, fun id x slot s => exec_cascadeTimeout⟩
  show execMortiseSearchResult id ecc s = _
  unfold execMortiseSearchResult
  rw [hx]
  refine (if_neg (by simp [hcore, ha])).trans ?_
  rw [takeResult_single hx hc hsent hb ht]
  rfl

section Frames
variable {s : State} (hn : nodeUp s = true) (hc : cascaded s = true)
include hn hc

theorem exec_cascadeKeyFrame (f : KeyFrame) (crc : W16) (ecc : Ecc) :
    exec (.cascadeKeyFrame f crc ecc) s
      = if crc ≠ KeyFrame.crc f then
          done (raise { s with mortise := { s.mortise with framesDropped := s.mortise.framesDropped + 1 } }
            .cascadeCrc (hostPlace 10) f.origin.toNat)
        else if f.origin = posBits s then .next s
        else .next (askSearch { s with mortise := { s.mortise with outFrames := .key f :: s.mortise.outFrames } }
          { asker := .remote f.origin f.tag f.cursor f.start, key := f.key, tagBase := f.tagBase
            tagLimit := f.tagLimit, level := 1, order := 0, ecc := ecc }) := if_neg (not_not_intro ⟨hn, hc⟩)

theorem cascadeResultFrame_dropped {f : ResultFrame} {crc : W16} (h : crc ≠ ResultFrame.crc f) :
    exec (.cascadeResultFrame f crc) s = .next (settle (raise
        { s with mortise := { s.mortise with framesDropped := s.mortise.framesDropped + 1 } } .cascadeCrc (hostPlace 10)
        f.origin.toNat)) := (if_neg (not_not_intro ⟨hn, hc⟩)).trans (if_pos h)

theorem cascadeResultFrame_own {f : ResultFrame} (h : f.origin = posBits s) :
    exec (.cascadeResultFrame f (ResultFrame.crc f)) s
      = match s.mortise.searches.find? (awaited s f.tag) with
        | some x => .next (replaceSearch s { x with back := true, found := foundOf f })
        | none => .next s :=
  (if_neg (not_not_intro ⟨hn, hc⟩)).trans ((if_neg (not_not_intro rfl)).trans (if_pos h))

theorem cascadeResultFrame_other {f : ResultFrame} (h : f.origin ≠ posBits s) :
    exec (.cascadeResultFrame f (ResultFrame.crc f)) s
      = match s.mortise.searches.find? (ofFrame f) with
        | some x =>
          let cursor := match x.req.asker with
            | .remote _ _ c _ => c
            | _ => false
          let t := dropSearch s x.id
          .next { t with mortise := { t.mortise with
            outFrames := .result (frameOf f.origin f.tag (mergeFound cursor (foundOf f) x.found)) :: t.mortise.outFrames } }
        | none => .next s :=
  (if_neg (not_not_intro ⟨hn, hc⟩)).trans ((if_neg (not_not_intro rfl)).trans (if_neg h))

end Frames

theorem issueRemote_miss {s : State} {q : SearchReq} {o : BitVec 2} {tag : BitVec 10} {start : BitVec 20}
    (hq : q.asker = .remote o tag false start) (hmiss : (findLocal s q.key q.tagBase q.tagLimit).hit = false) :
    issueRemote s q = { s with mortise := { s.mortise with
      nextId := s.mortise.nextId + 1, keyAt := s.time.now + 1
      searches := (s.mortise.searches.filter fun y => !remoteOver s o tag y)
        ++ [{ id := s.mortise.nextId, issue := s.time.now, found := findLocal s q.key q.tagBase q.tagLimit, tag := tag
              req := q }] } } := by
  have hread : readAction s (findLocal s q.key q.tagBase q.tagLimit) s.time.now q.ecc 0
      = (s, findLocal s q.key q.tagBase q.tagLimit) := if_pos (by simp [hmiss])
  unfold issueRemote
  rw [hq]
  dsimp only
  rw [if_neg Bool.false_ne_true, hread]

/-- Settles O39: each frame by its CRC, its origin and the search it names. -/
theorem cascadeFrames : Obligations.CascadeFrames := by
  unfold Obligations.CascadeFrames
  intro s hn hc
  refine ⟨fun f crc ecc h => (exec_cascadeKeyFrame hn hc ..).trans (if_pos h),
    fun f ecc h => (exec_cascadeKeyFrame hn hc ..).trans ((if_neg (not_not_intro rfl)).trans (if_pos h)),
    fun f ecc h => (exec_cascadeKeyFrame hn hc ..).trans ((if_neg (not_not_intro rfl)).trans (if_neg h)),
    fun q o tag start => issueRemote_miss, fun f crc => cascadeResultFrame_dropped hn hc, fun f x h hx => ?_,
    fun f x cursor start h hx ha => ?_, fun f hnone => ?_⟩
  · rw [cascadeResultFrame_own hn hc h, hx]
  · rw [cascadeResultFrame_other hn hc h, hx]
    dsimp only
    rw [ha]
    rfl
  · by_cases h : f.origin = posBits s
    · rw [if_pos h] at hnone
      rw [cascadeResultFrame_own hn hc h, hnone]
    · rw [if_neg h] at hnone
      rw [cascadeResultFrame_other hn hc h, hnone]

/-! ## The verdict of a search (04 R136, R137, R145, R148, R153) -/

theorem wordClass_within {stage : Nat} {w : W64} (h : wClass w ≤ 4) (hcut : ¬ (stage = 0 ∧ wClass w = 3)) :
    wordClass stage w = wClass w := by
  unfold wordClass
  dsimp only
  rw [if_neg (Nat.not_lt.mpr h), if_neg hcut]

theorem wordClass_above {stage : Nat} {w : W64} (h : 4 < wClass w) : wordClass stage w = 2 := by
  unfold wordClass
  simp [h]

theorem wordClass_cut_prompt {w : W64} (h : wClass w = 3) : wordClass 0 w = 4 := by
  unfold wordClass
  simp [h]

section Verdict
variable (s : State) (f : FnSet) (stage : Nat) {q : SearchReq} {x : Found}

/-- With no error the winner's action word gives class and tag. -/
theorem decideVerd_hit (hx : x.fault = false) (hq : q.fault = false) (hh : x.hit = true) :
    (decideVerd s f stage q x).cls = BitVec.ofNat 4 (wordClass stage x.action)
      ∧ (decideVerd s f stage q x).tag = wTag x.action := by
  unfold decideVerd
  simp [hx, hq, hh]

theorem decideVerd_miss (hx : x.fault = false) (hh : x.hit = false) :
    (decideVerd s f stage q x).word = f.defaultAction ∧ (decideVerd s f stage q x).tag = 0xFFFFFFFF := by
  unfold decideVerd
  simp [hx, hh]

/-- An error that touched the search gives the class of the fault preference, and its flag. -/
theorem decideVerd_fault (h : x.fault = true ∨ q.fault = true) :
    (decideVerd s f stage q x).cls = (if f.faultPref = 1 then 1 else 2)
      ∧ (decideVerd s f stage q x).flags.getLsbD 1 = true := by
  have htouched : (x.fault || q.fault) = true := (Bool.or_eq_true ..).mpr h
  unfold decideVerd
  simp only [htouched, if_true]
  refine ⟨?_, ?_⟩
  · split <;> rfl
  · simp [flagIf]

end Verdict

/-- Settles O40: the class of a verdict is its action word's, the default's or the fault preference's. -/
theorem verdictOfASearch : Obligations.VerdictOfASearch := by
  unfold Obligations.VerdictOfASearch
  intro f stage q x s _
  refine ⟨fun hx hq hh hw hcut => ?_, fun hx hq hh hw => ?_, fun hx hq hh hs hw => ?_, decideVerd_miss s f stage,
    decideVerd_fault s f stage⟩
  · have h := decideVerd_hit s f stage hx hq hh
    rwa [wordClass_within hw hcut] at h
  · have h := (decideVerd_hit s f stage hx hq hh).1
    rwa [wordClass_above hw] at h
  · subst hs
    have h := (decideVerd_hit s f 0 hx hq hh).1
    rwa [wordClass_cut_prompt hw] at h

/-! ## The ring probe (07 R242) -/

theorem exec_ownProbeReturn {s : State} {t : Nat} (hc : coreRuns s = true) (hp : s.mortise.probe = some t)
    (ht : s.time.now < t + 2000000) (hops : List (Nat × Nat)) :
    exec (.cascadeProbeReturn { origin := s.mortise.position.truncate 2, hops := hops }) s
      = if probeGood s hops then
          done (enterOperational { s with mortise := { s.mortise with probe := none, ring := .up } })
        else done (probeFailed s) := by
  show execCascadeProbeReturn _ s = _
  unfold execCascadeProbeReturn
  refine (if_neg (not_not_intro rfl)).trans ?_
  rw [hp]
  exact if_neg (by simp [hc, ht])

theorem exec_probeTimeout {s : State} {t : Nat} (hp : s.mortise.probe = some t) :
    exec .cascadeProbeTimeout s = if coreRuns s ∧ t + 2000000 ≤ s.time.now then done (probeFailed s) else .next s := by
  show execCascadeProbeTimeout s = _
  unfold execCascadeProbeTimeout
  rw [hp]

/-- Settles O44: a probe that comes back in time and good brings Operational, any other end Pre-operational. -/
theorem ringProbe : Obligations.RingProbe := by
  unfold Obligations.RingProbe
  intro t s hc hp
  refine ⟨fun hops ht => ⟨fun hg => ?_, fun hg => ?_⟩, fun p hne hnmt => ?_, fun ht => ?_, fun ht => ?_⟩
  · exact (exec_ownProbeReturn hc hp ht hops).trans (if_pos hg)
  · exact (exec_ownProbeReturn hc hp ht hops).trans (if_neg (ne_true_of_eq_false hg))
  · exact (if_pos hne).trans (if_pos ⟨hc, hnmt⟩)
  · exact (exec_probeTimeout hp).trans (if_pos ⟨hc, ht⟩)
  · exact (exec_probeTimeout hp).trans (if_neg fun h => by omega)

end Sys2Proof.Machine
end

section
/-! SUPPORT. Management (15, 16): requests on the two paths, and commands that write one object. -/
namespace Sys2Proof.Machine
open Sys2Proof

/-! ## Requests on the two paths (15 R457 to R466) -/

@[simp] theorem sessionOf_countRequest (s : State) (path p : Path) : sessionOf (countRequest s path) p = sessionOf s p := by
  cases path <;> cases p <;> rfl

theorem mbxPost_of {s : State} (h : pathHeard s .mailbox = true) (seq : W16) (frame : List Byte) :
    (s.mgmt.mbxBusy = false → exec (.mbxPost seq frame) s = .next { s with mgmt := { s.mgmt with
      mbxRequest := padTo 64 (frame.take 64), mbxPosted := seq, mbxBusy := true, mbxRejected := false, mbxValid := false } })
    ∧ (s.mgmt.mbxBusy = true → exec (.mbxPost seq frame) s
        = .next { s with mgmt := { s.mgmt with mbxRejected := true } }) :=
  ⟨fun hb => (if_neg (not_not_intro h)).trans (if_neg (ne_true_of_eq_false hb)),
    fun hb => (if_neg (not_not_intro h)).trans (if_pos hb)⟩

/-- What a write request does on a path that is heard. -/
def writeServed (path : Path) (index : W16) (sub : Byte) (xfer : Xfer) (value : List Byte) (sess : Option Session)
    (s : State) : State :=
  match xfer, sess with
  | .expedited, none => finishWrite path index sub (dictWrite path index sub value (noteWrite s path index))
  | .expedited, some _ => abortReq (noteWrite s path index) path abSession 0 index sub
  | .initiate total, none => beginDownload s path index sub total.toNat value
  | .initiate _, some _ => abortReq s path abSession 0 index sub
  | .segment last, some x =>
    if x.upload then abortSession s path x abService else downloadSegment s path x last value
  | .segment _, none => abortReq s path abService 0 index sub

/-- What a read request does on a path that is heard. -/
def readServed (path : Path) (index : W16) (sub : Byte) (xfer : Xfer) (sess : Option Session) (s : State) : State :=
  match xfer, sess with
  | .expedited, none => answerRead s path index sub
  | .initiate _, none => beginUpload s path index sub
  | .segment last, some x => if x.upload then uploadSegment s path x last else abortSession s path x abService
  | .segment _, none => abortReq s path abService 0 index sub
  | _, some _ => abortReq s path abSession 0 index sub

section Requests
variable {s : State} {path : Path} (h : pathHeard s path = true) (idx : W16) (sub : Byte)
include h

theorem exec_registerWrite_heard (xfer : Xfer) (data : List Byte) :
    exec (.registerWrite path idx sub xfer data) s
      = .next (settle (writeServed path idx sub xfer data (sessionOf s path) (countRequest s path))) := by
  show execRegisterWrite path idx sub xfer data s = _
  unfold execRegisterWrite writeServed
  rw [if_neg (not_not_intro h)]
  dsimp only
  rw [sessionOf_countRequest]
  cases xfer with
  | expedited => cases sessionOf s path <;> rfl
  | initiate total => cases sessionOf s path <;> rfl
  | segment last =>
    cases sessionOf s path with
    | none => rfl
    | some x => exact (apply_ite done _ _ _).symm

theorem exec_usdoUpload_heard (xfer : Xfer) :
    exec (.usdoUpload path idx sub xfer) s
      = .next (settle (readServed path idx sub xfer (sessionOf s path) (countRequest s path))) := by
  show execUsdoUpload path idx sub xfer s = _
  unfold execUsdoUpload readServed
  rw [if_neg (not_not_intro h)]
  dsimp only
  rw [sessionOf_countRequest]
  cases xfer <;> cases sessionOf s path <;> rfl

section Idle
variable (hs : sessionOf s path = none)
include hs

theorem registerWrite_expedited (data : List Byte) :
    exec (.registerWrite path idx sub .expedited data) s
      = .next (settle (finishWrite path idx sub (dictWrite path idx sub data (heard s path idx)))) := by
  rw [exec_registerWrite_heard h, hs]
  rfl

theorem registerWrite_initiate (data : List Byte) (n : W32) (hn : n.toNat ≤ 65536) (hd : data.length ≤ n.toNat)
    (ho : writeOpen (countRequest s path) path idx sub n.toNat = none) :
    exec (.registerWrite path idx sub (.initiate n) data) s = .next (settle (respond
        (openSession (countRequest s path) path idx sub false data n.toNat) path 0 [])) := by
  rw [exec_registerWrite_heard h, hs]
  unfold writeServed beginDownload
  dsimp only
  rw [if_neg (by omega), ho]

theorem usdoUpload_expedited (b : List Byte) (hr : dictRead (countRequest s path) path idx sub = .inl b) :
    exec (.usdoUpload path idx sub .expedited) s = .next (settle (respond (countRequest s path) path 0 b)) := by
  rw [exec_usdoUpload_heard h, hs]
  unfold readServed answerRead
  dsimp only
  rw [hr]

theorem usdoUpload_initiate (b : List Byte) (n : W32) (hr : dictRead (countRequest s path) path idx sub = .inl b) :
    exec (.usdoUpload path idx sub (.initiate n)) s = .next (settle (respond
        (openSession (countRequest s path) path idx sub true b b.length) path 0 (leBytes 4 b.length))) := by
  rw [exec_usdoUpload_heard h, hs]
  unfold readServed beginUpload
  dsimp only
  rw [hr]

theorem usdoUpload_abort (code : W32) (hr : dictRead (countRequest s path) path idx sub = .inr code) (x : Xfer)
    (hx : ∀ l, x ≠ .segment l) :
    exec (.usdoUpload path idx sub x) s = .next (settle (abortReq (countRequest s path) path code 0 idx sub)) := by
  rw [exec_usdoUpload_heard h, hs]
  unfold readServed answerRead beginUpload
  cases x with
  | expedited => dsimp only; rw [hr]
  | initiate n => dsimp only; rw [hr]
  | segment l => exact absurd rfl (hx l)

end Idle

section Open
variable {x : Session} (hs : sessionOf s path = some x)
include hs

theorem registerWrite_inside (data : List Byte) :
    exec (.registerWrite path idx sub .expedited data) s
      = .next (settle (abortReq (heard s path idx) path abSession 0 idx sub)) := by
  rw [exec_registerWrite_heard h, hs]
  rfl

theorem registerWrite_lastSegment (data : List Byte) (hu : x.upload = false) :
    exec (.registerWrite path idx sub (.segment true) data) s
      = .next (settle (downloadSegment (countRequest s path) path x true data)) := by
  rw [exec_registerWrite_heard h, hs]
  exact congrArg done (if_neg (ne_true_of_eq_false hu))

theorem usdoUpload_lastSegment (hu : x.upload = true) :
    exec (.usdoUpload path idx sub (.segment true)) s
      = .next (settle (respond (setSession (countRequest s path) path none) path 0 x.data)) := by
  rw [exec_usdoUpload_heard h, hs]
  exact congrArg done (if_pos hu)

end Open
end Requests

theorem exec_usdoSegmentTimeout {s : State} {path : Path} {x : Session} (hs : sessionOf s path = some x) :
    exec (.usdoSegmentTimeout path) s
      = if coreRuns s ∧ x.since.toNat + 1000000 < s.time.gtAccepted.toNat then
          .next (settle (abortReq (setSession s path none) path abTimeout 0 x.index x.sub)) else .next s := by
  show execUsdoSegmentTimeout path s = _
  unfold execUsdoSegmentTimeout
  rw [hs]
  rfl

/-- Settles O46: each request by its transfer and the session that is open on its path. -/
theorem managementRequests : Obligations.ManagementRequests := by
  unfold Obligations.ManagementRequests
  refine ⟨fun seq frame s h => mbxPost_of h seq frame, fun path idx sub s h hs => ⟨registerWrite_expedited h idx sub hs,
      registerWrite_initiate h idx sub hs, usdoUpload_expedited h idx sub hs, usdoUpload_initiate h idx sub hs,
      usdoUpload_abort h idx sub hs⟩,
    fun path x idx sub data s h hs => ⟨registerWrite_inside h idx sub hs data, registerWrite_lastSegment h idx sub hs data,
      usdoUpload_lastSegment h idx sub hs⟩, fun path x s hc hs => ⟨fun ht => ?_, fun ht => ?_⟩⟩
  · exact (exec_usdoSegmentTimeout hs).trans (if_pos ⟨hc, ht⟩)
  · exact (exec_usdoSegmentTimeout hs).trans (if_neg fun h => by omega)

/-! ## Commands that write one object (16, 19, 12, 13, 04) -/

@[simp] theorem tenantOpen_heard (s : State) (p : Path) (i : W16) (t : BitVec 14) :
    tenantOpen (heard s p i) t = tenantOpen s t := by cases p <;> rfl
@[simp] theorem engineBound_heard (s : State) (p : Path) (i : W16) (e : Nat) :
    engineBound (heard s p i) e = engineBound s e := by cases p <;> rfl
@[simp] theorem patternUsed_heard (s : State) (p : Path) (i : W16) (e : Nat) :
    patternUsed (heard s p i) e = patternUsed s e := by cases p <;> rfl
@[simp] theorem startCheck_heard (s : State) (p : Path) (i : W16) (f : Fin 64) :
    startCheck (heard s p i) f = startCheck s f := by cases p <;> rfl

/-- ACKNOWLEDGE takes a mixed pair that is the one shown (19 R549). -/
theorem acknowledge_of {s : State} {path : Path} (h : Served s path 0x2A10 3) :
    (s.boot.verState = 1 → s.boot.pairId = s.boot.pair → exec (.acknowledge path) s = .next (settle (respond
      { heard s path 0x2A10 with boot := { s.boot with verState := 2 } } path 0 [])))
    ∧ (s.boot.verState ≠ 1 ∨ s.boot.pairId ≠ s.boot.pair → exec (.acknowledge path) s
      = .next (settle (abortReq (heard s path 0x2A10) path abState 0 0x2A10 3))) := by
  refine ⟨fun hv hp => mgmtWrite_ok (act := acknowledgeWrite 0x55A7) h ?_,
    fun hbad => mgmtWrite_abort (act := acknowledgeWrite 0x55A7) h ?_⟩
  · refine (if_neg (not_not_intro rfl)).trans ((guardWrite_free (by simp [hv, hp]) ..).trans ?_)
    rw [heard_boot]
  · refine (if_neg (not_not_intro rfl)).trans (guardWrite_bad ?_ ..)
    simpa using hbad

section Tenant
variable {s : State} {path : Path} (h : Served s path 0x3000 2)
include h

theorem tenantOff_of (ho : tenantOpen s (selectedTenant s) = 0) :
    exec (.tenantValidWrite path 0) s = .next (settle (respond
      (setTenant (heard s path 0x3000) (selectedTenant s) { tenantOf s (selectedTenant s) with valid := false }) path 0 [])) := by
  refine mgmtWrite_ok (act := tenantValid 0) h ?_
  unfold tenantValid modTenant
  simp [ho, guardWrite_free]

theorem tenantOff_used (ho : 0 < tenantOpen s (selectedTenant s)) :
    exec (.tenantValidWrite path 0) s = .next (settle (abortReq (heard s path 0x3000) path abState rsInUse 0x3000 2)) := by
  refine mgmtWrite_abort (act := tenantValid 0) h ?_
  unfold tenantValid
  simp [ho, guardWrite_bad]

theorem tenantOn_of (hv : (tenantOf s (selectedTenant s)).valid = false) :
    exec (.tenantValidWrite path 1) s = .next (settle (respond
      (setTenant (heard s path 0x3000) (selectedTenant s) { tenantOf s (selectedTenant s) with
        valid := true, deficit := 0
        bucket := 256 * (max (tenantOf s (selectedTenant s)).budgetNow.toNat
          (tenantOf s (selectedTenant s)).burstNow.toNat : Nat) }) path 0 [])) := by
  refine mgmtWrite_ok (act := tenantValid 1) h ?_
  unfold tenantValid modTenant
  simp [hv]

end Tenant

theorem tuningEnable_of {s : State} {path : Path} {v : Byte} (h : Served s path 0x2700 1) (hv : v.toNat ≤ 1) :
    exec (.tuningEnable path v) s = .next (settle (respond
      { heard s path 0x2700 with tune := { s.tune with enable := v } } path 0 [])) := by
  refine mgmtWrite_ok (act := tuningEnable v) h ((if_neg (Nat.not_lt.mpr hv)).trans ?_)
  rw [heard_tune]

/-- An engine joins the pool at the next tick, and leaves it at once when nothing uses it. -/
theorem enginePool_of {s : State} {path : Path} {e : Fin 56} (h : Served s path (0x2100 + BitVec.ofNat 16 e.val) 1) :
    exec (.enginePoolWrite path e 1) s = .next (settle (respond
      (modEng (heard s path (0x2100 + BitVec.ofNat 16 e.val)) e.val fun v => { v with poolNext := !v.pool }) path 0 []))
    ∧ (engineBound s e.val = false → patternUsed s e.val = false →
      exec (.enginePoolWrite path e 0) s = .next (settle (respond
        (modEng (heard s path (0x2100 + BitVec.ofNat 16 e.val)) e.val fun v => { v with pool := false, poolNext := false })
        path 0 []))) := by
  refine ⟨mgmtWrite_ok (act := enginePool e 1) h ?_, fun hb hp => mgmtWrite_ok (act := enginePool e 0) h ?_⟩ <;>
    unfold enginePool <;> dsimp only
  · rw [if_neg (by decide), if_pos rfl]
  · rw [if_pos rfl, guardWrite_free (by simp [hb, hp])]

section Function
variable {s : State} {path : Path} {f : Fin 64} (h : Served s path (fnIndex f) 1) (ho : s.mgmt.nmt = .operational)
include h ho

theorem functionStart_good (hc : startCheck s f = 1) :
    exec (.functionStart path f) s = .next (settle (respond
      (modFn (heard s path (fnIndex f)) f fun v => { v with st := .starting, lastStart := 1 }) path 0 [])) := by
  refine mgmtWrite_ok (act := functionStart f) h ?_
  unfold functionStart applyStart
  simp [ho, hc]

theorem functionStart_bad (hc : startCheck s f ≠ 1) (hon : startCheck s f ≠ 0x10) :
    exec (.functionStart path f) s = .next (settle (abortReq
      (modFn (heard s path (fnIndex f)) f fun v => { v with st := .idle, lastStart := startCheck s f }) path abState
      ((startCheck s f).zeroExtend 16) (fnIndex f) 1)) := by
  refine mgmtWrite_abort (act := functionStart f) h ?_
  unfold functionStart applyStart
  simp only [heard_nmt, ho, startCheck_heard, not_true, if_false, hc, hon, ne_eq]

theorem functionStop_starting (hst : (fnOf s f).st = .starting) :
    exec (.functionStop path f) s = .next (settle (respond
      (modFn (heard s path (fnIndex f)) f fun v => { v with st := .stopped }) path 0 [])) := by
  refine mgmtWrite_ok (act := functionStop f) h ?_
  unfold functionStop applyStop
  simp [ho, hst]

theorem functionStop_running (hst : (fnOf s f).st = .running) :
    exec (.functionStop path f) s = .next (settle (respond
      (checkStopped (modFn (heard s path (fnIndex f)) f fun v => { v with st := .stopping }) f) path 0 [])) := by
  refine mgmtWrite_ok (act := functionStop f) h ?_
  unfold functionStop applyStop
  simp [ho, hst]

end Function

/-- Settles O47: each command writes its object, or answers with what forbids it. -/
theorem objectCommands : Obligations.ObjectCommands := by
  unfold Obligations.ObjectCommands
  intro path s
  refine ⟨fun h => mgmtWrite_ok (act := errorListWrite 0) h rfl, fun h => mgmtWrite_ok (act := rearmWrite 1) h ?_,
    acknowledge_of, fun h => ⟨tenantOff_of h, tenantOn_of h, tenantOff_used h⟩, fun v => tuningEnable_of,
    fun e => enginePool_of, fun f h ho => ⟨functionStart_good h ho, functionStart_bad h ho, functionStop_starting h ho,
      functionStop_running h ho⟩⟩
  unfold rearmWrite store setErr
  rw [heard_err]
  rfl

end Sys2Proof.Machine
end

section
/-! SUPPORT. Loads and unloads of plans, vocabularies and grammars, and the ends of all loads (06, 08, 13). -/
namespace Sys2Proof.Machine
open Sys2Proof

@[simp] theorem anyReq_heard (s : State) (p : Path) (i : W16) (f : Request → Bool) : anyReq (heard s p i) f = anyReq s f := by
  cases p <;> rfl

@[simp] theorem weightPort_setPlan (s : State) (p : Byte) (x : Plan) : weightPort (setPlan s p x) = weightPort s := rfl
@[simp] theorem weightPort_setVocab (s : State) (v : Fin 8) (x : Vocab) : weightPort (setVocab s v x) = weightPort s := rfl
@[simp] theorem weightPort_setGrammar (s : State) (g : Fin 64) (x : Grammar) : weightPort (setGrammar s g x) = weightPort s :=
  rfl

/-! ## Plans (08 R273 to R277) -/

section Plan
variable {s : State} {path : Path} (h : Served s path 0x2140 2)
include h

theorem planLoad_empty (hst : (planOf s (selectedPlan s)).st = .empty) :
    exec (.planLoad path) s = .next (settle (respond
      (startJob (setPlan (heard s path 0x2140) (selectedPlan s) { planOf s (selectedPlan s) with st := .loading })
        (.plan (selectedPlan s)) (weightPort s) (planOf s (selectedPlan s)).addr
        (planOf s (selectedPlan s)).len.toNat) path 0 [])) := by
  refine mgmtWrite_ok (act := planLoad) h ?_
  unfold planLoad
  simp [guardWrite_free, hst]

theorem planLoad_loaded (hst : (planOf s (selectedPlan s)).st = .loaded) :
    exec (.planLoad path) s = .next (settle (abortReq (heard s path 0x2140) path abState rsInUse 0x2140 2)) := by
  refine mgmtWrite_abort (act := planLoad) h ?_
  unfold planLoad
  simp [guardWrite_free, guardWrite_bad, hst]

theorem planUnload_unused (hst : (planOf s (selectedPlan s)).st ≠ .loading)
    (hfree : ∀ e ∈ s.fns, e.2.st = .idle ∨ selectedPlan s ∉ boundPlans e.2) :
    exec (.planUnload path) s = .next (settle (respond (holdPegs (freePlanSlots (setPlan (heard s path 0x2140) (selectedPlan s)
      { addr := (planOf s (selectedPlan s)).addr, len := (planOf s (selectedPlan s)).len
        last := (planOf s (selectedPlan s)).last }) (selectedPlan s))) path 0 [])) := by
  have hnone : (s.fns.any fun e => e.2.st != .idle && (boundPlans e.2).contains (selectedPlan s)) = false := by
    refine List.any_eq_false.mpr fun e he => ?_
    rcases hfree e he with hidle | hout
    · simp [hidle]
    · simp [hout]
  refine mgmtWrite_ok (act := planUnload) h ?_
  unfold planUnload
  dsimp only
  rw [selectedPlan_heard, planOf_heard, guardWrite_free (by simpa using hst), heard_fns, guardWrite_free hnone,
    planOf_heard]

end Plan

/-! ## Vocabularies (06 R180 to R182) -/

section Vocabulary
variable {s : State} {path : Path} {v : Fin 8} (h : Served s path (0x2610 + BitVec.ofNat 16 v.val) 1)
include h

theorem vocabLoad_empty (hst : (vocabOf s v).st = .empty) :
    exec (.vocabLoad path v) s = .next (settle (respond
      (startJob (setVocab (heard s path (0x2610 + BitVec.ofNat 16 v.val)) v { vocabOf s v with st := .loading }) (.vocab v)
        (weightPort s) (vocabOf s v).addr (vocabOf s v).len.toNat) path 0 [])) := by
  refine mgmtWrite_ok (act := fun s => vocabLoad s v) h ?_
  unfold vocabLoad
  rw [guardWrite_free (by simp [hst]), guardWrite_free (by simp [hst])]
  dsimp only
  rw [vocabOf_heard, weightPort_setVocab, weightPort_heard]

theorem vocabLoad_loading (hst : (vocabOf s v).st = .loading) :
    exec (.vocabLoad path v) s = .next (settle (abortReq (heard s path (0x2610 + BitVec.ofNat 16 v.val)) path abState rsBusy
      (0x2610 + BitVec.ofNat 16 v.val) 1)) :=
  mgmtWrite_abort (act := fun s => vocabLoad s v) h (guardWrite_bad (by rw [vocabOf_heard, hst]; rfl) ..)

theorem vocabUnload_unused (hst : (vocabOf s v).st ≠ .loading) (hreq : anyReq s (fun r => r.vocab == v) = false)
    (hgram : ∀ e ∈ s.text.grammars, e.2.st = .empty ∨ e.2.against ≠ BitVec.ofNat 8 v.val) :
    exec (.vocabUnload path v) s
      = .next (settle (respond (emptyVocab (heard s path (0x2610 + BitVec.ofNat 16 v.val)) v) path 0 [])) := by
  have hnone : (s.text.grammars.any fun e => e.2.st != .empty && e.2.against == BitVec.ofNat 8 v.val) = false := by
    refine List.any_eq_false.mpr fun e he => ?_
    rcases hgram e he with hempty | hother
    · simp [hempty]
    · simp [hother]
  refine mgmtWrite_ok (act := fun s => vocabUnload s v) h ?_
  unfold vocabUnload
  rw [guardWrite_free (by simpa using hst), anyReq_heard, heard_text, guardWrite_free (by rw [hreq, hnone]; rfl)]

end Vocabulary

/-! ## Grammars (06 R195 to R203) -/

section Grammars
variable {s : State} {path : Path} {g : Fin 64} (h : Served s path (0x2620 + BitVec.ofNat 16 g.val) 1)
include h

theorem grammarLoad_empty (hst : (grammarOf s g).st = .empty) :
    exec (.grammarLoad path g) s = .next (settle (respond
      (startJob (setGrammar (heard s path (0x2620 + BitVec.ofNat 16 g.val)) g { grammarOf s g with st := .loading })
        (.grammar g) (weightPort s) (grammarOf s g).addr (grammarOf s g).len.toNat) path 0 [])) := by
  refine mgmtWrite_ok (act := fun s => grammarLoad s g) h ?_
  unfold grammarLoad
  rw [guardWrite_free (by simp [hst]), guardWrite_free (by simp [hst])]
  dsimp only
  rw [grammarOf_heard, weightPort_setGrammar, weightPort_heard]

theorem grammarUnload_unused (hst : (grammarOf s g).st ≠ .loading)
    (hreq : anyReq s (fun r => r.grammarEnable && r.grammar == g) = false) :
    exec (.grammarUnload path g) s = .next (settle (respond
      (let u := setGrammar (heard s path (0x2620 + BitVec.ofNat 16 g.val)) g { grammarOf s g with st := .empty, image := [] };
        { u with text := { u.text with maskCache := u.text.maskCache.filter fun l => l.1 != g.val } }) path 0 [])) := by
  refine mgmtWrite_ok (act := fun s => grammarUnload s g) h ?_
  unfold grammarUnload
  rw [guardWrite_free (by simpa using hst), anyReq_heard, guardWrite_free hreq, grammarOf_heard]

end Grammars

/-- Settles O48: an empty slot is loaded, an unused one unloaded, and one that is LOADING or in use is left alone. -/
theorem slotLoads : Obligations.SlotLoads := by
  unfold Obligations.SlotLoads
  exact fun path s => ⟨fun h => ⟨planLoad_empty h, planLoad_loaded h, planUnload_unused h⟩,
    fun v h => ⟨vocabLoad_empty h, vocabLoad_loading h, vocabUnload_unused h⟩,
    fun g h => ⟨grammarLoad_empty h, grammarUnload_unused h⟩⟩

/-! ## The ends of the loads (06, 08, 13) -/

/-- A read that failed leaves a free index behind and nothing else. -/
theorem jobTaken_eq (s : State) (j : Job) : ∃ n, jobTaken s j = { s with time := { s.time with freeIdx := n } } := by
  unfold jobTaken
  split
  · exact ⟨s.time.freeIdx, rfl⟩
  · exact ⟨s.time.freeIdx + 1, rfl⟩

@[simp] theorem vocabOf_jobTaken (s : State) (k : JobKey) (j : Job) (v : Fin 8) :
    vocabOf (jobTaken (dropJob s k) j) v = vocabOf s v := by
  obtain ⟨n, h⟩ := jobTaken_eq (dropJob s k) j
  rw [h]
  rfl

@[simp] theorem grammarOf_jobTaken (s : State) (k : JobKey) (j : Job) (g : Fin 64) :
    grammarOf (jobTaken (dropJob s k) j) g = grammarOf s g := by
  obtain ⟨n, h⟩ := jobTaken_eq (dropJob s k) j
  rw [h]
  rfl

theorem operational_screenLoaded (s : State) (k : JobKey) (j : Job) (b : BitVec 10) (x : Screen) :
    operational (setScreen (jobTaken (dropJob s k) j) b x) = operational s := by
  obtain ⟨n, h⟩ := jobTaken_eq (dropJob s k) j
  rw [h]
  rfl

section Ends
variable {s : State} {j : Job} (hc : coreRuns s = true) (ho : j.over = true)
include hc ho

theorem exec_planLoadDone {p : Byte} (decl : PlanDecl) (hj : jobOf s (.plan p) = some j) (hst : (planOf s p).st = .loading) :
    let u := jobTaken (dropJob s (.plan p)) j
    let k := loadCode j (planCheck s (jobImage s j) j.len) 0x38
    exec (.planLoadDone p decl) s = .next (settle (if k = 1 then
        holdPegs (initPlanSlots (setPlan u p { readPlan j.bytes decl with
          addr := (planOf s p).addr, len := (planOf s p).len, last := 1 }) p decl.tensors)
      else raise (setPlan u p { planOf s p with st := .empty, last := BitVec.ofNat 8 k }) .planImageBad {} p.toNat k)) := by
  show execPlanLoadDone p decl s = _
  unfold execPlanLoadDone
  rw [hj]
  dsimp only
  rw [if_neg (not_not_intro ⟨hc, ho, hst⟩)]
  split <;> rfl

theorem exec_vocabLoadDone {v : Fin 8} (hj : jobOf s (.vocab v) = some j) (hst : (vocabOf s v).st = .loading) :
    let u := jobTaken (dropJob s (.vocab v)) j
    let k := loadCode j (vocabCheck s (jobImage s j)) 0x16
    exec (.vocabLoadDone v) s = .next (settle (if k = 1 then installVocab u v j.bytes
      else raise (setVocab u v { vocabOf s v with st := .empty, last := BitVec.ofNat 8 k }) .vocabImageBad {} v.val k)) := by
  show execVocabLoadDone v s = _
  unfold execVocabLoadDone
  rw [hj]
  dsimp only
  rw [if_neg (not_not_intro ⟨hc, ho, hst⟩), vocabOf_jobTaken]
  split <;> rfl

theorem exec_grammarLoadDone {g : Fin 64} (hj : jobOf s (.grammar g) = some j) (hst : (grammarOf s g).st = .loading) :
    let u := jobTaken (dropJob s (.grammar g)) j
    let k := loadCode j (grammarCheck s g (jobImage s j)) 0x26
    exec (.grammarLoadDone g) s = .next (settle (if k = 1 then
        setGrammar u g { grammarOf s g with st := .loaded, image := j.bytes, last := 1, served := (grammarOf s g).vocab }
      else raise (setGrammar u g { grammarOf s g with st := .empty, last := BitVec.ofNat 8 k }) .grammarImageBad {}
        g.val k)) := by
  show execGrammarLoadDone g s = _
  unfold execGrammarLoadDone
  rw [hj]
  dsimp only
  rw [if_neg (not_not_intro ⟨hc, ho, hst⟩), grammarOf_jobTaken]
  split <;> rfl

theorem exec_deltaLoadDone {d : BitVec 10} (hj : jobOf s (.delta d) = some j) (hst : (dsetOf s d).staging = .loading) :
    let u := jobTaken (dropJob s (.delta d)) j
    let k := (loadCode j (deltaCheck s d (jobImage s j) j.len).1 0x44, (deltaCheck s d (jobImage s j) j.len).2)
    exec (.deltaLoadDone d) s = .next (settle (if k.1 = 1 then
        stagingReady u d { version := (dsetOf s d).stagingNum, fromCut := false, matrices := (readMatrices j.bytes).map (·.1) }
      else failDelta u d k)) := by
  show execDeltaLoadDone d s = _
  unfold execDeltaLoadDone
  rw [hj]
  dsimp only
  rw [if_neg (not_not_intro ⟨hc, ho, hst⟩)]
  split <;> rfl

theorem exec_backboneLoadDone {b : BitVec 10} (hj : jobOf s (.backbone b) = some j)
    (hst : (screenOf s b).other = .loading) :
    let u := jobTaken (dropJob s (.backbone b)) j
    let k := loadCode j (screenCheck s b (jobImage s j) j.len) 0x4B
    exec (.backboneLoadDone b) s = .next (settle (if k = 1 then
        let w := setScreen u b { screenOf s b with
          other := .ready, otherLen := j.len, otherImage := j.bytes, last := 1, firstDue := (screenOf s b).current == 0 }
        if (screenOf s b).current = 0 ∧ ¬ operational s then publishScreen w b else w
      else failScreen u b k)) := by
  show execBackboneLoadDone b s = _
  unfold execBackboneLoadDone
  rw [hj]
  dsimp only
  rw [if_neg (not_not_intro ⟨hc, ho, hst⟩), operational_screenLoaded]
  split <;> rfl

end Ends

/-- Settles O50: the code of the first check that an image fails says whether its slot is filled. -/
theorem loadsComplete : Obligations.LoadsComplete := by
  unfold Obligations.LoadsComplete
  exact ⟨fun p decl j s hc hj ho => exec_planLoadDone hc ho decl hj, fun v j s hc hj ho => exec_vocabLoadDone hc ho hj,
    fun g j s hc hj ho => exec_grammarLoadDone hc ho hj, fun d j s hc hj ho => exec_deltaLoadDone hc ho hj,
    fun b j s hc hj ho => exec_backboneLoadDone hc ho hj⟩

end Sys2Proof.Machine
end

section
/-! SUPPORT. Tiles and pegs (08), and Live Tuning (13): spans, publications, micro-batches and cuts. -/
namespace Sys2Proof.Machine
open Sys2Proof

/-! ## Tiles (08 R253 to R272) -/

theorem exec_tileStart {s : State} {e : Fin 48} {w : TileOf} {l : TileLoad} {i : Nat} {rt : RunTile}
    (hg : gafferRuns s = true) (hw : startOf s e.val w = some (i, rt)) (hr : (engOf s e.val).running = none)
    (hp : (engOf s e.val).pool = true) (hf : loadFits e.val rt.tile (onIntPath s rt.tile rt.use l) l = true) :
    exec (.tileStart e w l) s = .next (modEng (takeTile s e.val w i rt.tile) e.val fun v => { v with
      running := some rt, lastLat := rt.lat, feed := !v.feed
      half0 := if v.feed = true then { load := l } else v.half0
      half1 := if v.feed = true then v.half1 else { load := l }
      overrunBeats := if (rt.lat && decide (32 ≤ e.val) && alternates s (engOf s e.val)) = true
        then v.overrunBeats + 1 else v.overrunBeats }) := by
  show execTileStart e w l s = _
  unfold execTileStart
  dsimp only
  rw [hw]
  exact if_neg (by simp [hg, hr, hp, hf])

theorem readyTile_some {p : Plan} {e i : Nat} {todo : List Nat} {met : W16 → Bool} {t : Tile}
    (h : readyTile p e todo met = some (i, t)) : i ∈ todo ∧ p.tiles[i]? = some t ∧ t.engine.toNat = e := by
  unfold readyTile at h
  split at h
  · exact absurd h (by simp)
  next j hj =>
    split at h
    · exact absurd h (by simp)
    next u hu =>
      split at h
      · exact absurd h (by simp)
      · obtain ⟨rfl, rfl⟩ := Prod.mk.inj (Option.some.inj h)
        have hown := List.find?_some hj
        rw [hu] at hown
        exact ⟨List.mem_of_find?_eq_some hj, hu, of_decide_eq_true hown⟩

/-- What an engine starts of an item is a tile of the item's plan that is still to do and is the engine's own. -/
theorem itemTile_some {s : State} {e : Nat} {x : WorkItem} {i : Nat} {t : Tile} (h : itemTile s e x = some (i, t)) :
    x.placed = true ∧ (fnOf s x.fn).st = .running ∧ i ∈ x.todo
      ∧ (planOf s (fnOf s x.fn).act.plan).tiles[i]? = some t ∧ t.engine.toNat = e := by
  unfold itemTile at h
  split at h
  next hrun =>
    obtain ⟨hready, -⟩ := Option.filter_eq_some_iff.mp h
    exact ⟨hrun.1, hrun.2, readyTile_some hready⟩
  next => exact absurd h (by simp)

/-- When every number names an item, the first of the items is the first number's. -/
theorem itemByN_of_filterMap {s : State} {n : Nat} {rest : List Nat} {x : WorkItem} {xs : List WorkItem}
    (h : (n :: rest).filterMap (itemByN s) = x :: xs) (hlen : (x :: xs).length = (n :: rest).length) :
    itemByN s n = some x := by
  cases hn : itemByN s n with
  | none =>
    rw [List.filterMap_cons_none hn] at h
    have hle := List.length_filterMap_le (itemByN s) rest
    rw [h, hlen, List.length_cons] at hle
    omega
  | some y =>
    rw [List.filterMap_cons_some hn] at h
    rw [(List.cons.inj h).1]

theorem itemByN_number {s : State} {n : Nat} {x : WorkItem} (h : itemByN s n = some x) : x.n = n := by
  have := List.find?_some h
  simpa using this

/-- The first item named gives the tile. -/
theorem startItems_some {s : State} {e n : Nat} {rest : List Nat} {x : WorkItem} {i : Nat} {t : Tile}
    (h : startItems s e (n :: rest) = some (x, i, t)) :
    itemByN s n = some x ∧ itemTile s e x = some (i, t)
      ∧ (if x.latency = true then nextLatency s e else nextBulk s e).any (fun y => y.n == n) = true := by
  unfold startItems at h
  dsimp only at h
  split at h
  · exact absurd h (by simp)
  next y ys hys =>
    split at h
    · exact absurd h (by simp)
    next z hz =>
      obtain ⟨⟨hlen, -, hnext, -⟩, heq⟩ := Option.ite_none_right_eq_some.mp h
      obtain ⟨rfl, hzt⟩ := Prod.mk.inj (Option.some.inj heq)
      have hx := itemByN_of_filterMap hys (hys ▸ hlen)
      exact ⟨hx, hz.trans (congrArg some hzt), itemByN_number hx ▸ hnext⟩

theorem startOf_items {s : State} {e n : Nat} {rest : List Nat} {i : Nat} {rt : RunTile}
    (h : startOf s e (.items (n :: rest)) = some (i, rt)) :
    ∃ x : WorkItem, itemByN s n = some x ∧ x.placed = true ∧ (fnOf s x.fn).st = .running ∧ i ∈ x.todo
      ∧ (planOf s (fnOf s x.fn).act.plan).tiles[i]? = some rt.tile ∧ rt.tile.engine.toNat = e ∧ rt.tick = x.tick
      ∧ rt.use = x.use ∧ (if x.latency = true then nextLatency s e else nextBulk s e).any (fun y => y.n == n) = true := by
  unfold startOf at h
  dsimp only at h
  split at h
  · exact absurd h (by simp)
  next x k t hstart =>
    obtain ⟨hx, htile, hnext⟩ := startItems_some hstart
    obtain ⟨hplaced, hrun, htodo, hti, hown⟩ := itemTile_some htile
    obtain ⟨rfl, rfl⟩ := Prod.mk.inj (Option.some.inj h)
    exact ⟨x, hx, hplaced, hrun, htodo, hti, hown, rfl, rfl, hnext⟩

theorem exec_tileComplete {s : State} {e : Fin 48} {rt : RunTile} (heads : List Heads) (stash : Option StashWrite)
    (errs : List DetErr) (hc : coreRuns s = true) (hr : (engOf s e.val).running = some rt)
    (ht : tileEnd s e.val rt (feedHalf (engOf s e.val)).load ≤ s.time.now) :
    let l := (feedHalf (engOf s e.val)).load
    let es := errs.filter tileErr
    let r := runTile s rt e.val l
    let t := modEng s e.val fun v => { v with
      running := none, stash := r.out.bytes, tilesRun := v.tilesRun + 1
      half0 := if v.feed = true then v.half0 else { load := l, acc := r.acc }
      half1 := if v.feed = true then { load := l, acc := r.acc } else v.half1
      busy := v.busy + BitVec.ofNat 64 (s.time.now - rt.start)
      latBusy := if rt.lat = true then v.latBusy + (s.time.now - max rt.start s.tick.at_) else v.latBusy }
    let u := { t with time := { t.time with
      freeIdx := if multiplies rt.tile = true then t.time.freeIdx else t.time.freeIdx + 1 } }
    let x := noteTile (raiseErrs es u) e.val rt l r
    exec (.tileComplete e heads stash errs) s = .next (settle (tileDone
      (match rt.fn with
        | some f => checkStopped x f
        | none => x)
      rt.of_ rt.tile heads stash (rt.fault || r.num.fault || es.any fun x => errCls x.code == 1))) := by
  show execTileComplete e heads stash errs s = _
  unfold execTileComplete
  dsimp only
  rw [hr]
  exact if_neg (by simp [hc, ht])

theorem exec_pegRewrite {s : State} {e : Fin 48} {k : W16} {x : W16 × Nat} (hc : coreRuns s = true)
    (hx : (engOf s e.val).rewriting.find? (fun x => x.1 == k) = some x)
    (ht : x.2 + ceilDiv (pegBytes s e.val k) 2000 ≤ s.time.now) :
    exec (.pegRewrite e k) s = .next (modEng s e.val fun v => { v with
      rewriting := v.rewriting.filter fun x => x.1 != k, copies := Tbl.ins v.copies k.toNat (screenVersion s k) }) := by
  show execPegRewrite e k s = _
  unfold execPegRewrite
  dsimp only
  rw [hx]
  exact if_neg (by simp [hc, ht])

/-- Settles O51: what starts is a tile of the next item of its class; an end and a rewrite take effect in time. -/
theorem tilesRun : Obligations.TilesRun := by
  unfold Obligations.TilesRun
  exact ⟨fun e w l i rt s => exec_tileStart, fun e n rest i rt s => startOf_items,
    fun e heads stash errs rt s => exec_tileComplete heads stash errs, fun e k x s => exec_pegRewrite⟩

/-! ## Spans and publications (13) -/

/-- A descriptor without fault is seen as it arrived, its tick field good. -/
def seenOf (s : State) (d : Desc) (type : Nat) : Seen :=
  { desc := d, type := BitVec.ofNat 8 type, stamp := s.time.now, tick := tickOf s, gt := s.time.gtAccepted
    reported := false, tickBad := false }

@[simp] theorem reportTickField_seenOf (u s : State) (d : Desc) (type : Nat) : reportTickField u (seenOf s d type) = u :=
  if_neg fun h => Bool.false_ne_true h.1

/-- The span that a FEEDBACK brings. -/
def spanOf (d : Desc) : Span :=
  { length := BitVec.ofNat 32 (pfield d 12 0 32), addr := BitVec.ofNat 64 (pfield d 16 0 64)
    tenant := BitVec.ofNat 14 (pfield d 24 0 14), policy := BitVec.ofNat 12 (pfield d 26 0 12)
    head := BitVec.ofNat 2 (pfield d 28 0 2), target := BitVec.ofNat 16 (pfield d 30 0 16)
    seq := BitVec.ofNat 64 (pfield d 32 0 64), port := d.port }

theorem exec_feedback {s : State} {d : Desc} (h : Clean s d 9) :
    exec (.feedback d) s = if feedbackReason (arrived s d) d ≠ 0 then
        .next (settle (tuneCount (violate (arrived s d) d 9 s.time.now (tickOf s) .feedbackRefused
          (feedbackReason (arrived s d) d) (pfield d 32 0 64)) 2 1))
      else
        let u := tuneCount (arrived s d) 1 1
        .next (settle { u with tune := { u.tune with
          queue := u.tune.queue ++ [spanOf d], lastAccepted := some (spanOf d).seq } }) := by
  have hstamp : stampStage s d 9 = (arrived s d, some (seenOf s d 9)) := stampStage_clean (by decide) (by decide) h
  show execFeedback d s = _
  unfold execFeedback
  rw [hstamp]
  dsimp only
  rw [reportTickField_seenOf]
  rfl

theorem exec_publish {s : State} {d : Desc} (h : Clean s d 10) :
    exec (.publish d) s
      = (let screen := pfield d 12 0 1 == 1
        let t := pfield d 14 0 16
        let v := BitVec.ofNat 32 (pfield d 16 0 32)
        let k := BitVec.ofNat 48 (pfield d 20 0 48)
        let vs := targetVersions s screen t
        let past := decide (s.tick.cur.idx ≠ 0) && !numAfter k s.tick.cur.num
        if t > 1023 ∨ vs.1.isEmpty then
          .next (settle (violate (arrived s d) d 10 s.time.now (tickOf s) .publishRefused 1 v.toNat))
        else if ¬ vs.1.contains v then
          .next (settle (violate (arrived s d) d 10 s.time.now (tickOf s) .publishRefused 2 v.toNat))
        else if v = vs.2 then .next (settle (setPendingPub (arrived s d) screen t none))
        else .next (settle (setPendingPub
          (if past then violate (arrived s d) d 10 s.time.now (tickOf s) .publishPast k.toNat (s.tick.cur.num + 1).toNat
            else arrived s d) screen t
          (some { version := v, tick := k, atNext := past, port := d.port, seq := d.portSeq, stamp := s.time.now })))) := by
  have hstamp : stampStage s d 10 = (arrived s d, some (seenOf s d 10)) := stampStage_clean (by decide) (by decide) h
  show execPublish d s = _
  unfold execPublish
  rw [hstamp]
  dsimp only
  rw [reportTickField_seenOf]
  rfl

theorem publish_target {t : Nat} {v : W32} {vs : List W32} (ht : t ≤ 1023) (hv : v ∈ vs) : ¬ (t > 1023 ∨ vs.isEmpty) := by
  rintro (h | h)
  · omega
  · rw [List.isEmpty_iff.mp h] at hv
    exact List.not_mem_nil hv

theorem publish_version {v : W32} {vs : List W32} (hv : v ∈ vs) : ¬ ¬ vs.contains v :=
  not_not_intro (List.contains_iff_mem.mpr hv)

/-- Settles O52: an accepted span joins the queue; a publication is judged by its target's versions and its tick. -/
theorem feedbackAndPublish : Obligations.FeedbackAndPublish := by
  unfold Obligations.FeedbackAndPublish
  refine ⟨fun d s h => ⟨fun h0 => ?_, fun h0 => (exec_feedback h).trans (if_pos h0)⟩, fun d s h => ?_⟩
  · exact ⟨_, (exec_feedback h).trans (if_neg (not_not_intro h0)), rfl,
      ⟨spanOf d, rfl, rfl, rfl, rfl, rfl, rfl, rfl⟩, frame_of_copied rfl⟩
  · rw [exec_publish h]
    refine ⟨fun ht hv hcur => ?_, fun ht hv hcur hnext => ?_, fun ht hv hcur hidx hpast => ?_, fun hbad => ?_,
      fun ht hne hv => ?_⟩
    all_goals dsimp only
    · rw [if_neg (publish_target ht hv), if_neg (publish_version hv), if_pos hcur]
    · have hnow : (decide (s.tick.cur.idx ≠ 0) && !numAfter (BitVec.ofNat 48 (pfield d 20 0 48)) s.tick.cur.num) = false := by
        rcases hnext with h0 | hafter
        · simp [h0]
        · simp [hafter]
      rw [if_neg (publish_target ht hv), if_neg (publish_version hv), if_neg hcur, hnow]
      rfl
    · have hlate : (decide (s.tick.cur.idx ≠ 0) && !numAfter (BitVec.ofNat 48 (pfield d 20 0 48)) s.tick.cur.num) = true := by
        simp [hidx, hpast]
      rw [if_neg (publish_target ht hv), if_neg (publish_version hv), if_neg hcur, hlate]
      rfl
    · exact if_pos (by simpa using hbad)
    · exact (if_neg (by simp [ht, hne])).trans (if_pos (by simpa using hv))

/-! ## Micro-batches and cuts (13 R398 to R402, R410 to R426) -/

@[simp] theorem formBatch_tick (s : State) (set : BitVec 10) : (formBatch s set).tick = s.tick := by
  unfold formBatch
  dsimp only
  split <;> rfl

/-- A set whose oldest span has waited Fill Ticks forms a batch at the intake close. -/
theorem exec_fillTicksExpiry {s : State} {set : BitVec 10} {x : Span} {rest : List Span} (ho : operational s = true)
    (ht : s.tick.opTick = true) (hon : (if s.tick.intakeClosed then s.tune.enableNow else s.tune.enable) = 1)
    (hf : forms s set = true) (hs : setSpans s set = x :: rest) (hw : s.tune.fillTicks.toNat ≤ x.crossed)
    (hnow : s.time.now = s.tick.at_ + s.tick.intakeClose.toNat) :
    exec (.fillTicksExpiry set) s = .next (if s.tick.intakeClosed then
      placeBatches (formBatch s set) (formBatch s set).tune.batches else formBatch s set) := by
  have hold : ((setSpans s set).head?).any (fun x => decide (s.tune.fillTicks.toNat ≤ x.crossed)) = true := by
    rw [hs]
    exact decide_eq_true hw
  refine (if_pos ⟨ho, ht, hon, hf, hold, .inl hnow⟩).trans ?_
  rw [formBatch_tick]

theorem formBatch_of {s : State} {set : BitVec 10}
    (h : fitSpans (planOf s (dsetOf s set).tuningPlan) s.tune.patches.toNat (setSpans s set) ≠ []) :
    let p := planOf s (dsetOf s set).tuningPlan
    let xs := fitSpans p s.tune.patches.toNat (setSpans s set)
    formBatch s set = tuneCount { s with tune := { s.tune with
      nextSeq := s.tune.nextSeq + 1
      batches := s.tune.batches ++ [{ seq := s.tune.nextSeq, set := set, spans := xs, patches := patchesOf p xs
                                      cost := patchesOf p xs * p.costTune.toNat, plan := (dsetOf s set).tuningPlan }]
      queue := s.tune.queue.filter fun x => !xs.contains x } } 3 1 :=
  if_neg (by simpa using h)

/-- The batch as it completes without fault. -/
def batchDone (s : State) (b : Batch) : Batch :=
  { b with stale := batchStale s b, drop := s.tune.stalePolicy == 1, finished := true }

theorem exec_microBatchComplete {s : State} {seq : W64} {b : Batch} (res : BatchResult) (hc : coreRuns s = true)
    (hb : batchOf s seq = some b) (hp : b.placed = true) (htodo : b.todo = []) (hrun : b.running = 0)
    (hfin : b.finished = false) :
    exec (.microBatchComplete seq res) s
      = if batchFault s b res then
          let u := tuneCount (raise s .tuneFault {} seq.toNat) 9 1
          .next (settle (endBatch (if b.doomed then staleDiscard u b else u) b))
        else
          let t := modBatch s seq fun _ => batchDone s b
          if (dsetOf s b.set).staging = .cutting ∧ ¬ b.doomed then
            .next (setDset t b.set { dsetOf s b.set with cutWait := (dsetOf s b.set).cutWait ++ [(seq, res)] })
          else .next (settle (settleBatch t (batchDone s b) res)) := by
  show execMicroBatchComplete seq res s = _
  unfold execMicroBatchComplete
  rw [hb]
  exact if_neg (by simp [hc, hp, htodo, hrun, hfin])

/-- Settles O53: a batch forms from what fits, and its last tile settles it, faults it or waits for the cut. -/
theorem microBatches : Obligations.MicroBatches := by
  unfold Obligations.MicroBatches
  refine ⟨fun set x rest s ho ht hclosed hon hf hs hw hnow => ?_, fun set x rest s ho ht hclosed hon hf hs hw hnow => ?_,
    fun set s h => ?_, fun seq b res s hc hb hp htodo hrun hfin => ?_⟩
  · rw [exec_fillTicksExpiry ho ht (by rw [hclosed]; exact hon) hf hs hw hnow, hclosed]
    rfl
  · rw [exec_fillTicksExpiry ho ht (by rw [hclosed]; exact hon) hf hs hw hnow, hclosed]
    rfl
  · rw [formBatch_of h]
    exact ⟨rfl, rfl, _, rfl, rfl, rfl, rfl, rfl⟩
  · rw [exec_microBatchComplete res hc hb hp htodo hrun hfin]
    refine ⟨fun hf => if_pos hf, fun hf hset => ?_, fun hf hcut hd => ?_⟩
    · rw [if_neg (ne_true_of_eq_false hf)]
      refine if_neg fun hwait => ?_
      rcases hset with hset | hset
      · exact hset hwait.1
      · exact hwait.2 hset
    · rw [if_neg (ne_true_of_eq_false hf)]
      dsimp only
      rw [if_pos ⟨hcut, ne_true_of_eq_false hd⟩]
      exact ⟨_, rfl, by rw [dsetOf_setDset], by rw [dsetOf_setDset]⟩

theorem exec_cutComplete {s : State} {set : BitVec 10} {v : DVersion} (hc : coreRuns s = true)
    (hv : (dsetOf s set).stagingV = some v) (hst : (dsetOf s set).staging = .cutting)
    (ht : (dsetOf s set).cutAt + ceilDiv (2 * (masterOf (dsetOf s set)).length) 512 ≤ s.time.now) :
    exec (.cutComplete set) s = .next (settle (releaseSteps (tuneCount (stagingReady s set v) 0x0B 1) set)) := by
  show execCutComplete set s = _
  unfold execCutComplete
  dsimp only
  rw [hv]
  exact if_pos ⟨hc, hst, ht⟩

theorem dsetOf_startCut (s : State) (set : BitVec 10) :
    dsetOf (startCut s set) set = (let d := dsetOf (freeStaging s set) set
      { d with
        staging := .cutting, stagingNum := d.highest + 1, highest := d.highest + 1
        stagingV := some (cutVersion d (d.highest + 1)), cutTicks := 0, cutAt := (freeStaging s set).time.now
        stepsSinceCut := false }) := by
  unfold startCut
  dsimp only
  rw [dsetOf_setDset]

/-- Settles O54: an interval that has gone by begins a cut, and a finished one is READY and lets its steps go. -/
theorem cuts : Obligations.Cuts := by
  unfold Obligations.Cuts
  refine ⟨fun set s hc hi ht ha hl hsteps hab => if_pos ⟨hc, hi, ht, ha, hl, hsteps, ne_true_of_eq_false hab⟩,
    fun set v s => exec_cutComplete, fun set s => ?_⟩
  dsimp only
  rw [dsetOf_startCut]
  exact ⟨rfl, rfl, rfl, rfl⟩

end Sys2Proof.Machine
end

section
/-! SUPPORT. Cold storage and masks (11, 06), the checkpoint shard (14), and the tick and global time (02, 18). -/
namespace Sys2Proof.Machine
open Sys2Proof

/-! ## Cold storage and masks (11 R357 to R366) -/

/-- Dropping writes changes the ports and nothing else. -/
theorem dropWrites_ports (s : State) (d : Dest) : ∃ v, dropWrites s d = { s with ports := v } := by
  unfold dropWrites
  induction allPorts generalizing s with
  | nil => exact ⟨s.ports, rfl⟩
  | cons p ps ih =>
    obtain ⟨v, hv⟩ := ih (modPort s p fun v =>
      { v with waiting := v.waiting.filter (fun m => m.dest != d), failedWrites := v.failedWrites.filter (fun m => m.dest != d) })
    exact ⟨v, hv⟩

theorem stopCold_eq (s : State) (slot : Slot) :
    ∃ v, stopCold s slot = dropJob { s with ports := v } (.cold slot) := by
  obtain ⟨v, hv⟩ := dropWrites_ports s (.cold slot)
  exact ⟨v, by rw [stopCold, hv]⟩

theorem jobOf_dropJob (s : State) (k : JobKey) : jobOf (dropJob s k) k = none := by
  unfold jobOf dropJob
  simp

/-- What a cold request is when it expires while paused. -/
def coldReleased (moved : Bool) (r : Request) : Request :=
  { r with
    coldSt := .released, cold := false
    headPage := if moved then none else r.headPage, windowPages := if moved then [] else r.windowPages }

theorem coldExpiry_of {s : State} {slot : Slot} (hc : coreRuns s = true) (hi : s.tick.cur.idx ≠ 0)
    (ht : s.time.now = s.tick.at_) (hst : (reqOf s slot).st = .paused) (hr : (reqOf s slot).coldSt ≠ .released)
    (he : (reqOf s slot).expiry ≠ 0) (hlate : (reqOf s slot).expiry.toNat ≤ s.time.gtAccepted.toNat) :
    ∃ t, exec (.coldExpiry slot) s = .next t ∧ (reqOf t slot).coldSt = .released ∧ (reqOf t slot).st = .paused
      ∧ jobOf t (.cold slot) = none ∧ Frame [.req, .jobs, .ports] s t := by
  obtain ⟨v, hv⟩ := stopCold_eq s slot
  have hexec : exec (.coldExpiry slot) s = .next (modReq (stopCold s slot) slot
      (coldReleased (reqOf s slot).coldSt.slot?.isSome)) := if_pos ⟨hc, hi, ht, hst, hr, he, hlate⟩
  rw [hv] at hexec
  refine ⟨_, hexec, ?_, ?_, ?_, ?_⟩
  · rw [reqOf_modReq]; rfl
  · rw [reqOf_modReq]; exact hst
  · exact jobOf_dropJob { s with ports := v } (.cold slot)
  · exact frame_of_copied rfl

theorem coldMoveComplete_of {s : State} {slot : Slot} {k : Nat} (hc : coreRuns s = true)
    (hk : (reqOf s slot).coldSt = .moving k) (hf : (reqOf s slot).st ≠ .free) (hcl : (reqOf s slot).st ≠ .closing)
    (hw : writesLeft s (.cold slot) = false) (hwait : (reqOf s slot).wait ≠ .copyBack) :
    exec (.coldMoveComplete slot) s = .next (settle (coldCount (modReq s slot fun r => { r with
      cold := true, headPage := none, windowPages := [], coldSt := .moved k }) 1)) := by
  show execColdMoveComplete slot s = _
  unfold execColdMoveComplete
  dsimp only
  rw [hk]
  exact (if_neg (by simp [hc, hf, hcl, hw])).trans (congrArg done (if_neg hwait))

/-- The request once its pages have come back. -/
def coldBack (s : State) (slot : Slot) : State :=
  modReq (dropJob s (.cold slot)) slot fun r => { r with cold := false, wait := .none, expiry := 0, coldSt := .inHbm }

theorem exec_coldCopyBack {s : State} {slot : Slot} {k : Nat} {j : Job} (hc : coreRuns s = true)
    (hk : (reqOf s slot).coldSt = .resuming k) (hj : jobOf s (.cold slot) = some j) (hf : (reqOf s slot).st ≠ .free)
    (hcl : (reqOf s slot).st ≠ .closing) (hl : j.left = 0) :
    exec (.coldCopyBack slot) s = match badPage j.bytes (reqOf s slot).windowPages.length with
      | none => .next (settle (pump (useRecord (modReq (coldBack s slot) slot (reloadPages j.bytes)) slot).1 slot))
      | some page => .next (settle (finishRequest
        (raise (modReq (coldBack s slot) slot fun r => { r with headPage := none, windowPages := [] }) .coldCorrupt {}
          (handleOf s slot).toNat page) slot (reqOf s slot).front 0x80 (tickOf s))) := by
  show execColdCopyBack slot s = _
  unfold execColdCopyBack
  dsimp only
  rw [hk, hj]
  refine (if_neg (by simp [hc, hf, hcl, hl])).trans ?_
  cases badPage j.bytes (reqOf s slot).windowPages.length <;> rfl

/-- Settles O55: a move, a copy back, an expiry and a mask write each where its work is done. -/
theorem coldStorage : Obligations.ColdStorage := by
  unfold Obligations.ColdStorage
  refine ⟨fun slot k s => coldMoveComplete_of, fun slot k j s hc hk hj hf hcl hl => ?_, fun slot s => coldExpiry_of,
    fun g m s hm hw => if_pos (by rw [hm, hw]; rfl)⟩
  rw [exec_coldCopyBack hc hk hj hf hcl hl]
  refine ⟨fun hgood => ?_, fun page hbad => ?_⟩
  · rw [hgood]; rfl
  · rw [hbad]; rfl

/-! ## The checkpoint shard (14 R434 to R444) -/

@[simp] theorem slotSet_heard (s : State) (p : Path) (i : W16) (b : Bool) : slotSet (heard s p i) b = slotSet s b := by
  cases p <;> rfl

@[simp] theorem validSlots_heard (s : State) (p : Path) (i : W16) (fa fb : List Byte) :
    validSlots (heard s p i) fa fb = validSlots s fa fb := by cases p <;> rfl

/-- Which slots are set is kept where a restore begins and where it asks for a shard. -/
theorem slotSet_restoring (s : State) (p : Path) (i : W16) (b : Bool) :
    slotSet { heard s p i with ckpt := { (heard s p i).ckpt with st := .restoring, chosen := none, cands := [] } } b
      = slotSet s b := by cases p <;> rfl

theorem slotSet_ite_shardJob (c : Bool) (s : State) (a b : Bool) (off len : Nat) :
    slotSet (if c = true then shardJob s a off len else s) b = slotSet s b := by
  split <;> rfl

section Checkpoint
variable {s : State} {path : Path} (h : Served s path 0x2800 1)
include h

theorem checkpoint_of {a b : List Byte} (hst : s.ckpt.st = .idle) (ha : slotSet s false = true) (hb : slotSet s true = true) :
    exec (.checkpoint path a b) s = .next (settle (respond { heard s path 0x2800 with ckpt := { s.ckpt with
      st := .snapshotPending, applied := s.time.now
      target := ((validSlots s a b).head?.map fun x => !x.1).getD false
      newSeq := BitVec.ofNat 64 (((validSlots s a b).head?.map fun x => fragSeq x.2 + 1).getD 1) } } path 0 [])) := by
  have hset (t : Bool) : slotSet s t = true := by cases t <;> assumption
  refine mgmtWrite_ok (act := checkpointCmd a b) h ?_
  unfold checkpointCmd
  rw [guardWrite_free (by simp [hst])]
  dsimp only
  rw [validSlots_heard, slotSet_heard, hset, heard_ckpt, heard_time]
  cases validSlots s a b <;> rfl

theorem checkpoint_busy {a b : List Byte} (hst : s.ckpt.st ≠ .idle) :
    exec (.checkpoint path a b) s = .next (settle (abortReq (heard s path 0x2800) path abState rsBusy 0x2800 1)) :=
  mgmtWrite_abort (act := checkpointCmd a b) h (guardWrite_bad (by simpa using hst) ..)

theorem restore_of (hst : s.ckpt.st = .idle) (hn : s.mgmt.nmt = .preOperational) (he : s.tune.enable = 0) :
    let t := { heard s path 0x2800 with ckpt := { s.ckpt with st := .restoring, chosen := none, cands := [] } }
    let u := if slotSet s false = true then shardJob t false 0 4096 else t
    exec (.restore path) s
      = .next (settle (respond (if slotSet s true = true then shardJob u true 0 4096 else u) path 0 [])) := by
  have hrun : restoreCmd (heard s path 0x2800)
      = .ok (let t := { heard s path 0x2800 with
          ckpt := { (heard s path 0x2800).ckpt with st := .restoring, chosen := none, cands := [] } }
        let u := if slotSet t false then shardJob t false 0 4096 else t
        if slotSet u true then shardJob u true 0 4096 else u) := by
    unfold restoreCmd
    rw [guardWrite_free (by simp [hst]), guardWrite_free (by simp [hn]), guardWrite_free (by simp [he])]
  refine mgmtWrite_ok (act := restoreCmd) h (hrun.trans ?_)
  dsimp only
  rw [slotSet_restoring, slotSet_ite_shardJob, slotSet_restoring, heard_ckpt]

theorem restore_operational (hst : s.ckpt.st = .idle) (hn : s.mgmt.nmt = .operational) :
    exec (.restore path) s = .next (settle (abortReq (heard s path 0x2800) path abState rsPreop 0x2800 1)) := by
  refine mgmtWrite_abort (act := restoreCmd) h ?_
  unfold restoreCmd
  rw [guardWrite_free (by simp [hst]), guardWrite_bad (by simp [hn])]

end Checkpoint

theorem exec_checkpointWriteDone {s : State} (hc : coreRuns s = true) (hst : s.ckpt.st = .writing)
    (hw : writesLeft s .checkpoint = false) : exec .checkpointWriteDone s = .next (settle (checkpointNext s)) :=
  if_pos ⟨hc, hst, ne_true_of_eq_false hw⟩

theorem checkpointNext_zero {s : State} (h : s.ckpt.step = .zeroCommit) (ht : s.ckpt.tuned ≤ 64)
    (hsize : 4096 + (shardBytes s.ckpt.sections).length ≤ (slotSize s s.ckpt.target).toNat) :
    checkpointNext s = sendBytes { s with ckpt := { s.ckpt with step := .sections } }
      (weightPort s) .checkpoint (slotBase s s.ckpt.target + 4096) (shardBytes s.ckpt.sections) := by
  unfold checkpointNext
  dsimp only
  rw [h]
  exact (if_neg (Nat.not_lt.mpr ht)).trans (if_neg (Nat.not_lt.mpr hsize))

theorem checkpointNext_sections {s : State} (h : s.ckpt.step = .sections) :
    checkpointNext s = sendBytes { s with
        ckpt := { s.ckpt with step := .fragment, fragment := fragmentHead s }
        stream := { s.stream with copySet := [], freePending := [] } } (weightPort s) .checkpoint
        (slotBase s s.ckpt.target) (fragmentHead s) := by
  unfold checkpointNext
  dsimp only
  rw [h]

theorem checkpointNext_fragment {s : State} (h : s.ckpt.step = .fragment) :
    checkpointNext s = sendBytes { s with ckpt := { s.ckpt with step := .commit } } (weightPort s) .checkpoint
      (slotBase s s.ckpt.target + 4088) (leBytes 8 (commitWord s.ckpt.fragment)) := by
  unfold checkpointNext
  dsimp only
  rw [h]

theorem checkpointNext_commit {s : State} (h : s.ckpt.step = .commit) :
    checkpointNext s = closeCheckpoint { s with ckpt := { s.ckpt with
      snapTick := s.ckpt.newTick.zeroExtend 64, sequence := s.ckpt.newSeq
      lastSlot := BitVec.ofNat 8 (slotNum s.ckpt.target) } } 1 := by
  unfold checkpointNext
  dsimp only
  rw [h]

/-- A checkpoint or a restore ends idle with its result, and what it had in hand is gone. -/
theorem closeCheckpoint_ckpt (s : State) (code : Byte) : (closeCheckpoint s code).ckpt
    = { s.ckpt with st := .idle, last := code, sections := [], fragment := [], chosen := none, tuned := 0, cands := [] } := by
  unfold closeCheckpoint endCheckpoint
  obtain ⟨v, hv⟩ := dropWrites_ports { s with
    ckpt := { s.ckpt with st := .idle, last := code, sections := [], fragment := [], chosen := none, tuned := 0, cands := [] }
    stream := { s.stream with copySet := [], staged := [], freePending := [] } } .checkpoint
  rw [hv]
  rfl

/-- A wait counted for a region leaves the sizes of all regions. -/
theorem regionHalf_countCopyWait (s : State) (r k : Nat) : regionHalf (countCopyWait s r) k = regionHalf s k := by
  unfold regionHalf countCopyWait
  simp only [List.getElem?_modify]
  split <;> cases s.stream.regions[k]? <;> rfl

/-- The state in which a page is staged: its region has counted the wait. -/
def copyWaited (s : State) (page : BitVec 22) : State :=
  match pageRegion s page with
  | some r => countCopyWait s r
  | none => s

theorem copyBeforeWrite_of {s : State} {page : BitVec 22} (hc : coreRuns s = true)
    (hp : s.stream.copySet.contains page = true) (hroom : s.stream.staged.length < 8 * regionHalf s 6) :
    ∃ t, exec (.copyBeforeWrite page) s = .next t ∧ t.stream.staged = s.stream.staged ++ [page]
      ∧ t.stream.copySet = s.stream.copySet.filter (fun p => p != page) ∧ Frame [.stream] s t := by
  have hhalf : regionHalf (copyWaited s page) 6 = regionHalf s 6 := by
    unfold copyWaited
    split
    · exact regionHalf_countCopyWait ..
    · rfl
  obtain ⟨r, hw⟩ : ∃ r, copyWaited s page = { s with stream := { s.stream with regions := r } } := by
    unfold copyWaited
    split
    · exact ⟨_, rfl⟩
    · exact ⟨s.stream.regions, rfl⟩
  have hstaged : (copyWaited s page).stream.staged = s.stream.staged := by rw [hw]
  have hexec : exec (.copyBeforeWrite page) s = .next { copyWaited s page with stream := { (copyWaited s page).stream with
      copySet := (copyWaited s page).stream.copySet.filter (fun p => p != page)
      staged := (copyWaited s page).stream.staged ++ [page] } } :=
    (if_pos ⟨hc, hp⟩).trans (if_neg (by rw [← hhalf, ← hstaged] at hroom; exact Nat.not_le.mpr hroom))
  refine ⟨_, hexec, ?_, ?_, ?_⟩
  · rw [hw]
  · rw [hw]
  · rw [hw]
    exact frame_of_copied rfl

/-- Settles O56: the command waits for its snapshot, and each write that is done begins the next. -/
theorem checkpointSteps : Obligations.CheckpointSteps := by
  unfold Obligations.CheckpointSteps
  refine ⟨fun path a b s h => checkpoint_of h, fun path a b s h => checkpoint_busy h, fun s hc hst hw => ?_,
    fun page s => copyBeforeWrite_of⟩
  rw [exec_checkpointWriteDone hc hst hw]
  refine ⟨fun h ht hsize => ?_, fun h => ?_, fun h => ?_, fun h => ?_⟩
  · rw [checkpointNext_zero h ht hsize]
  · rw [checkpointNext_sections h]
  · rw [checkpointNext_fragment h]
  · rw [checkpointNext_commit h]
    refine ⟨_, rfl, ?_⟩
    rw [show ∀ u, (settle u).ckpt = u.ckpt from fun _ => rfl, closeCheckpoint_ckpt]
    exact ⟨rfl, rfl, rfl, rfl, rfl⟩

/-- The reads of a restore. -/
def isShard : JobKey → Bool
  | .shard _ => true
  | _ => false

theorem isShard_iff {k : JobKey} : isShard k = true ↔ ∃ b, k = .shard b := by
  cases k <;> simp [isShard]

theorem exec_restoreReadDone {s : State} (hc : coreRuns s = true) (hst : s.ckpt.st = .restoring)
    (hjobs : ∀ j ∈ s.jobs, (∃ b, j.key = .shard b) → j.over = true ∧ j.failed = none) (hch : s.ckpt.chosen = none) :
    exec .restoreReadDone s = .next (settle (readCandidate (dropJob (dropJob s (.shard false)) (.shard true))
      (validSlots s (((jobOf s (.shard false)).map Job.bytes).getD [])
        (((jobOf s (.shard true)).map Job.bytes).getD [])))) := by
  have hshards : ∀ j ∈ s.jobs.filter fun j => isShard j.key, j.over = true ∧ j.failed = none := by
    intro j hj
    obtain ⟨hmem, hkey⟩ := List.mem_filter.mp hj
    exact hjobs j hmem (isShard_iff.mp hkey)
  have hall : (s.jobs.filter fun j => isShard j.key).all (·.over) = true :=
    List.all_eq_true.mpr fun j hj => (hshards j hj).1
  have hnone : (s.jobs.filter fun j => isShard j.key).any (·.failed.isSome) = false :=
    List.any_eq_false.mpr fun j hj => by simp [(hshards j hj).2]
  refine (if_neg (not_not_intro ⟨hc, hst, hall⟩)).trans ((if_neg (ne_true_of_eq_false hnone)).trans ?_)
  rw [hch]
  rfl

theorem judgeShard_digest {s : State} {slot : Bool} {j : Job}
    (hd : (Config.sha256 j.bytes).toNat ≠ leAt s.ckpt.fragment 96 32) :
    judgeShard s slot j = readCandidate (dropJob s (.shard slot)) s.ckpt.cands.tail := by
  unfold judgeShard
  dsimp only
  rw [if_pos hd]

/-- A shard of another device, its digest good, waits for the acknowledgement. -/
theorem judgeShard_foreign {s : State} {slot : Bool} {j : Job}
    (hd : (Config.sha256 j.bytes).toNat = leAt s.ckpt.fragment 96 32)
    (hi : leAt s.ckpt.fragment 24 48 ≠ s.boot.identity.toNat) : (judgeShard s slot j).ckpt.st = .awaitingAck := by
  unfold judgeShard
  dsimp only
  rw [if_neg (not_not_intro hd), if_pos hi]
  rfl

theorem foreignAcknowledgement_taken {s : State} {path : Path} {b : Bool} (h : Served s path 0x2803 1)
    (hst : s.ckpt.st = .awaitingAck) (hb : s.ckpt.chosen = some b) :
    exec (.foreignAcknowledgement path 0x5A3C) s = .next (settle (respond (installShard
      (heard s path 0x2803) b s.ckpt.fragment (((jobOf s (.shard b)).map Job.bytes).getD [])) path 0 [])) := by
  refine mgmtWrite_ok (act := foreignAck 0x5A3C) h ?_
  unfold foreignAck
  rw [guardWrite_free (by simp [hst]), if_pos rfl, heard_ckpt, hb]
  unfold jobOf
  rw [heard_jobs]

theorem foreignAcknowledgement_refused {s : State} {path : Path} {v : W16} (h : Served s path 0x2803 1)
    (hst : s.ckpt.st = .awaitingAck) (hv : v ≠ 0x5A3C) :
    exec (.foreignAcknowledgement path v) s
      = .next (settle (respond (closeCheckpoint (heard s path 0x2803) 0x56) path 0 [])) := by
  refine mgmtWrite_ok (act := foreignAck v) h ?_
  unfold foreignAck
  rw [guardWrite_free (by simp [hst]), if_neg hv]

/-- Settles O57: a restore reads the slots that are set, and its shard is judged by its digest and its device. -/
theorem restoreSteps : Obligations.RestoreSteps := by
  unfold Obligations.RestoreSteps
  refine ⟨fun path s h => restore_of h, fun path s h => restore_operational h, fun s => exec_restoreReadDone,
    fun s => rfl, fun slot j s hi => ?_, fun path v b s h hst hb => ⟨fun hv => ?_, foreignAcknowledgement_refused h hst⟩⟩
  · split
    next hd => exact judgeShard_foreign hd hi
    next hd => exact judgeShard_digest hd
  · rw [hv]
    exact foreignAcknowledgement_taken h hst hb

/-! ## Within the tick, and global time (02 R42 to R46; 18 R516 to R519) -/

theorem calLog_mgmt (s : State) (e : CalEntry) : (calLog s e).mgmt = s.mgmt := by
  unfold calLog
  dsimp only
  split
  · rfl
  · simp only [sendWrite_mgmt]

theorem closeSlot_mgmt (k : TickRef) (s : State) (slot : Nat) : (closeSlot k s slot).mgmt = s.mgmt := by
  have habove : ∀ (b : Bool) (u : State), (if b then raise u .scaleCeiling {} slot else u).mgmt = u.mgmt := by
    intro b u
    cases b <;> rfl
  unfold closeSlot
  dsimp only
  split
  · rfl
  · split
    · exact habove ..
    · rw [calLog_mgmt]
      exact habove ..

theorem closePeriod_mgmt (s : State) (k : TickRef) : (closePeriod s k).mgmt = s.mgmt := by
  show ((s.cal.slots.map (·.1)).foldl (closeSlot k) s).mgmt = s.mgmt
  induction s.cal.slots.map (·.1) generalizing s with
  | nil => rfl
  | cons x xs ih => rw [List.foldl_cons, ih, closeSlot_mgmt]

theorem exec_intakeClose {s : State} (hn : nodeUp s = true) (hi : s.tick.cur.idx ≠ 0) (hclosed : s.tick.intakeClosed = false)
    (ht : s.tick.at_ + s.tick.intakeClose.toNat ≤ s.time.now) :
    let t := { s with tick := { s.tick with intakeClosed := true } }
    let u := if s.cal.periodOpen = true ∧ s.cal.closed = false ∧ s.tick.afterEntry = false
      then closePeriod t s.tick.cur else t
    exec .intakeClose s = .next (settle (if s.mgmt.nmt = .operational ∧ s.tick.opTick = true then buildPlan u else u)) := by
  have hmgmt : ∀ (c : Prop) [Decidable c] (t : State) (k : TickRef), (if c then closePeriod t k else t).mgmt = t.mgmt := by
    intro c _ t k
    split
    · exact closePeriod_mgmt t k
    · rfl
  show execIntakeClose s = _
  unfold execIntakeClose
  dsimp only
  rw [if_neg (by simp [hn, hi, hclosed, ht])]
  simp only [hmgmt, Bool.not_eq_true]
  rfl

theorem emcySend_queued {s : State} (hn : s.mgmt.nmt = .operational ∨ s.mgmt.nmt = .preOperational)
    (hl : s.mgmt.emcyQueue.length < 16) (code : W16) (reg : Byte) (detail : BitVec 40) :
    (emcySend s code reg detail).mgmt.emcyQueue = s.mgmt.emcyQueue ++ [{ code := code, reg := reg, detail := detail }] := by
  unfold emcySend
  rcases hn with hn | hn <;>
  · rw [hn]
    dsimp only
    rw [if_pos hl]

/-- Settles O59: the intake closes once, a missing tick is reported, and a run of overruns is sent as one EMCY. -/
theorem withinTheTick : Obligations.WithinTheTick := by
  unfold Obligations.WithinTheTick
  exact ⟨fun s hn hi hclosed ht => ⟨exec_intakeClose hn hi hclosed ht, rfl⟩, fun s ho ht => if_pos ⟨ho, ht⟩,
    fun s hc hl hs => if_pos ⟨hc, hl, ne_true_of_eq_false hs⟩, fun s hn hl => emcySend_queued hn hl⟩

/-- What a toggle of the apply loads. -/
def gtLoaded (s : State) (level : Bool) (lo hi : W32) : State :=
  { s with time := { s.time with
      freeIdx := s.time.freeIdx + 1, gtLoad := hi ++ lo, gtApply := level, gt := hi ++ lo
      gtLag := if Config.freeBit s.time.freeIdx then 2 else 3 } }

/-- Settles O60: a toggled apply loads the levels, and a free bit chooses between its two delays. -/
theorem globalTimeLoads : Obligations.GlobalTimeLoads := by
  unfold Obligations.GlobalTimeLoads
  intro level lo hi s hp hclk
  have hready : ¬ (s.pwr.power ≠ .active ∨ s.pwr.stopped.contains .refclk) := by
    rw [hp, hclk]
    simp
  refine ⟨fun hl => (if_neg hready).trans (if_pos hl), fun hl => ?_⟩
  have hexec : exec (.gtApply level lo hi) s = .next (gtLoaded s level lo hi) := (if_neg hready).trans (if_neg hl)
  refine ⟨_, hexec, rfl, rfl, ?_, rfl, ?_⟩
  · exact ite_is_branch ..
  · exact frame_of_copied rfl

end Sys2Proof.Machine
end

section
/-! SUPPORT. What O5 says of the commands: none but CLOCK_RETURN leaves an error record of its own waiting, and a cycle's
end forms the error register (17 R498, R503). CLOCK_RETURN answers a free state, `lostState`, of which the model
says nothing (18 R526; log 10): O5 holds exactly where that state is settled. -/
namespace Sys2Proof.Machine
open Sys2Proof

/-! ## Outcomes that are settled -/

/-- From a settled state the outcome is a settled one, unless it stops the machine. -/
def Settles (s : State) (o : Host.Outcome State Fault Refusal) : Prop := Settled s → ∀ t, o = .next t → Settled t

namespace Settles
variable {s u : State}

theorem done : Settles s (done u) := fun _ _ h => done_settled h
theorem next (h : u.err.raised = s.err.raised) : Settles s (.next u) := fun hs _ ht => next_settled hs ht h
theorem same : Settles s (.next s) := next rfl
theorem steady (h : Steady s u) : Settles s (.next u) := next (congrArg ErrState.raised h.1)
theorem cleared (h : Settled u) : Settles s (.next u) := fun _ _ ht => next_settled h ht rfl

theorem ite {c : Prop} [Decidable c] {a b : Host.Outcome State Fault Refusal} (ha : Settles s a) (hb : Settles s b) :
    Settles s (if c then a else b) := by split <;> assumption

/-- An `if` that does nothing unless its condition holds. -/
theorem when {c : Prop} [Decidable c] {a : Host.Outcome State Fault Refusal} (ha : Settles s a) :
    Settles s (if c then a else .next s) := ite ha same

/-- An `if` that does nothing when its condition holds. -/
theorem guard {c : Prop} [Decidable c] {a : Host.Outcome State Fault Refusal} (ha : Settles s a) :
    Settles s (if c then .next s else a) := ite same ha

theorem mgmtWrite {path : Path} {index : W16} {sub : Byte} {act : State → WriteRes} :
    Settles s (mgmtWrite s path index sub act) := fun hs _ => mgmtWrite_settled hs
theorem nmtCommand {via : NmtVia} {f : State → State} : Settles s (nmtCommand via f s) := fun hs _ => nmtCommand_settled hs
theorem receive {d : Desc} {kind : DKind} {errs : List DetErr} (before : State → Slot → State) :
    Settles s (receive s d kind before errs) := fun _ _ => receive_settled

end Settles

/-! ## Operations that raise nothing -/

theorem foldl_raised {α} (f : State → α → State) (h : ∀ s x, (f s x).err.raised = s.err.raised) (l : List α) (s : State) :
    (l.foldl f s).err.raised = s.err.raised := by
  induction l generalizing s with
  | nil => rfl
  | cons a t ih => exact (ih _).trans (h s a)

theorem startJob_raised (s : State) (k : JobKey) (p : Fin 8) (a : W64) (n : Nat) :
    (startJob s k p a n).err.raised = s.err.raised := congrArg ErrState.raised (startJob_steady s k p a n).1

theorem formBatch_raised (s : State) (d : BitVec 10) : (formBatch s d).err.raised = s.err.raised := by
  unfold formBatch
  dsimp only
  split <;> rfl

theorem planTiles_raised (s : State) (ts : List Tile) : (planTiles s ts).err.raised = s.err.raised := by
  refine foldl_raised _ (fun u t => ?_) _ _
  dsimp only
  split <;> rfl

theorem startBatch_raised (s : State) (b : Batch) : (startBatch s b).err.raised = s.err.raised := by
  unfold startBatch
  exact (foldl_raised _ (fun _ _ => startJob_raised ..) _ _).trans (planTiles_raised _ _)

theorem placeBatches_raised (s : State) (l : List Batch) : (placeBatches s l).err.raised = s.err.raised := by
  induction l generalizing s with
  | nil => rfl
  | cons b t ih =>
    unfold placeBatches
    split
    · exact ih s
    · split
      · exact (ih _).trans (startBatch_raised s b)
      · rfl

theorem takeItem_raised (e i : Nat) (s : State) (n : Nat) : (takeItem e i s n).err.raised = s.err.raised := by
  unfold takeItem
  dsimp only
  split <;> rfl

theorem spaceTokens_raised (s : State) (e : Nat) (t : Tile) (ns : List Nat) :
    (spaceTokens s e t ns).err.raised = s.err.raised := by
  unfold spaceTokens
  dsimp only
  split
  · rfl
  · refine foldl_raised _ (fun u x => ?_) _ _
    split <;> rfl

theorem takeTile_raised (s : State) (e : Nat) (w : TileOf) (i : Nat) (t : Tile) :
    (takeTile s e w i t).err.raised = s.err.raised := by
  unfold takeTile
  split
  · exact (foldl_raised _ (fun _ _ => takeItem_raised ..) _ _).trans (spaceTokens_raised ..)
  · rfl

theorem tapDebug_err (s : State) (code : Byte) (acts : Bool) : (tapDebug s code acts).err = s.err := by
  unfold tapDebug
  dsimp only
  split <;> rfl

/-! ## Commands that branch on what they find -/

section Branching
variable {s : State}

theorem execConsumerIndexReturn_settles (p : Fin 8) (tag : BitVec 15) (v : W32) :
    Settles s (execConsumerIndexReturn p tag v s) := by
  unfold execConsumerIndexReturn
  split
  · split
    · exact .when .done
    · exact .same
  · exact .same

theorem execParkLimitExpiry_settles (slot : Slot) : Settles s (execParkLimitExpiry slot s) := by
  unfold execParkLimitExpiry
  dsimp only
  split
  · exact .same
  · exact .guard .done

theorem execFillTicksExpiry_settles (set : BitVec 10) : Settles s (execFillTicksExpiry set s) := by
  refine .when (.next ?_)
  split
  · exact (placeBatches_raised ..).trans (formBatch_raised s set)
  · exact formBatch_raised s set

theorem execPowerOnReset_settles : Settles s (execPowerOnReset s) := by
  unfold execPowerOnReset
  dsimp only
  split
  · exact .next rfl
  · exact .next rfl
  · exact .cleared rfl

theorem execHostReset_settles : Settles s (execHostReset s) := by
  unfold execHostReset
  split
  · exact .next rfl
  · exact .next rfl
  · exact .cleared rfl

theorem lockout_settled (hs : Settled s) : Settled (lockout s) := by
  unfold lockout
  split
  · exact hs
  · rfl

theorem execSupplyLockout_settles (mV : W32) : Settles s (execSupplyLockout mV s) := by
  intro hs
  have hlost : Settles s (.next (lockout s)) := .cleared (lockout_settled hs)
  unfold execSupplyLockout
  dsimp only
  split
  · split
    · exact fun _ ht => nomatch ht
    · exact Settles.cleared (s := s) (lockout_settled (s := (takeBit s).2) hs) hs
  · exact Settles.when hlost hs

theorem execBootBlockRead_settles : Settles s (execBootBlockRead s) := by
  unfold execBootBlockRead
  split
  · exact .guard (.ite .done (.ite (.next (startJob_raised ..)) .done))
  · exact .same

theorem execImageLoad_settles : Settles s (execImageLoad s) := by
  unfold execImageLoad
  split
  · split
    · exact .guard (.ite .done (.ite (.next (startJob_raised ..)) .done))
    · exact .same
  · split
    · exact .guard (.ite .done (.ite (.next (congrArg ErrState.raised (sendBytes_steady ..).1)) .done))
    · exact .same
  · exact .same

theorem execSensorSample_settles (rs : List W16) : Settles s (execSensorSample rs s) := by
  unfold execSensorSample
  refine .guard ?_
  split
  · exact .same
  · exact .done

theorem execCompletion_settles (p : Fin 8) (tag : W16) (data : List Byte) : Settles s (execCompletion p tag data s) := by
  unfold execCompletion
  refine .guard (.ite ?_ ?_)
  · split
    · exact .done
    · exact .ite .done .done
  · split
    · exact .done
    · exact .done

theorem execCompletionError_settles (p : Fin 8) (tag : W16) : Settles s (execCompletionError p tag s) := by
  unfold execCompletionError
  refine .guard (.ite ?_ ?_)
  · split
    · exact .done
    · exact .done
  · split
    · exact .done
    · exact .done

theorem execReadTimeout_settles (p : Fin 8) (tag : BitVec 15) : Settles s (execReadTimeout p tag s) := by
  unfold execReadTimeout
  split
  · exact .when .done
  · exact .same

theorem execWriteTimeout_settles (p : Fin 8) (tag : BitVec 15) : Settles s (execWriteTimeout p tag s) := by
  unfold execWriteTimeout
  split
  · exact .when .done
  · exact .same

theorem execFeedback_settles (d : Desc) : Settles s (execFeedback d s) := by
  unfold execFeedback
  split
  · exact .done
  · exact .ite .done .done

theorem execPublish_settles (d : Desc) : Settles s (execPublish d s) := by
  unfold execPublish
  split
  · exact .done
  · exact .ite .done (.ite .done (.ite .done .done))

theorem execTileStart_settles (e : Fin 48) (w : TileOf) (l : TileLoad) : Settles s (execTileStart e w l s) := by
  unfold execTileStart
  dsimp only
  split
  · exact .same
  · exact .guard (.next (takeTile_raised ..))

theorem execTileComplete_settles (e : Fin 48) (heads : List Heads) (stash : Option StashWrite) (errs : List DetErr) :
    Settles s (execTileComplete e heads stash errs s) := by
  unfold execTileComplete
  dsimp only
  split
  · exact .same
  · exact .guard .done

theorem execMortiseSearchResult_settles (id : Nat) (ecc : Ecc) : Settles s (execMortiseSearchResult id ecc s) := by
  unfold execMortiseSearchResult
  split
  · exact .same
  · refine .guard ?_
    split
    · exact .done
    · exact .done

theorem execColdMoveComplete_settles (slot : Slot) : Settles s (execColdMoveComplete slot s) := by
  unfold execColdMoveComplete
  dsimp only
  split
  · exact .guard .done
  · exact .same

theorem execColdCopyBack_settles (slot : Slot) : Settles s (execColdCopyBack slot s) := by
  unfold execColdCopyBack
  dsimp only
  split
  · refine .guard ?_
    split
    · exact .done
    · exact .done
  · exact .same

theorem execColdExpiry_settles (slot : Slot) : Settles s (execColdExpiry slot s) := by
  unfold execColdExpiry
  exact .when (.steady (((dropWrites_steady s _).trans (dropJob_steady _ _)).trans (modReq_steady _ slot _)))

theorem execCopyBeforeWrite_settles (page : BitVec 22) : Settles s (execCopyBeforeWrite page s) := by
  unfold execCopyBeforeWrite
  refine .when (.ite .done (.next ?_))
  split <;> rfl

theorem execPegRewrite_settles (e : Fin 48) (k : W16) : Settles s (execPegRewrite e k s) := by
  unfold execPegRewrite
  dsimp only
  split
  · exact .same
  · exact .guard (.next rfl)

theorem execMicroBatchComplete_settles (seq : W64) (res : BatchResult) : Settles s (execMicroBatchComplete seq res s) := by
  unfold execMicroBatchComplete
  split
  · exact .same
  · exact .guard (.ite .done (.ite (.next rfl) .done))

theorem execCutComplete_settles (set : BitVec 10) : Settles s (execCutComplete set s) := by
  unfold execCutComplete
  dsimp only
  split
  · exact .when .done
  · exact .same

theorem execCascadeResultFrame_settles (f : ResultFrame) (crc : W16) : Settles s (execCascadeResultFrame f crc s) := by
  unfold execCascadeResultFrame
  refine .guard (.ite .done (.ite ?_ ?_))
  · split
    · exact .next rfl
    · exact .same
  · split
    · exact .next rfl
    · exact .same

theorem execCascadeTimeout_settles (id : Nat) : Settles s (execCascadeTimeout id s) := by
  unfold execCascadeTimeout
  split
  · exact .same
  · exact .guard (.ite .done .done)

theorem execCascadeProbeReturn_settles (p : Probe) : Settles s (execCascadeProbeReturn p s) := by
  unfold execCascadeProbeReturn
  refine .ite (.when (.next rfl)) ?_
  split
  · exact .same
  · exact .guard (.ite .done .done)

theorem execCascadeProbeTimeout_settles : Settles s (execCascadeProbeTimeout s) := by
  unfold execCascadeProbeTimeout
  split
  · exact .same
  · exact .when .done

theorem execScrubVisit_settles (b : Bool) : Settles s (execScrubVisit b s) :=
  .guard (.ite (.next rfl) (.ite .done (.ite (.next rfl) .done)))

theorem execBulkUpdateRecord_settles : Settles s (execBulkUpdateRecord s) := by
  unfold execBulkUpdateRecord
  split
  · refine .guard ?_
    split
    · exact .ite (.next rfl) (.steady (bulkApply_steady ..))
    · exact .when .done
  · exact .same

theorem execCursorStepDone_settles (ecc : Ecc) : Settles s (execCursorStepDone ecc s) := by
  unfold execCursorStepDone
  split
  · exact .same
  · refine .guard ?_
    split
    · exact .done
    · exact .done

theorem execPlanLoadDone_settles (p : Byte) (decl : PlanDecl) : Settles s (execPlanLoadDone p decl s) := by
  unfold execPlanLoadDone
  split
  · exact .guard (.ite .done .done)
  · exact .same

theorem execVocabLoadDone_settles (v : Fin 8) : Settles s (execVocabLoadDone v s) := by
  unfold execVocabLoadDone
  split
  · exact .guard (.ite .done .done)
  · exact .same

theorem execGrammarLoadDone_settles (g : Fin 64) : Settles s (execGrammarLoadDone g s) := by
  unfold execGrammarLoadDone
  split
  · exact .guard (.ite .done .done)
  · exact .same

theorem execDeltaLoadDone_settles (d : BitVec 10) : Settles s (execDeltaLoadDone d s) := by
  unfold execDeltaLoadDone
  split
  · exact .guard (.ite .done .done)
  · exact .same

theorem execBackboneLoadDone_settles (b : BitVec 10) : Settles s (execBackboneLoadDone b s) := by
  unfold execBackboneLoadDone
  split
  · exact .guard (.ite .done .done)
  · exact .same

theorem execRegisterWrite_settles (path : Path) (index : W16) (sub : Byte) (x : Xfer) (data : List Byte) :
    Settles s (execRegisterWrite path index sub x data s) := by
  unfold execRegisterWrite
  refine .guard ?_
  dsimp only
  split
  case h_5 => exact .ite .done .done
  all_goals exact .done

theorem execUsdoUpload_settles (path : Path) (index : W16) (sub : Byte) (x : Xfer) :
    Settles s (execUsdoUpload path index sub x s) := by
  unfold execUsdoUpload
  refine .guard ?_
  dsimp only
  split
  all_goals exact .done

theorem execUsdoSegmentTimeout_settles (path : Path) : Settles s (execUsdoSegmentTimeout path s) := by
  unfold execUsdoSegmentTimeout
  split
  · exact .same
  · exact .when .done

theorem execEmcyTransmit_settles : Settles s (execEmcyTransmit s) := by
  unfold execEmcyTransmit
  dsimp only
  split
  · exact .same
  · exact .when (.next rfl)

theorem execRestoreReadDone_settles : Settles s (execRestoreReadDone s) := by
  unfold execRestoreReadDone
  refine .guard (.ite .done ?_)
  split
  · exact .done
  · split
    · exact .done
    · exact .same

/-- What the TAP does reports nothing (19 R554). -/
theorem whenPowered_settles {f : State → State} (h : (f s).err = s.err) : Settles s (whenPowered s f) :=
  .when (.next (congrArg ErrState.raised h))

theorem tapDebug_settles (code : Byte) (acts : State → Bool) :
    Settles s (whenPowered s fun u => tapDebug u code (acts u)) := whenPowered_settles (tapDebug_err ..)

theorem execMbist_settles : Settles s (execMbist s) := by
  refine whenPowered_settles ?_
  dsimp only
  split
  · exact tapDebug_err ..
  · exact tapDebug_err ..

theorem execLockDebug_settles : Settles s (execLockDebug s) := by
  refine whenPowered_settles ?_
  dsimp only
  split
  all_goals rfl

end Branching

/-! ## Every command but CLOCK_RETURN -/

/-- No command but CLOCK_RETURN leaves an error record outside those of its cycle (17 R498). -/
theorem exec_settles (c : Instr) (s : State) (hc : ∀ src, c ≠ .clockReturn src) : Settles s (exec c s) := by
  cases c with
  | clockReturn src => exact absurd rfl (hc src)
  | tickRegistration | intakeClose | linkTrainingDone | selfTestDone | fuseSenseDone | supplySample | linkUp | linkRetry
  | unknownType | descriptorDequeue => exact .guard .done
  | overrunThreshold | tickAbsent | autoCut | holdRing | evidenceWrite | droopOverlimit | hostMessageReservedOp
  | maskWriteComplete | checkpointWriteDone => exact .when .done
  | linkDown | linkRetrain => exact .guard (.ite .done .done)
  | clockLoss => exact .guard (.next rfl)
  | pinLimitExpiry | pllLock | vinRise | railsGood | internalResetRelease | droop | hbm4CatastrophicTemperature | hostRead
  | snapshotRestore | shadowRefresh | heartbeat | tpdoEventTimer => exact .when (.next rfl)
  | droopRecovery => exact .next rfl
  | resetRelease | mbxPost | gtApply => exact .guard (.ite (.next rfl) (.next rfl))
  | hbmTrainingDone => exact .guard (.ite (.next rfl) .done)
  | deviceIdDerive => exact .guard (.ite (.next (startJob_raised ..)) .done)
  | bootRetry => exact .when (.next (startJob_raised ..))
  | hostWriteStray => exact .guard (.ite .done (.when .done))
  | vocabOverflowRead => exact .when (.ite (.next rfl) .done)
  | cascadeKeyFrame => exact .guard (.ite .done (.guard (.next rfl)))
  | openReq | prompt | accept | pause | cancel | close => exact .receive fun u _ => u
  | tokens d errs => exact .receive (raiseTokensErrs (errs.filter tokensErr) d)
  | resumeCold | resumeHoldRelease => exact .when (.receive fun u _ => u)
  | startRemoteNode | stopRemoteNode | enterPreOperational | resetNode | resetCommunication => exact .nmtCommand
  | bulkUpdateRun | mortiseInvalidate | mortiseWrite | mortiseValidate | updateWindowEntry | cursorFirst | cursorNext
  | keyCaptureArm | planLoad | planUnload | deltaLoad | deltaCut
  | dropStaging | deltaDelete | backboneLoad | dropOther | tuningEnable | functionStart | functionStop | errorListClear
  | rearm | acknowledge | enginePoolWrite | tenantValidWrite | checkpoint | restore | foreignAcknowledgement =>
    exact .mgmtWrite
  | vocabLoad path v => exact .mgmtWrite (act := fun u => vocabLoad u v)
  | vocabUnload path v => exact .mgmtWrite (act := fun u => vocabUnload u v)
  | grammarLoad path g => exact .mgmtWrite (act := fun u => grammarLoad u g)
  | grammarUnload path g => exact .mgmtWrite (act := fun u => grammarUnload u g)
  | tapReset | extest | samplePreload | idcode | bypass => exact .when (.next rfl)
  | stackSelect => exact tapDebug_settles 0x10 (·.pwr.porst)
  | wrapper => exact tapDebug_settles 0x11 (·.pwr.porst)
  | scanDump => exact tapDebug_settles 0x13 (·.pwr.porst)
  | debugAccess => exact tapDebug_settles 0x14 fun _ => true
  | lockDebug => exact execLockDebug_settles
  | mbist => exact execMbist_settles
  | powerOnReset => exact execPowerOnReset_settles
  | hostReset => exact execHostReset_settles
  | supplyLockout mV => exact execSupplyLockout_settles mV
  | consumerIndexReturn p tag v => exact execConsumerIndexReturn_settles p tag v
  | parkLimitExpiry slot => exact execParkLimitExpiry_settles slot
  | coldExpiry slot => exact execColdExpiry_settles slot
  | fillTicksExpiry set => exact execFillTicksExpiry_settles set
  | bootBlockRead => exact execBootBlockRead_settles
  | imageLoad => exact execImageLoad_settles
  | sensorSample rs => exact execSensorSample_settles rs
  | completion p tag data => exact execCompletion_settles p tag data
  | completionError p tag => exact execCompletionError_settles p tag
  | readTimeout p tag => exact execReadTimeout_settles p tag
  | writeTimeout p tag => exact execWriteTimeout_settles p tag
  | feedback d => exact execFeedback_settles d
  | publish d => exact execPublish_settles d
  | tileStart e w l => exact execTileStart_settles e w l
  | tileComplete e heads stash errs => exact execTileComplete_settles e heads stash errs
  | mortiseSearchResult id ecc => exact execMortiseSearchResult_settles id ecc
  | coldMoveComplete slot => exact execColdMoveComplete_settles slot
  | coldCopyBack slot => exact execColdCopyBack_settles slot
  | copyBeforeWrite page => exact execCopyBeforeWrite_settles page
  | pegRewrite e k => exact execPegRewrite_settles e k
  | microBatchComplete seq res => exact execMicroBatchComplete_settles seq res
  | cutComplete set => exact execCutComplete_settles set
  | cascadeResultFrame f crc => exact execCascadeResultFrame_settles f crc
  | cascadeTimeout id => exact execCascadeTimeout_settles id
  | cascadeProbeReturn p => exact execCascadeProbeReturn_settles p
  | cascadeProbeTimeout => exact execCascadeProbeTimeout_settles
  | scrubVisit b => exact execScrubVisit_settles b
  | bulkUpdateRecord => exact execBulkUpdateRecord_settles
  | cursorStepDone ecc => exact execCursorStepDone_settles ecc
  | planLoadDone p decl => exact execPlanLoadDone_settles p decl
  | vocabLoadDone v => exact execVocabLoadDone_settles v
  | grammarLoadDone g => exact execGrammarLoadDone_settles g
  | deltaLoadDone d => exact execDeltaLoadDone_settles d
  | backboneLoadDone b => exact execBackboneLoadDone_settles b
  | registerWrite path index sub x data => exact execRegisterWrite_settles path index sub x data
  | usdoUpload path index sub x => exact execUsdoUpload_settles path index sub x
  | usdoSegmentTimeout path => exact execUsdoSegmentTimeout_settles path
  | emcyTransmit => exact execEmcyTransmit_settles
  | restoreReadDone => exact execRestoreReadDone_settles

/-! ## A cycle's end -/

/-- The records that a search leaves: the action word that it reads has an error (07 R229). -/
def OfASearch (e : Raised) : Prop := e.code = .mortiseEcc ∨ e.code = .mortiseEccCorrected

/-- The error register is formed, and what waits was met by a search. -/
structure OnlySearchesMet (s : State) : Prop where
  formed : s.err.lastReg = errorRegister s
  raised : ∀ e ∈ s.err.raised, OfASearch e
  cycle : ∀ e ∈ s.err.cycle, OfASearch e

namespace OnlySearchesMet
variable {s u : State}

theorem of_reported (h : Reported s) : OnlySearchesMet s := by
  obtain ⟨hraised, hcycle, hformed⟩ := h
  exact ⟨hformed, by simp [hraised], by simp [hcycle]⟩

theorem steady (h : OnlySearchesMet s) (k : Steady s u) : OnlySearchesMet u := by
  obtain ⟨herr, hreg⟩ := k
  exact ⟨by rw [herr, hreg]; exact h.formed, by rw [herr]; exact h.raised, by rw [herr]; exact h.cycle⟩

theorem raise (h : OnlySearchesMet s) {code : ErrCode} (hc : code = .mortiseEcc ∨ code = .mortiseEccCorrected)
    (place : Place) (a b : Nat) : OnlySearchesMet (raise s code place a b) where
  formed := h.formed
  raised e he := (List.mem_append.mp he).elim (h.raised e) fun hnew => List.mem_singleton.mp hnew ▸ hc
  cycle := h.cycle

theorem ite {c : Prop} [Decidable c] (hs : OnlySearchesMet s) (hu : OnlySearchesMet u) :
    OnlySearchesMet (if c then s else u) := by split <;> assumption

end OnlySearchesMet

theorem captureKey_steady (s : State) (q : SearchReq) (w : W32 × W32) : Steady s (captureKey s q w) := by
  unfold captureKey
  dsimp only
  split
  · exact mortise_steady rfl
  · exact .refl s

theorem issueSearch_steady (s : State) (q : SearchReq) : Steady s (issueSearch s q) :=
  (captureKey_steady s q _).trans (mortise_steady rfl)

theorem readAction_onlySearchesMet {s : State} (h : OnlySearchesMet s) (f : Found) (issue : Nat) (ecc : Ecc)
    (handle : W32) : OnlySearchesMet (readAction s f issue ecc handle).1 := by
  have hnoted {c : Prop} [Decidable c] (e : Nat) (v : MEntry) : OnlySearchesMet (if c then setEntry s e v else s) :=
    .ite (h.steady (mortise_steady rfl)) h
  unfold readAction
  dsimp only
  split
  · exact h
  · split
    · exact hnoted _ _
    · exact (hnoted _ _).raise (.inr rfl) _ _ _
    · exact (hnoted _ _).raise (.inl rfl) _ _ _

theorem issueRemote_onlySearchesMet {s : State} (h : OnlySearchesMet s) (q : SearchReq) :
    OnlySearchesMet (issueRemote s q) := by
  unfold issueRemote
  split
  · exact (readAction_onlySearchesMet h ..).steady (mortise_steady rfl)
  · exact h

theorem grantSearch_onlySearchesMet {s : State} (h : OnlySearchesMet s) : OnlySearchesMet (grantSearch s) := by
  have hissue (m : MortiseState) (hm : m.ring = s.mortise.ring) (q : SearchReq) :
      OnlySearchesMet (issueSearch { s with mortise := m } q) :=
    h.steady ((mortise_steady hm).trans (issueSearch_steady _ q))
  unfold grantSearch
  dsimp only
  split
  · exact issueRemote_onlySearchesMet (h.steady (mortise_steady (by rfl))) _
  · split
    · exact h
    · split
      · exact hissue _ (by rfl) _
      · split
        · exact hissue _ (by rfl) _
        · split
          · exact hissue _ (by rfl) _
          · exact h

theorem bulkCycle_steady (s : State) : Steady s (bulkCycle s) := by
  unfold bulkCycle
  split
  · exact .refl s
  · dsimp only
    split
    · exact (mortise_steady rfl).trans (bulkRecordDone_steady _)
    · exact mortise_steady rfl

theorem pumpAt_steady (s : State) (p : Fin 8) : Steady s (pumpAt s p) :=
  pumpAfter_steady s p id (fun _ => rfl) fun _ => rfl

theorem mem_insertRaised {e x : Raised} {l : List Raised} (h : x ∈ insertRaised e l) : x = e ∨ x ∈ l := by
  induction l with
  | nil => exact .inl (List.mem_singleton.mp h)
  | cons a t ih =>
    unfold insertRaised at h
    split at h
    · exact List.mem_cons.mp h
    · cases h with
      | head => exact .inr (.head t)
      | tail _ h => exact (ih h).imp_right (.tail a)

theorem mem_foldl_insertRaised {x : Raised} {l c : List Raised} (h : x ∈ l.foldl (fun l e => insertRaised e l) c) :
    x ∈ l ∨ x ∈ c := by
  induction l generalizing c with
  | nil => exact .inr h
  | cons a t ih =>
    rcases ih h with h | h
    · exact .inl (.tail a h)
    · rcases mem_insertRaised h with rfl | h
      · exact .inl (.head t)
      · exact .inr h

theorem OnlySearchesMet.settle {s : State} (h : OnlySearchesMet s) : OnlySearchesMet (settle s) where
  formed := h.formed
  raised _ he := nomatch he
  cycle e he := (mem_foldl_insertRaised he).elim (h.raised e) (h.cycle e)

/-- A cycle's end forms the error register; what waits after it was met by the search of the next cycle (17 R498). -/
theorem acTick_onlySearchesMet (s : State) : OnlySearchesMet (acTick s) := by
  unfold acTick
  extract_lets u runs v now w
  have hv : OnlySearchesMet v := .of_reported (report_reported (settle_settled _))
  clear_value v
  split
  · have hcounted : OnlySearchesMet { v with time := { v.time with now := v.time.now + 1 } } := hv.steady ⟨rfl, rfl⟩
    have hw : OnlySearchesMet w := (grantSearch_onlySearchesMet hcounted).steady (bulkCycle_steady _)
    exact hw.steady (foldl_steady _ (fun x p => pumpAt_steady x _) _ _)
  · exact hv

theorem cycleEnd_onlySearchesMet {s t : State} (hp : s.pending = []) (h : step s = .next t) : OnlySearchesMet t := by
  rw [step_idle hp] at h
  cases h
  exact (acTick_onlySearchesMet s).settle

/-! ## CLOCK_RETURN (18 R526; log 10) -/

/-- What CLOCK_RETURN leaves waiting is what waits in the free state that it answers. -/
theorem execClockReturn_settled {s : State} {src : ClockSrc} (hlost : Settled (lostState s.time.freeIdx)) :
    Settles s (execClockReturn src s) := .when (.cleared hlost)

/-- A machine whose reference clock stands, about to return, with the `n`-th free value next. -/
def clockReturning (n : Nat) : State :=
  { pending := [.clockReturn .refclk], time := { freeIdx := n }, pwr := { stopped := [.refclk] } }

theorem step_clockReturning (n : Nat) :
    ∃ t, step (clockReturning n) = .next t ∧ t.err.raised = (lostState n).err.raised := ⟨_, rfl, rfl⟩

/-- O5 holds exactly where every free state of `lostState` is settled. That constant is opaque, so the model decides
neither side. -/
theorem stepKeepsSettled_iff : Obligations.StepKeepsSettled ↔ ∀ n, Settled (lostState n) := by
  unfold Obligations.StepKeepsSettled
  refine ⟨fun ⟨hstep, _⟩ n => ?_, fun hlost => ⟨fun s t hs ht => ?_, fun s t hp ht => ?_⟩⟩
  · obtain ⟨t, ht, hraised⟩ := step_clockReturning n
    exact hraised.symm.trans (hstep (clockReturning n) t rfl ht)
  · cases hp : s.pending with
    | nil =>
      rw [step_idle hp] at ht
      cases ht
      exact settle_settled _
    | cons c rest =>
      have hexec : exec c { s with pending := rest } = .next t := by
        rw [← ht]
        unfold step
        rw [hp]
      by_cases hc : ∃ src, c = .clockReturn src
      · obtain ⟨src, rfl⟩ := hc
        exact execClockReturn_settled (s := { s with pending := rest }) (hlost _) hs t hexec
      · exact exec_settles c { s with pending := rest } (fun src h => hc ⟨src, h⟩) hs t hexec
  · have h := cycleEnd_onlySearchesMet hp ht
    exact ⟨h.formed, h.cycle⟩

end Sys2Proof.Machine
end
